-- ==== Sys2Proof/Word.lean ====
section
/-! DEFINITION. The word types of the Z9: 64-bit registers, bytes, 512-bit lines and vectors (R5, R51), the 96-bit
accumulator element (R123), and the type of a finite table. The operations on tables and bit fields are in
Machine/Bits.lean. -/

namespace Sys2Proof

/-- A 64-bit register, address or typed word (R51). -/
abbrev Word := BitVec 64

/-- One byte. -/
abbrev Byte := BitVec 8

/-- A 64-byte line, and equally a 512-bit vector register: lane 0 is at the lowest address (R4, R5). -/
abbrev Line := BitVec 512

/-- An element of an accumulator tile: a 96-bit two's-complement integer (R123). -/
abbrev Elem := BitVec 96

/-- A finite table from numbers to values, in rising order of key. An absent key reads as a default. -/
abbrev Tab (α : Type) := List (Nat × α)

end Sys2Proof
end

