-- ==== Sys2Proof/Config.lean ====
section
/-! DEFINITION. The free values of the model: what the spec leaves open and the machine goes on with. They have no body,
so nothing can be proved of their values. -/

namespace Sys2Proof.Config

/-- The device's root key of each COLD_RESET (R38, R371): it comes from the on-die entropy source, and nothing can read it. Log
entry 7. -/
opaque rootKey (boot : Nat) : BitVec 256

/-- The label of the key derivation (R371), which the spec does not give. Log entry 7. -/
opaque kdfLabel : List Byte

/-- The device key (R372), of which the spec does not say how it is made. Log entry 7. -/
opaque deviceKey (boot : Nat) : BitVec 512

/-- The bytes of a line of the exit page behind its first halfword (R336), which the spec does not give. Log entry 112. -/
opaque exitPage (line : Nat) : BitVec 512

/-- The set of an L1 that a line belongs to: the L1's placement is not architectural (R243). Log entry 90. -/
opaque l1Set (line : Nat) : Nat

/-- Core cycles beyond the first between the issue of a KPUT and its write-back (R302), of which the spec gives no number.
Log entry 10. -/
opaque kputDelay (n : Nat) : Nat

/-- REASON of a PFEXEC at a mesh address, for which R355 names none. Log entry 13. -/
opaque fetchReason (va : Word) : BitVec 8

/-- How far the module oscillator departs from nominal in ppm during a loss of the grandmaster (R330); the model holds it
within the 10 ppm that the spec gives. Log entry 14. -/
opaque oscillator (n : Nat) : Int

/-- OPERAND and DEADLINE of a waiter entry that another device holds (R401), for the number of its request at a time. Log entry
63. -/
opaque remoteEntry (id time : Nat) : Sys2Proof.Word × Sys2Proof.Word

end Sys2Proof.Config
end

