-- ==== Sys2Proof/Syntax.lean ====
section
/-! DEFINITION. The instruction set as syntax: one constructor of `Instr` per row of the opcode table. The first 190
are the encoded instructions (R44 to R84). The other 98 are the table's events: steps of the machine that no word
encodes; their arguments name the agents concerned and carry what arrives from outside the device. -/

namespace Sys2Proof

/-- A scalar register g0–g63 (R51). -/
abbrev GReg := Fin 64
/-- A vector register v0–v63 (R51). -/
abbrev VReg := Fin 64
/-- A register of a class of eight: p, m, x or k (R51). -/
abbrev Reg8 := Fin 8
/-- An accumulator tile a0–a3 (R51). -/
abbrev TileNo := Fin 4

/-- Register classes that carry a full/empty bit (R54). -/
inductive RegClass | g | v | k
  deriving DecidableEq, Repr

/-- Conditions of CMP, CMPI and the integer VCMP (R64, R136). -/
inductive Cond | eq | ne | lt | ge | ltn | gen | tst
  deriving DecidableEq, Repr

/-- Conditions of the floating VCMP (R76, R147). -/
inductive FCond | eq | ne | lt | ge | le | gt | un
  deriving DecidableEq, Repr

/-- ORD: plain, acquire, release, both (R45). -/
inductive Order | plain | acq | rel | acqRel
  deriving DecidableEq, Repr

/-- SC: the scope of an ordering (R45, R205). -/
inductive Scope | core | dev | pod
  deriving DecidableEq, Repr

/-- SZ and the lane size of VMOV: 1, 2, 4 or 8 bytes (R45, R78). -/
inductive Size | b | h | w | d
  deriving DecidableEq, Repr

/-- LIM: `wait 0` is unbounded, `wait n` a limit of 2^n ns, `try` performs only without waiting (R45). -/
inductive Lim
  | wait (n : Fin 41)
  | try
  deriving DecidableEq, Repr

/-- Lane type of a floating vector major (R50). -/
inductive FType | f32 | bf16 | f16
  deriving DecidableEq, Repr

/-- Lane type of an integer vector major (R50). -/
inductive IType | i8 | i16 | i32
  deriving DecidableEq, Repr

/-- Functions of VUN (R76). -/
inductive VFn | abs | neg | exp2 | log2 | rcp | rsq | sqrt | tanh
  deriving DecidableEq, Repr

/-- Rounding modes (R115). -/
inductive Rounding | rne | rz | ru | rd
  deriving DecidableEq, Repr

/-- The sixteen type and format codes (R81). -/
inductive TyCode
  | f32 | bf16 | f16 | e4m3 | e5m2 | mxf8e4m3 | mxf8e5m2 | mxf6e3m2 | mxf6e2m3 | mxf4 | mxi8 | lc2 | i8 | i16 | i32 | a96
  deriving DecidableEq, Repr

/-- Partitions of a core (R51). -/
inductive Part | p16 | p8 | p4
  deriving DecidableEq, Repr

/-- Direction of the neighbour form of RPUT (R67). -/
inductive Dir | n | e | s | w
  deriving DecidableEq, Repr

/-- Kind of FENCE (R70). -/
inductive FenceKind | acq | rel | both
  deriving DecidableEq, Repr

/-- Types of a typed word (R265). -/
inductive ObjType | plain | counter | barrier | report | ticket | queue | slot | cond
  deriving DecidableEq, Repr

/-- The eight atomic operations (R69, R236). -/
inductive AtomOp | add | and | or | xor | min | max | swap | cas
  deriving DecidableEq, Repr

/-- Kind of TLBINV (R79). -/
inductive TlbKind | all | asid | page
  deriving DecidableEq, Repr

/-- The agents that exchange messages: a core, a slice with its SSP, the dispatch unit, the port to another device, the
management core. -/
inductive Node
  | core (n : Nat)
  | slice (n : Nat)
  | dispatch
  | port (dev : Nat)
  | mgmt
  deriving DecidableEq, Repr

/-- What COLD_RESET loads from the fuses: one speed-table entry per core position (R29). -/
structure Fuses where
  speed : List (BitVec 32)
  deriving DecidableEq, Repr

/-- Selector of a DEBUG request (R394). -/
structure DebugSel where
  core  : Nat
  slot  : Nat
  group : Nat
  zeroOk : Bool
  deriving DecidableEq, Repr

/-- Where a contact sheet lies (R402). -/
inductive SheetPlace
  | core (n : Nat)
  | slice (n : Nat)
  deriving DecidableEq, Repr

/-- What READLINE is asked for (R394). -/
inductive LineQuery
  | l1 (core line : Nat)
  | directory (line : Nat)
  | waiters (object : Nat)
  deriving DecidableEq, Repr

/-- The operations of a DEBUG frame (R394). -/
inductive DebugOp
  | hold (sel : DebugSel)
  | release (sel : DebugSel)
  | step (sel : DebugSel)
  | read (sel : DebugSel)
  | write (sel : DebugSel) (cls : Nat) (num : Nat) (val : Line) (full : Bool)
  | arm (sel : DebugSel) (bits : BitVec 3) (brk wch : List Word)
  | readline (sel : DebugSel) (q : LineQuery)
  | sheet (place : SheetPlace) (idx : Nat) (control : Option Word)
  | preempt (launch base : Nat)
  | resume (record base list : Nat)
  | cancel (sel : DebugSel)
  | reserved
  deriving DecidableEq, Repr

/-- The MGMT operations the spec names (R329); it gives no payload layout, so they are held as data. -/
inductive MgmtOp
  | identity
  | setDevnum (n : Nat)
  | releaseSource (src : Nat)
  | erase
  | ptbase (asid : Nat) (base : Word)
  | podEntry (dev : Nat) (addr : Nat)
  | unreachableMs (ms : Nat)
  | macsecKeys (required : Bool)
  | backing (units : Nat)
  | quota (asid q : Nat)
  | defaultQuota (q : Nat)
  | reserve (asids : List Nat)
  | notify (addr : Nat)
  | policy (asid : Nat) (trapvec meshwin : Word)
  | firmware (signed : Bool)
  deriving DecidableEq, Repr

/-- The payload of a host frame (R326 to R329, R344, R394). `bad` is a payload that breaks the layout of its type. -/
inductive FrameBody
  | memwr (addr : Nat) (data : List Byte)
  | memrd (addr len : Nat)
  | launch (addr : Nat)
  | ttset (idx : Nat) (zeroOk : Bool) (entry : List Word)
  | ack (ntype frame report : Nat) (zeroOk : Bool)
  | mgmt (op : MgmtOp)
  | debug (op : DebugOp)
  | bad
  deriving DecidableEq, Repr

/-- A host frame as it arrives (R326): source address, header fields, and payload. -/
structure Frame where
  src      : Nat
  version  : Nat
  typ      : Nat
  lengthOk : Bool
  zeroOk   : Bool
  seq      : Nat
  asid     : Nat
  body     : FrameBody
  deriving DecidableEq, Repr

/-- One access as the place that performs it sees it: `size` bytes, 1 to 64 (R198, R234, R236). A `taint` is an engine's
write that makes its 8-byte word poison (R259, R377). A `fetch` reads the 64 bytes of a line with the poison of each word,
for a fetch buffer (R43, R378). -/
inductive Access
  | load (size : Nat)
  | fetch
  | store (size : Nat) (val : Line)
  | atomic (op : AtomOp) (b x0 : Word)
  | taint
  deriving DecidableEq, Repr

/-- A typed operation as it reaches an SSP (R267). -/
inductive TypedKind
  | ldsy | stsy | cntAdd | cntFadd | cntWait | barArr | barWait | barArw | lckAcq | lckRel | qPut | qGet | cndWait
  | cndSigOne | cndSigAll | tinit (t : ObjType) | traw (tag : Fin 16) | tclr
  deriving DecidableEq, Repr

/-- What a thread or engine of another device asks of this one (R196, R272). A `cancel` withdraws the typed operation that
the same thread has parked here (R293, R379). -/
inductive PodReq
  | access (pa : Nat) (sync : Bool) (a : Access)
  | mesh (x y off : Nat) (a : Access)
  | typed (k : TypedKind) (maj pa : Nat) (va b : Word) (lockPa : Nat) (lockSame : Bool) (data : Line) (lim : Lim)
  | reduce (pa : Nat) (el : Elem) (poisoned : Bool)
  | rput (x y slot : Nat) (vec : Bool) (num : Nat) (val : Line)
  | putData (entry : Nat) (data : Line)
  | cancel
  deriving DecidableEq, Repr

/-- What another device answers to a request of this one (R196, R232, R268). A `cancelled` answers a `cancel` with the
stage, OPERAND and deadline of the entry removed and with its ticket where it has one; a `granted` answers one with the position of
a put that has been granted (R287). -/
inductive PodReply
  | value (v : Line)
  | line (v : Line) (bad : BitVec 8)
  | done
  | reject (reason : Nat)
  | poison (off : Nat)
  | trap (cause : Nat) (v1 v2 : Word)
  | putAsk (entry : Nat)
  | cancelled (stage : Nat) (operand : Word) (deadline ticket : Nat)
  | granted (pos : Nat)
  deriving DecidableEq, Repr

/-- A datagram of the pod transport, already in source order (R347). A request of a copy command carries the command's
number and the address of the command's next item, none with its last (R388); `ack` acknowledges the datagram of this device with a number. -/
inductive PodIn
  | request (core slot id asid : Nat) (cmd : Option (Nat × Option Word)) (r : PodReq)
  | reply (core slot id : Nat) (r : PodReply)
  | ack (no : Nat)
  deriving DecidableEq, Repr

/-- What background checking finds (R375, R376): corrected errors of a unit, or a data word that cannot be corrected: of a
scratchpad, an L1, a slice, a staging buffer or HBM; `hbm` counts corrected errors of the stack of a slice. -/
inductive Scrubbed
  | corrected (unit loc n : Nat)
  | spmWord (off : Nat)
  | l1Word (line word loc : Nat)
  | homeWord (off : Nat)
  | stagingWord (off : Nat)
  | hbm (n : Nat)
  | hbmWord (off : Nat)
  deriving DecidableEq, Repr

/-- The fields of a bind record that the firmware writes (R334). `own` is the record of a launch of the firmware's own, which
it admits first and binds (R335); `zeroOk` says that every reserved field is zero (R7). -/
structure BindWrite where
  valid   : Bool
  launch  : Nat
  rank    : Nat
  smode   : Bool
  own     : Option (List Word)
  zeroOk  : Bool := true
  deriving DecidableEq, Repr

/-- What a page walk displaces: the place in a full TLB that its fill takes, and the pointer entries that the walk cache has given
up before it (R366). -/
structure WalkPick where
  evict  : Nat
  forget : Nat
  deriving DecidableEq, Repr

/-- A home slice that takes a request, and the resident line that its directory recalls when it has no entry free (R226). -/
structure RecallAt where
  node : Node
  rec_ : Option Nat
  deriving DecidableEq, Repr

/-- A core whose copy engine moves on, and the items it moves at most. -/
structure CopyGo where
  core  : Nat
  steps : Nat
  deriving DecidableEq, Repr

/-- A line whose directory entry is lost; `lost` says that a dirty copy cannot be read (R375). -/
structure Rebuild where
  line : Nat
  lost : Bool
  deriving DecidableEq, Repr

/-- A sample of a contact sheet, and the thread slot it comes from (R402, R403). -/
structure SheetSample where
  slot  : Nat
  value : Nat
  deriving DecidableEq, Repr

/-- One constructor per row of the opcode table. -/
inductive Instr
  -- IALU (R62, R131)
  | add (y x : Bool) (b a d : GReg)
  | sub (y x : Bool) (b a d : GReg)
  | and (y x : Bool) (b a d : GReg)
  | or (y x : Bool) (b a d : GReg)
  | xor (y x : Bool) (b a d : GReg)
  | andn (y x : Bool) (b a d : GReg)
  | shl (y x : Bool) (b a d : GReg)
  | shr (y x : Bool) (b a d : GReg)
  | sha (y x : Bool) (b a d : GReg)
  | rot (y x : Bool) (b a d : GReg)
  | min (y x : Bool) (b a d : GReg)
  | max (y x : Bool) (b a d : GReg)
  | minn (y x : Bool) (b a d : GReg)
  | maxn (y x : Bool) (b a d : GReg)
  | mul (y x : Bool) (b a d : GReg)
  | mulh (y x : Bool) (b a d : GReg)
  | mulhn (y x : Bool) (b a d : GReg)
  | div (y x : Bool) (b a d : GReg)
  | divn (y x : Bool) (b a d : GReg)
  | rem (y x : Bool) (b a d : GReg)
  | remn (y x : Bool) (b a d : GReg)
  | clz (x : Bool) (a d : GReg)
  | popc (x : Bool) (a d : GReg)
  | sext (y x : Bool) (b a d : GReg)
  | addw (y x : Bool) (b a d : GReg)
  | subw (y x : Bool) (b a d : GReg)
  -- immediates, shifts, upper parts (R63, R133–R135)
  | addi (i : BitVec 12) (x : Bool) (a d : GReg)
  | andi (i : BitVec 12) (x : Bool) (a d : GReg)
  | ori (i : BitVec 12) (x : Bool) (a d : GReg)
  | xori (i : BitVec 12) (x : Bool) (a d : GReg)
  | shli (n : Fin 64) (x : Bool) (a d : GReg)
  | shri (n : Fin 64) (x : Bool) (a d : GReg)
  | shai (n : Fin 64) (x : Bool) (a d : GReg)
  | roti (n : Fin 64) (x : Bool) (a d : GReg)
  | lui (i : BitVec 19) (d : GReg)
  | addpc (i : BitVec 19) (d : GReg)
  -- comparisons, predicates, selection (R136–R138)
  | cmp (y x : Bool) (b a : GReg) (c : Cond) (p : Reg8)
  | cmpW (y x : Bool) (b a : GReg) (c : Cond) (p : Reg8)
  | cmpi (i : BitVec 12) (x : Bool) (a : GReg) (c : Cond) (p : Reg8)
  | sel (n : Bool) (p : Reg8) (y x : Bool) (b a d : GReg)
  | pand (b a d : Reg8)
  | por (b a d : Reg8)
  | pxor (b a d : Reg8)
  | pandn (b a d : Reg8)
  | pfromg (x : Bool) (a : GReg) (d : Reg8)
  | ptog (a : Reg8) (d : GReg)
  -- operand-extension registers, mesh addresses (R139–R142)
  | xset (x : Bool) (a : GReg) (d : Reg8)
  | xget (a : Reg8) (d : GReg)
  | xld (x : Bool) (a : GReg)
  | madr (h v : BitVec 6) (x : Bool) (a d : GReg)
  -- branches and jumps (R303)
  | br (i : BitVec 25)
  | jal (i : BitVec 25)
  | brp (i : BitVec 19) (s : Bool) (p : Reg8)
  | jalr (i : BitVec 12) (x : Bool) (a d : GReg)
  -- threads (R301–R307)
  | yield
  | waitg (a : GReg)
  | waitv (a : VReg)
  | texit
  | tspawn (y x : Bool) (b a d : GReg)
  | tnext (d : GReg)
  | repart (p : Part)
  | waitk (a : Reg8)
  | kput (x : Bool) (a : GReg) (d : Reg8)
  | kget (x : Bool) (a : Reg8) (d : GReg)
  -- streams (R308–R323)
  | strmLead (x : Bool) (a : GReg)
  | strmJoin
  | strmEnd
  | strmPos (d : GReg)
  -- remote register writes (R248, R249)
  | rput (c : Bool) (r : Dir) (y : Bool) (b d : Fin 64)
  | rputM (c y x : Bool) (b : Fin 64) (a : GReg) (d : Fin 64)
  | rputArm (c : Bool) (d : Fin 64)
  -- loads and stores (R234, R235)
  | ld (o : BitVec 6) (z : Size) (e : Order) (w : Fin 4) (x : Bool) (a d : GReg)
  | ldn (o : BitVec 6) (z : Size) (e : Order) (w : Fin 4) (x : Bool) (a d : GReg)
  | st (o : BitVec 6) (z : Size) (e : Order) (w : Fin 4) (x : Bool) (a d : GReg)
  | vld (o : BitVec 6) (e : Order) (w : Fin 4) (x : Bool) (a : GReg) (d : VReg)
  | vst (o : BitVec 6) (e : Order) (w : Fin 4) (x : Bool) (a : GReg) (d : VReg)
  | vlds (w : Fin 4) (y x : Bool) (b a : GReg) (d : VReg)
  | vsts (w : Fin 4) (y x : Bool) (b a : GReg) (d : VReg)
  | vgath (w : Fin 4) (x : Bool) (b : VReg) (a : GReg) (d : VReg)
  | vscat (w : Fin 4) (x : Bool) (b : VReg) (a : GReg) (d : VReg)
  -- atomics (R236)
  | aadd (e : Order) (s : Scope) (t : Bool) (b a d : GReg)
  | aand (e : Order) (s : Scope) (t : Bool) (b a d : GReg)
  | aor (e : Order) (s : Scope) (t : Bool) (b a d : GReg)
  | axor (e : Order) (s : Scope) (t : Bool) (b a d : GReg)
  | amin (e : Order) (s : Scope) (t : Bool) (b a d : GReg)
  | amax (e : Order) (s : Scope) (t : Bool) (b a d : GReg)
  | aswap (e : Order) (s : Scope) (t : Bool) (b a d : GReg)
  | acas (e : Order) (s : Scope) (t : Bool) (b a d : GReg)
  -- fences, counts and lines (R238–R243)
  | fence (s : Scope) (k : FenceKind)
  | waitc (m : Fin 8)
  | cflush (x : Bool) (a : GReg)
  | cinv (x : Bool) (a : GReg)
  | pref (x : Bool) (a : GReg) (w : Bool)
  | spcfg (x : Bool) (a : GReg)
  | czero (x : Bool) (a : GReg)
  | pst (m : Bool) (e : Order) (s : Scope) (t : Bool) (b a : GReg) (d : VReg)
  -- typed operations (R267)
  | ldsy (l : Lim) (t : Bool) (a d : GReg)
  | stsy (l : Lim) (t : Bool) (b a : GReg)
  | cntAdd (t : Bool) (b a : GReg)
  | cntFadd (t : Bool) (b a d : GReg)
  | cntWait (l : Lim) (t : Bool) (b a d : GReg)
  | barArr (t : Bool) (a d : GReg)
  | barWait (l : Lim) (t : Bool) (b a d : GReg)
  | barArw (l : Lim) (t : Bool) (a d : GReg)
  | lckAcq (l : Lim) (t : Bool) (a : GReg)
  | lckRel (t : Bool) (a : GReg)
  | qPut (l : Lim) (t : Bool) (b : VReg) (a : GReg)
  | qGet (l : Lim) (t : Bool) (a : GReg) (d : VReg)
  | cndWait (l : Lim) (t : Bool) (b a : GReg)
  | cndSig (t : Bool) (a : GReg) (k : Bool)
  | tinit (y x : Bool) (b a : GReg) (k : ObjType)
  | traw (y x : Bool) (b a : GReg) (k : Fin 16)
  | tclr (x : Bool) (a : GReg)
  | nbar (l : Lim) (t : Bool) (a d : GReg)
  -- engine commands (R251, R167, R169)
  | cpy (g : Bool) (s : Scope) (r q : Bool) (d : GReg)
  | cpym (g : Bool) (s : Scope) (r q : Bool) (d : GReg)
  | mwl (g : Bool) (s : Scope) (r q t : Bool) (a : GReg) (f : TyCode)
  | mma (g : Bool) (s : Scope) (r q t : Bool) (b a : GReg) (f : TyCode) (n : TileNo)
  -- ACC (R170–R176)
  | acccfg (x : Bool) (a : GReg) (k : Bool) (n : TileNo)
  | acczero (n : TileNo)
  | accrd (y x : Bool) (b a : GReg) (f : TyCode) (n : TileNo)
  | accadd (s n : TileNo)
  | accsave (x : Bool) (a : GReg) (n : TileNo)
  | accload (x : Bool) (a : GReg) (n : TileNo)
  | mstat (x : Bool) (a d : GReg)
  -- floating vector majors (R145–R150)
  | vaddFp (m : Reg8) (b a d : VReg) (k : FType)
  | vsubFp (m : Reg8) (b a d : VReg) (k : FType)
  | vmulFp (m : Reg8) (b a d : VReg) (k : FType)
  | vfmaFp (m : Reg8) (b a d : VReg) (k : FType)
  | vminFp (m : Reg8) (b a d : VReg) (k : FType)
  | vmaxFp (m : Reg8) (b a d : VReg) (k : FType)
  | vun (m : Reg8) (f : VFn) (a d : VReg) (k : FType)
  | vcmpFp (m : Reg8) (b a : VReg) (c : FCond) (n : Reg8) (k : FType)
  | vselFp (m : Reg8) (b a d : VReg) (k : FType)
  | vred (m : Reg8) (a d : VReg) (k : FType)
  | vcvt (m : Reg8) (r : Rounding) (c : TyCode) (a d : VReg) (k : FType)
  | vfnmaFp (m : Reg8) (b a d : VReg) (k : FType)
  -- integer vector majors (R152)
  | vaddInt (m : Reg8) (b a d : VReg) (k : IType)
  | vsubInt (m : Reg8) (b a d : VReg) (k : IType)
  | vmulInt (m : Reg8) (b a d : VReg) (k : IType)
  | vmac (m : Reg8) (b a d : VReg) (k : IType)
  | vminInt (m : Reg8) (b a d : VReg) (k : IType)
  | vmaxInt (m : Reg8) (b a d : VReg) (k : IType)
  | vminn (m : Reg8) (b a d : VReg) (k : IType)
  | vmaxn (m : Reg8) (b a d : VReg) (k : IType)
  | vand (m : Reg8) (b a d : VReg) (k : IType)
  | vor (m : Reg8) (b a d : VReg) (k : IType)
  | vxor (m : Reg8) (b a d : VReg) (k : IType)
  | vshl (m : Reg8) (b a d : VReg) (k : IType)
  | vshr (m : Reg8) (b a d : VReg) (k : IType)
  | vsha (m : Reg8) (b a d : VReg) (k : IType)
  | vcmpInt (m : Reg8) (b a : VReg) (c : Cond) (n : Reg8) (k : IType)
  | vselInt (m : Reg8) (b a d : VReg) (k : IType)
  -- lane moves (R153)
  | vbc (s : Size) (x : Bool) (a : GReg) (d : VReg)
  | vget (s : Size) (y : Bool) (b : GReg) (a : VReg) (d : GReg)
  | vset (s : Size) (y x : Bool) (b a : GReg) (d : VReg)
  | vperm (s : Size) (b a d : VReg)
  | vcopy (a d : VReg)
  -- system (R356–R361, R342, R400)
  | srd (h l : Fin 64) (d : GReg)
  | swr (h l : Fin 64) (d : GReg)
  | swrIntpend (d : GReg)
  | swrMerrlog (d : GReg)
  | swrPshq (d : GReg)
  | swrPshcnt (d : GReg)
  | ecall
  | eret
  | trapi (h l : Fin 64)
  | tlbinv (y x : Bool) (b a : GReg) (k : TlbKind)
  | grpset (y x : Bool) (b a : GReg)
  | brk (h l : Fin 64)
  | wfi
  | speedrd (x : Bool) (a d : GReg)
  -- the 16-bit forms (R84)
  | cMov (y x : Fin 32)
  | cAdd (y x : Fin 32)
  | cSub (y x : Fin 32)
  | cAnd (y x : Fin 32)
  | cOr (y x : Fin 32)
  | cXor (y x : Fin 32)
  | cAddi (i : BitVec 6) (x : Fin 32)
  | cLi (i : BitVec 6) (x : Fin 32)
  | cShli (n : Fin 64) (x : Fin 32)
  | cShri (n : Fin 64) (x : Fin 32)
  | cLd (o : Fin 8) (b : Fin 8) (x : Fin 32)
  | cSt (o : Fin 8) (b : Fin 8) (x : Fin 32)
  | cBr (i : BitVec 11)
  | cBrp (i : BitVec 8) (p : Reg8)
  | cMiscNop
  | cMiscYield
  | cMiscTexit
  | cRet
  -- a word that names nothing
  | wordThatNamesNothing (w : BitVec 32) (short : Bool)
  -- events: a thread and its core
  | deferredTrap (core slot : Nat)
  | rejection (src dst : Node)
  | resultFill (src dst : Node)
  | accessPerformed (src dst : Node)
  | rputDelivery (src dst : Node)
  | fetchFill (src dst : Node)
  | meshAccess (src dst : Node)
  | pageWalk (core slot : Nat) (pick : WalkPick)
  | reclassify (src dst : Node)
  | reclassifyAck (src dst : Node)
  -- events: the L1 and the home slices
  | l1Grant (src dst : Node) (victim : Option Nat)
  | l1ForwardedRead (src dst : Node)
  | l1ForwardedReadExclusive (src dst : Node)
  | l1Invalidate (src dst : Node)
  | l1WritebackAck (src dst : Node)
  | pushedCopy (src dst : Node) (line : Nat)
  | homeRead (src dst : Node) (rec_ : Option Nat)
  | homeReadExclusive (src dst : Node) (rec_ : Option Nat)
  | homeUpgrade (src : Node) (dst : RecallAt)
  | homeWriteBack (src dst : Node)
  | homeEvictionNotice (src dst : Node)
  | homeInvalidateAck (src dst : Node)
  | homeNcAccess (src dst : Node)
  | homeAtomic (src dst : Node)
  | homePushStore (src : Node) (dst : RecallAt)
  | pushOutcome (src dst : Node)
  | pushComplete (src dst : Node)
  | reduceAdd (src dst : Node)
  -- events: typed words and network barriers
  | waiterExpiry (entry : Nat)
  | putDataRequest (src dst : Node)
  | putData (src dst : Node)
  | waiterEntryLost (entry : Nat)
  | nbarNotify (src dst : Node)
  | nbarExpiry (core slot : Nat)
  -- events: flights
  | joinRequest (src dst : Node)
  | flightForm (leader : Nat)
  | formationTimeout (leader : Nat)
  | freezeEnd (leader : Nat)
  | flightAbort (leader : Nat)
  | flightEnd (leader : Nat)
  -- events: engines and stop bath
  | matrixEntryComplete (core : Nat)
  | shadowActivate (core : Nat)
  | copyStart (go : CopyGo)
  | copyComplete (core : Nat)
  | copyStop (core : Nat)
  | grpsetPerform (src dst : Node)
  | spcfgApply (core : Nat) (evicted : List Nat)
  | repartApply (core : Nat)
  -- events: bring-up and time
  | coldReset (f : Fuses)
  | ptpFirstLock (ns : Word)
  | bringUpRelease
  | ptpMessage (ppm : Int)
  | grandmasterLoss
  -- events: host frames
  | memwr (f : Frame)
  | memrd (f : Frame)
  | launch (f : Frame)
  | ttset (f : Frame)
  | ack (f : Frame)
  | mgmtIdentity (f : Frame)
  | mgmtSetDevnum (f : Frame)
  | mgmtReleaseSource (f : Frame)
  | mgmtErase (f : Frame)
  | mgmtSettings (f : Frame)
  -- events: the debug unit
  | hold (f : Frame)
  | release (f : Frame)
  | step (f : Frame)
  | read (f : Frame)
  | write (f : Frame)
  | arm (f : Frame)
  | readline (f : Frame)
  | sheet (f : Frame)
  | preempt (f : Frame)
  | resume (f : Frame)
  | cancel (f : Frame)
  | heldRequestTimeout (src : Nat)
  | noticeResend (n : Nat)
  -- events: launch and dispatch
  | bindRecordWrite (core slot : Nat) (r : BindWrite)
  | threadStart (core slot : Nat)
  | coreDoneAdd (core : Nat)
  | timedRelease (idx : Nat)
  | preemptSave (launch : Nat)
  | firmwareDoorbell (core : Nat)
  | freqChange (core mhz : Nat)
  | dieThrottle (die : Nat)
  -- events: alarm, errors, recovery
  | securityAlarm (causes : BitVec 6) (dies : BitVec 4) (reading : Nat)
  | scrub (place : SheetPlace) (found : Scrubbed)
  | directoryRebuild (line : Rebuild)
  | fenceCore (core unit loc : Nat) (lost : List Nat)
  | routerBypass (core : Nat)
  | podDatagram (dev : Nat) (p : PodIn)
  | podRetransmit (n : Nat)
  | peerUnreachable (dev : Nat)
  | contactSheetSample (place : SheetPlace) (idx : Nat) (sample : SheetSample)
  -- events: requests at the SSP, the distributor and the translation units
  | sspTypedRequest (src dst : Node)
  | distributorTnextRequest (src dst : Node)
  | tlbinvComplete (core slot : Nat)
  -- malformed frames
  | malformedRequest (f : Frame)
  deriving DecidableEq, Repr

end Sys2Proof
end

