-- ==== Sys2Proof/Machine/State.lean ====
section
/-! DEFINITION. The state of one Z9 device as plain data: threads, cores, slices, the dispatch unit, the host and pod
ports, messages in flight, and the model's own agenda. `State.reset` is the device when COLD_RESET has done its work
(R38 steps 1 to 5). Functions on these types are in the other files of Machine/. -/

namespace Sys2Proof.Machine

/-! ### Registers and accesses of a thread -/

/-- Who fills an empty register (the producer codes of R401, WHY 1). -/
inductive Producer
  | rput | load | typed | atomic | copy | nbar | kwrite
  deriving DecidableEq, Repr

/-- State behind a full/empty bit (R54): full; empty with a producer pending, named by its request number; empty and
armed for an RPUT delivery (R249); empty with nothing pending (R58, R232). -/
inductive RegSt
  | full
  | pending (id : Nat) (by_ : Producer) (addr : Word)
  | armed
  | empty
  deriving DecidableEq, Repr

/-- Where the value of an access goes; a store that the matrix unit sends for an ACCRD or ACCSAVE bears the entry's number. -/
inductive Dest
  | none
  | g (d : GReg) (size : Nat) (signed : Bool)
  | v (d : VReg)
  | elem (group i : Nat)
  | xregs
  | fetch
  | map (i : Nat)
  | matrix (cmd : Nat)
  deriving DecidableEq, Repr

/-- The way an access leaves its core (R197). -/
inductive Path
  | l1
  | home
  | mesh (core : Nat)
  | pod (dev : Nat)
  deriving DecidableEq, Repr

/-- One outstanding access of a thread (R205 to R210): its destination class (0 when it is not counted), whether it awaits
a value, its virtual address, the MAJ of its instruction, the line it touches, its path, and the ASID it was issued under. -/
structure Out where
  id    : Nat
  cls   : Nat
  value : Bool
  va    : Word
  maj   : Nat
  dst   : Dest
  line  : Nat
  path  : Path
  asid  : Nat
  deriving DecidableEq, Repr

/-- A VLDS or VGATH whose elements have not all arrived (R235). -/
structure Gather where
  id       : Nat
  d        : VReg
  maj      : Nat
  left     : Nat
  got      : Tab Word
  bad      : Option Word
  rejected : Bool
  deriving DecidableEq, Repr

/-- A deferred trap (R232, R399): cause and values. It is taken when INTRAP is 0 (R352). -/
structure Deferred where
  cause : Nat
  v1    : Word
  v2    : Word
  deriving DecidableEq, Repr

/-- The fetch buffer of one line (R43): the virtual address of its line, the bytes, and the poison of its words. -/
structure FetchBuf where
  base : Word
  data : Line
  bad  : BitVec 8
  deriving DecidableEq, Repr

/-- What a thread that has issued an instruction waits for. -/
inductive WaitKind
  | typed | nbar | xld | store | tnext | grpset | matrix | tlbinv
  deriving DecidableEq, Repr

/-- An issued instruction whose thread parks until its reply: the request number, replies still missing, its word (its MAJ alone
unless it is a typed operation or an NBAR) and length, operands, destination, words gathered, and the first fault found. -/
structure Wait where
  kind : WaitKind
  id   : Nat
  left : Nat
  word : Nat
  len  : Nat
  a    : Word
  b    : Word
  dst  : Dest
  got  : Tab Word
  bad  : Option (Nat × Nat × Word × Word)
  deriving DecidableEq, Repr

/-- A line's bytes with the poison of its eight words. -/
structure LineVal where
  data : Line
  bad  : BitVec 8
  deriving DecidableEq, Repr

/-- The answer to an access or a typed operation; a push store's tells which of the four receivers it named took a copy. -/
inductive Result
  | value (v : Line)
  | line (lv : LineVal)
  | done
  | reject (reason : Nat)
  | poison (off : Nat)
  | trap (cause : Nat) (v1 v2 : Word)
  | pushDone (took : Nat)
  deriving DecidableEq, Repr

/-- An issued instruction that a deferred trap woke its thread from (R232): what it waits for, its address with INTRAP as it
was, and the answers that have come since, each with the access it answers. -/
structure Aside where
  wait   : Wait
  pc     : Word
  intrap : Bool
  got    : List (Option Out × Result)
  deriving DecidableEq, Repr

/-- Why a thread is parked (R297, R401). -/
inductive Park
  | source (c : RegClass) (n : Nat)
  | dest (c : RegClass) (n : Nat)
  | destFull (c : RegClass) (n : Nat)
  | awaitReg (c : RegClass) (n : Nat)
  | reply
  | count (mask : Nat)
  | order (sc : Scope)
  | acquire
  | values
  | fetch (id : Nat)
  | walk
  | line (n : Nat)
  | reclaim (pte : Nat)
  | operand (id : Nat)
  | matrixFull
  | copyFull
  | accload
  | wfi
  | bath
  | repart
  | drain
  | lead
  | join
  | streamEnd
  deriving DecidableEq, Repr

/-- The state of a thread slot (R297, R353). Held and streaming are marks of their own. -/
inductive Life
  | notLive
  | runnable
  | parked (why : Park)
  | stopped (cause : Nat)
  deriving DecidableEq, Repr

/-- A page walk a thread waits for (R363 to R366): the address and the rights its access needs, whether the access is
dropped when the walk fails (PREF, R241), the length of its instruction, and the PTE whose reclassify it awaits (R229). -/
structure Walk where
  va      : Word
  read    : Bool
  write   : Bool
  exec    : Bool
  drop    : Bool
  len     : Nat
  reclass : Option Nat
  deriving DecidableEq, Repr

/-- A stop in safelight (R396, R399, R401): cause and values. -/
structure StopInfo where
  cause : Nat
  v1    : Word
  v2    : Word
  deriving DecidableEq, Repr

/-- A typed operation recorded by a cancellation (R293, R391): its word, the values it takes as g[A] and g[B], the address of
the instruction that follows, INTRAP as it was, and the data of a Q.PUT. -/
structure Reissue where
  word   : Nat
  a      : Word
  b      : Word
  pc     : Word
  intrap : Bool
  data   : Line
  deriving DecidableEq, Repr

/-- One thread slot (R24, R51, R350). `owed` is a precise trap that fell due while the thread was held, with the length of
its instruction (R395); `fetched` is the instruction that parked before it acted, with its address, which is not
fetched again (R43, R88); `aside` are the instructions that deferred traps woke the thread from (R232); `dropped` is the address of a PREF whose
page walk has failed, and which does nothing more (R241); `stepped` says of a STEP whose instruction has issued and
parked what INTRAP was (R396); `yielded` is the cycle of a YIELD with the slots to be offered a cycle before it qualifies (R301);
`late` counts the oldest deferred traps, which arrived while INTRAP was 1 and wait for the next ERET
although software has cleared INTRAP (R352); `acq` names the accesses of the acquires that hold the next access, with their
scopes (R207); `tag00` names the g registers whose width tag an instruction has set to 00 (R10, R323). -/
structure Thread where
  life      : Life := .notLive
  held      : Bool := false
  pc        : Word := 0
  g         : Tab Word := []
  gst       : Tab RegSt := []
  tag00     : List Nat := []
  v         : Tab Line := []
  vst       : Tab RegSt := []
  p         : BitVec 8 := 0
  m         : Tab Word := []
  x         : Tab Word := []
  status    : Word := 0
  asid      : BitVec 16 := 0
  ptbase    : Word := 0
  meshwin   : Word := 0
  trapvec   : Word := 0
  trappc    : Word := 0
  trapcause : Word := 0
  trapval   : Word := 0
  trapval2  : Word := 0
  trapsave  : Word := 0
  intpend   : Word := 0
  intmask   : Word := 0
  fpflags   : Word := 0
  brk       : Tab Word := []
  wch       : Tab Word := []
  outs      : List Out := []
  acq       : List (Nat × Scope) := []
  gathers   : List Gather := []
  deferred  : List Deferred := []
  late      : Nat := 0
  owed      : Option (Deferred × Nat) := none
  fb        : Option FetchBuf := none
  half      : Option (Word × Nat) := none
  fetched   : Option (Word × Instr) := none
  walk      : Option Walk := none
  dropped   : Option Word := none
  wait      : Option Wait := none
  aside     : List Aside := []
  putBuf    : Line := 0
  launch    : Option Nat := none
  rank      : Word := 0
  count     : Word := 0
  arm       : BitVec 3 := 0
  stepping  : Bool := false
  stepped   : Option Bool := none
  fresh     : Bool := false
  stopInfo  : Option StopInfo := none
  yielded   : Option (Nat × List Nat) := none
  reissue   : Option Reissue := none
  deriving DecidableEq, Repr

/-! ### Messages -/

/-- A thread that made a request, with its device and the number of the request. -/
structure Who where
  dev  : Nat
  core : Nat
  slot : Nat
  id   : Nat
  deriving DecidableEq, Repr

/-- A party that asks an SSP for a typed operation (R272): a thread of some device, a core that adds to DONE under the
number of its request, or the SIG of an engine command, with the command's number. -/
inductive TypedWho
  | thread (w : Who)
  | sig (dev core slot cmd : Nat)
  deriving DecidableEq, Repr

/-- A typed request (R267 to R273). -/
structure TypedReq where
  who    : TypedWho
  k      : TypedKind
  maj    : Nat
  pa     : Nat
  va     : Word
  b      : Word
  lockPa : Nat
  lockOk : Bool
  lim    : Lim
  data   : Line
  asid   : Nat
  deriving DecidableEq, Repr

/-- What a home slice is asked for (R215, R221, R237, R239, R242, R256). A CZERO is a store of 64 zero bytes; a `reduce` is
one element of a REDUCE for the slot at an offset, with the poison of its source. -/
inductive HomeKind
  | read
  | readEx
  | upgrade
  | access (off : Nat) (a : Access)
  | reduce (off : Nat) (el : Elem) (bad : Bool)
  | flush
  | push (group : Bool) (sel : Word) (data : Line)
  deriving DecidableEq, Repr

/-- A request at a home slice; `priv` marks a fill or write of a private page, which has no directory entry (R228). -/
structure HomeReq where
  who  : Who
  asid : Nat
  line : Nat
  priv : Bool
  sync : Bool
  k    : HomeKind
  deriving DecidableEq, Repr

/-- Who receives the line an owner supplies. -/
inductive FwdTo
  | core (n : Nat)
  | home
  deriving DecidableEq, Repr

/-- The owner's state after it answered a snoop. -/
inductive SnoopInfo
  | kept
  | shared
  | buffer
  | invalid
  deriving DecidableEq, Repr

/-- What a message carries. -/
inductive Body
  /-- an answer to a request of a thread -/
  | reply (slot id : Nat) (r : Result)
  /-- a remote register write (R248) -/
  | rput (who : Who) (slot : Nat) (vec : Bool) (num : Nat) (val : Line) (step : Option Nat)
  /-- a request to another core's scratchpad (R194) -/
  | mesh (who : Who) (off : Nat) (a : Access)
  /-- a request to a home slice -/
  | home (r : HomeReq)
  /-- a write-back (R225) -/
  | wb (line asid : Nat) (priv : Bool) (lv : LineVal)
  /-- a clean eviction notice (R225) -/
  | evict (line : Nat) (priv : Bool)
  /-- a core's acknowledgement of a snoop or invalidation (R21) -/
  | snoopAck (line : Nat) (info : SnoopInfo) (lv : Option LineVal)
  /-- a grant, data or acknowledgement that completes a transient state (R224) -/
  | grant (line : Nat) (excl : Bool) (lv : Option LineVal)
  /-- a forwarded request (R224) -/
  | fwd (line : Nat) (excl : Bool) (dest_ : FwdTo)
  /-- an invalidation -/
  | inval (line : Nat)
  /-- the home's acknowledgement of a write-back or eviction notice -/
  | wbAck (line : Nat)
  /-- a pushed copy, and its outcome (R215) -/
  | push (line asid pid : Nat) (lv : LineVal)
  | pushOut (line pid : Nat) (ok : Bool)
  /-- a typed request (R268) -/
  | typed (r : TypedReq)
  /-- the request for a granted put's data, and the data (R287) -/
  | putAsk (slot entry : Nat)
  | putData (entry : Nat) (data : Line)
  /-- a network-barrier notification (R295) -/
  | nbar (grp rank round parity : Nat)
  /-- a join request (R310) -/
  | join (leader : Nat)
  /-- a reclassify and its acknowledgement (R229) -/
  | reclass (core pte asid : Nat)
  | reclassAck (pte : Nat)
  /-- a TNEXT request (R338) -/
  | tnext (who : Who) (launch : Nat)
  /-- a group map on its way to the dispatch unit (R342) -/
  | grpset (who : Who) (grp : Nat) (map : List Word)
  deriving DecidableEq, Repr

/-- A message in flight. Messages with one source and one destination arrive in the order they were sent (R21, R194,
R196, R221), but for a core's requests to a slice, where one may pass another (`State.overtake`; R26, R201). -/
structure Msg where
  src  : Node
  dst  : Node
  body : Body
  deriving DecidableEq, Repr

/-! ### A core -/

/-- L1 states (R222, R223); an absent line is in I. -/
inductive L1St
  | mod | own | exc | shr | is | im | sm | om | mi | ei
  deriving DecidableEq, Repr

/-- The page an access to a line came through: its ASID, whether the page is private, and the offset of a private page's PTE
(R227, R230, R350). -/
structure Via where
  asid : Nat
  priv : Bool
  pte  : Nat
  deriving DecidableEq, Repr

/-- An access that waits at an L1 line (R224). -/
structure L1Acc where
  slot : Nat
  id   : Nat
  off  : Nat
  a    : Access
  via  : Via
  deriving DecidableEq, Repr

/-- A line held by an L1: its state, the pushed mark PM, the page it is held for, the bytes and poison, the accesses that wait
for it, forwards held until the own store is performed, the number of accesses that waited when an invalidation reached a
pending read, and what is to follow the end of a transient state: a CINV, and a prefetch with its page and intent (R240, R241). -/
structure L1Line where
  st    : L1St
  pm    : Bool
  via   : Via
  lv    : LineVal
  waits : List L1Acc
  held  : List (Bool × FwdTo)
  inval : Option Nat
  cinv  : Bool
  pref  : Option (Via × Bool)
  deriving DecidableEq, Repr

/-- A TLB entry (R366): `bits` is the size of the page as a power of two. -/
structure TlbEnt where
  asid  : Nat
  bits  : Nat
  vpn   : Nat
  pbase : Nat
  r     : Bool
  w     : Bool
  x     : Bool
  u     : Bool
  sync  : Bool
  nc    : Bool
  priv  : Bool
  dirty : Bool
  pte   : Nat
  deriving DecidableEq, Repr

/-- A pointer entry of the walk cache (R366): the level it was read at, the address bits that index down to that level, and
the table it names. -/
structure PtrEnt where
  asid  : Nat
  level : Nat
  vpn   : Nat
  table : Nat
  deriving DecidableEq, Repr

/-- Where an access is performed (R197): the own scratchpad, another core's, another device's, or a global page. -/
inductive Place
  | own (off : Nat)
  | mesh (core off : Nat)
  | podMesh (dev core off : Nat)
  | glob (e : TlbEnt) (pa : Nat)
  deriving DecidableEq, Repr

/-- An accumulator tile (R164): the elements that are not zero by index r×64 + n, and its status. -/
structure Tile where
  n      : Tab Elem := []
  anchor : BitVec 10 := 0
  prange : Bool := false
  pinv   : Bool := false
  psat   : Bool := false
  err    : Bool := false
  live   : Bool := false
  holder : Option Nat := none
  deriving DecidableEq, Repr

/-- A weight latch (R167): format, weights as element codes by index k×64 + n (an absent one is zero; an LC2 coordinate is
sign×8 + twice its magnitude), the scale byte of block j of column n by index j×64 + n (an absent one is 127), depth K,
source address, WERR, WVALID, holder. -/
structure Weights where
  format : TyCode := .bf16
  w      : Tab Nat := []
  scale  : Tab Nat := []
  k      : Nat := 64
  src    : Word := 0
  werr   : Bool := false
  valid  : Bool := false
  holder : Nat := 0
  deriving DecidableEq, Repr

/-- What an engine command keeps of its issuing thread (R251): the addressing context and the ordering fields. -/
structure Ctx where
  slot    : Nat
  smode   : Bool
  asid    : BitVec 16
  ptbase  : Word
  meshwin : Word
  launch  : Option Nat
  acq     : Bool
  rel     : Bool
  sig     : Bool
  sc      : Scope
  sigVa   : Word
  sigPa   : Nat
  before  : List Nat
  deriving DecidableEq, Repr

/-- A matrix operation (R167 to R176). -/
inductive MatOp
  | mwl (f : TyCode) (a : Word)
  | mma (f : TyCode) (t : TileNo) (a : Word) (rows : Nat)
  | acccfg (t : TileNo) (e : BitVec 10) (discard : Bool)
  | acczero (t : TileNo)
  | accrd (t : TileNo) (f : TyCode) (a : Word) (first last : Nat)
  | accadd (d s : TileNo)
  | accsave (t : TileNo) (a : Word)
  | accload (t : TileNo) (a : Word)
  | mstat (i : Nat) (clear : Bool) (d : GReg)
  deriving DecidableEq, Repr

/-- An entry of the matrix queue (R158): its word, context and operation; the operand bytes it reads, as an offset and
length of the own scratchpad and as line numbers of physical memory (R161); the 64-byte pieces that ACCRD or ACCSAVE
writes, each with the place its issue check gave it (R166); and, for operand words homed on another device, the request
numbers with the word's place in the operand and its answer (R166, R181). -/
structure MatCmd where
  id   : Nat
  word : Nat
  ctx  : Ctx
  op   : MatOp
  own  : Nat × Nat
  lines : List Nat
  writes : List (Word × Place)
  asked : Bool
  got  : Tab (Nat × Option (Nat × Bool))
  deriving DecidableEq, Repr

/-- What the copy engine does to one destination item: an access to at most 8 bytes, or an addition into a slot (R256). -/
inductive EngWrite
  | acc (a : Access)
  | add (el : Elem) (bad : Bool)
  deriving DecidableEq, Repr

/-- The progress of a started copy command (R254 to R260): the rows it has read, the source words of the row read so far
with their poison, the writes that are left with their rows and addresses, the request it awaits, its flags, poisoned items
and the addresses of the first five, its stop, whether every byte has moved, its FOLLOW, the words of the record written,
and the failure of the record. -/
structure CopyRun where
  row    : Nat := 0
  got    : List (Nat × Bool) := []
  writes : List (Nat × Word × EngWrite) := []
  await  : Option Nat := none
  flags  : BitVec 5 := 0
  poisoned : Nat := 0
  items  : List Word := []
  stop   : Option (Word × Nat) := none
  moved  : Bool := false
  follow : Option Nat := none
  record : Nat := 0
  recFail : Option (Word × Nat) := none
  deriving DecidableEq, Repr

/-- A command of the copy queue (R251): its x registers as read at issue, the bytes of its follow-on's checked operand with
their place in the own scratchpad or their lines (R178, R179), and its progress once started. -/
structure CopyCmd where
  id      : Nat
  word    : Nat
  ctx     : Ctx
  dst     : GReg
  m       : Bool
  x       : Tab Word
  follow  : Nat
  own     : Nat × Nat
  lines   : List Nat
  run     : Option CopyRun
  deriving DecidableEq, Repr

/-- A write of a finished copy command without REL that is still on its way (R214): its context, the command's number, address,
the write, the place it goes to when nothing can refuse it any more, and the number of the request that carries it once it has been
sent to another core or device. -/
structure LateWrite where
  ctx   : Ctx
  cmd   : Nat
  va    : Word
  w     : EngWrite
  place : Option Place
  id    : Option Nat
  deriving DecidableEq, Repr

/-- The NBAR a core performs on one group (R295): the thread, its round, its rank, the members by rank, the times of its
rounds, the longest wait so far, and its deadline. -/
structure NbCur where
  slot     : Nat
  id       : Nat
  round    : Nat
  rank     : Nat
  members  : List Nat
  start    : Nat
  best     : Option (Nat × Nat)
  deadline : Nat
  deriving DecidableEq, Repr

/-- An NBAR that has joined its group at this core and waits its turn or its release. -/
structure NbWait where
  slot     : Nat
  id       : Nat
  lim      : Nat
  deriving DecidableEq, Repr

/-- NBAR state of a core for one group (R295, R296): parity of the episode, the NBAR in it, those behind it, notifications
kept as (parity, round, rank, time), and the parities and rounds of expired episodes whose notifications are discarded. -/
structure NbGroup where
  parity : Nat := 0
  cur    : Option NbCur := none
  queue  : List NbWait := []
  kept   : List (Nat × Nat × Nat × Nat) := []
  drop   : List (Nat × Nat) := []
  deriving DecidableEq, Repr

/-- An item of a failure report (R384). -/
structure RItem where
  kind    : Nat
  outcome : Nat := 0
  slot    : Nat := 0
  launch  : Nat := 0
  maj     : Nat := 0
  detail  : Nat := 0
  addr    : Word := 0
  value   : Word := 0
  aux     : Word := 0
  deriving DecidableEq, Repr

/-- A fence in progress (R379): the unit reported, the time, the row of a started copy command that was being written, and the items
found so far. -/
structure Fencing where
  unit  : Nat
  time  : Word
  row   : Option Nat
  items : List RItem
  deriving DecidableEq, Repr

/-- A remote register write in a core's network interface (R250, R317): its sender, the register, and the step of a flight after
which it is written. -/
structure InPut where
  who  : Who
  slot : Nat
  vec  : Bool
  num  : Nat
  val  : Line
  step : Option Nat
  deriving DecidableEq, Repr

/-- A KPUT between its issue and its write-back (R302): the register and value, its thread, and the core cycles that
are left. -/
structure KWrite where
  num  : Nat
  slot : Nat
  val  : Word
  left : Nat
  deriving DecidableEq, Repr

/-- One core position (R24). The speed table says whether it is live. `spcfg` and `repart` are changes in stop bath: the
slot of the thread and the new way count or partition (R243, R307); `lru` lists lines of the L1 by their last use, the
latest last (R246); `ptrs` is the walk cache (R366); `reclaims` are the reclassifies of its private pages that have arrived and are
not answered yet: requester, PTE offset, ASID (R229); `halves` is the power counter of half accesses saved (R59); `issued` is the
cycle of each slot's last issue (R298). -/
structure Core where
  fenced    : Bool := false
  fencing   : Option Fencing := none
  part      : Part := .p16
  ways      : Nat := 6
  threads   : Tab Thread := []
  ptr       : Nat := 0
  issued    : Tab Nat := []
  spos      : Word := 0
  flight    : Option Nat := none
  cycle     : Word := 0
  mhz       : Option Nat := none
  quota     : Nat := 0
  refused   : Nat := 0
  merrlog   : Word := 0
  k         : Tab Word := []
  kst       : Tab RegSt := []
  kw        : List KWrite := []
  inbox     : List InPut := []
  halves    : Nat := 0
  spm       : List Host.Cell := []
  spmBad    : List Nat := []
  l1        : Tab L1Line := []
  lru       : List Nat := []
  tlb       : List TlbEnt := []
  ptrs      : List PtrEnt := []
  reclaims  : List (Nat × Nat × Nat) := []
  mq        : List MatCmd := []
  tiles     : Tab Tile := []
  active    : Weights := {}
  shadow    : Option Weights := none
  mlog      : Tab Word := []
  mlogOver  : Bool := false
  mlogErr   : Nat := 0
  cq        : List CopyCmd := []
  lateq     : List LateWrite := []
  nb        : Tab NbGroup := []
  spcfg     : Option (Nat × Nat) := none
  repart    : Option (Nat × Part) := none
  joins     : List Nat := []
  lastAsid  : Option Nat := none
  sheets    : Tab (Tab Nat) := []
  deriving DecidableEq, Repr

/-! ### Slices -/

/-- A request whose invalidations and recalls are not all acknowledged (R221), or a push store whose copies are out, with
its number: the receivers whose outcomes are not known (R215). -/
structure Busy where
  req  : HomeReq
  acks : List Nat
  out  : Option Nat
  deriving DecidableEq, Repr

/-- A directory entry (R221, R226): the owner, the sharers, the ASID the copies are held under, the request in progress
and those ordered behind it. -/
structure DirEnt where
  owner   : Option Nat := none
  sharers : List Nat := []
  asid    : Nat := 0
  busy    : Option Busy := none
  queue   : List HomeReq := []
  deriving DecidableEq, Repr

/-- A push store whose outcomes are not all known (R215): the receivers it named in MODE 0, and those that took a copy. -/
structure Push where
  pid   : Nat
  who   : Who
  left  : Nat
  named : List Nat
  took  : List Nat
  deriving DecidableEq, Repr

/-- The kinds of a waiter entry (R273). -/
inductive EntryKind
  | waiter | void | phase | granted
  deriving DecidableEq, Repr

/-- A waiter entry (R273) with the parts of its request that its service needs. `operand` is what the object serves it by:
the threshold, phase, ticket, time or position. `written` marks a granted put whose data has arrived before the data of an
earlier position (R287). -/
structure Waiter where
  no       : Nat
  kind     : EntryKind
  stage    : Nat
  req      : TypedReq
  operand  : Word
  deadline : Nat
  written  : Bool
  deriving DecidableEq, Repr

/-! ### Launches and time -/

/-- A range of tiles of one participant: next index and number left (R337). -/
structure Range where
  next : Nat
  left : Nat
  deriving DecidableEq, Repr

/-- A thread image that a RESUME has accepted (R390 to R392): its rank and slot, the thread, the k registers, the tiles, the
format and source of the weight latch, and the copy commands with their x registers. -/
structure Image where
  rank   : Nat
  slot   : Nat
  thread : Thread
  k      : Tab Word
  kst    : Tab RegSt
  tiles  : Tab Tile
  latch  : Option (Nat × Word)
  copies : List (Nat × Tab Word)
  deriving DecidableEq, Repr

/-- A launch-table entry (R333, R343): the record's words, the participants in core order, the ranges by participant, the
source that is told, the time-triggered entry that released it, whether it is the firmware's own, the participants on which
a thread has started, the state and cause of the last record to end on each, the participants that count as ended, the
additions to DONE under way, the base of a pre-emption in progress with the source and sequence number of the request that
ordered it, and the images a resumed launch starts from. -/
structure LaunchEnt where
  words    : List Word
  parts    : List Nat
  ranges   : Tab Range
  src      : Nat
  timed    : Option Nat
  firmware : Bool
  begun    : List Nat := []
  endState : Tab (Nat × Nat) := []
  closed   : List Nat := []
  adding   : Tab Nat := []
  save     : Option (Nat × Option (Nat × Nat)) := none
  resumed  : Bool := false
  images   : List Image := []
  deriving DecidableEq, Repr

/-- A bind record (R334). -/
structure BindRec where
  valid  : Bool := false
  state  : Nat := 0
  launch : Nat := 0
  rank   : Nat := 0
  smode  : Bool := false
  cause  : Nat := 0
  deriving DecidableEq, Repr

/-- A time-triggered entry (R344): its words, the source that wrote it, the time of its next release, the launch it
started last, and the time of the release that waits (R346). -/
structure TtEnt where
  start   : Nat := 0
  period  : Nat := 0
  record  : Nat := 0
  valid   : Bool := false
  rule    : Nat := 0
  asid    : Nat := 0
  missed  : Nat := 0
  save    : Nat := 0
  src     : Nat := 0
  next    : Option Nat := none
  launch  : Option Nat := none
  waiting : Option Nat := none
  deriving DecidableEq, Repr

/-! ### The host port -/

/-- A frame the device sends to a host (R326). -/
structure HostOut where
  dest_      : Nat
  typ     : Nat
  seq     : Nat
  status  : Nat
  reason  : Nat
  payload : List Byte
  deriving DecidableEq, Repr

/-- The sequence state of one host source (R328): H, the SEQ its state began with, stored replies, held requests with the times
they arrived, oldest first, and requests being performed with the number of copies received. -/
structure HostSrc where
  h       : Nat
  first   : Nat
  replies : List (Nat × HostOut)
  held    : List (Nat × Frame)
  active  : List (Nat × Nat)
  deriving DecidableEq, Repr

/-- A notice that is resent until it is acknowledged (R327). -/
structure Notice where
  no     : Nat
  typ    : Nat
  frame  : Nat
  report : Nat
  out    : HostOut
  deriving DecidableEq, Repr

/-- What MGMT frames have set (R329). -/
structure Mgmt where
  ptbase       : Tab Word := []
  policy       : Tab (Word × Word) := []
  quota        : Tab Nat := []
  defaultQuota : Nat := 0
  reserved     : List Nat := []
  pod          : Tab Nat := []
  peerMs       : Nat := 50
  macsec       : Bool := false
  backing      : Nat := 0
  notify       : Option Nat := none
  lastSrc      : Nat := 0
  stored       : Option Nat := none
  deriving DecidableEq, Repr

/-! ### The pod -/

/-- What this device sends to another (R347). -/
inductive PodOut
  | request (core slot id asid : Nat) (cmd : Option (Nat × Option Word)) (r : PodReq)
  | reply (core slot id : Nat) (r : PodReply)
  deriving DecidableEq, Repr

/-- A datagram sent: it is kept until it is acknowledged, and a request that is answered until its answer. -/
structure PodMsg where
  no    : Nat
  dev   : Nat
  body  : PodOut
  sent  : Nat
  acked : Bool := false
  deriving DecidableEq, Repr

/-- A progress record of another device's copy command (R388): items performed, the address of the next item expected,
requests that have arrived and are not performed yet, and the request of the last item. -/
structure Progress where
  dev   : Nat
  core  : Nat
  cmd   : Nat
  count : Nat
  next  : Nat
  wait  : List Nat
  last  : Option Nat
  deriving DecidableEq, Repr

/-! ### Flights -/

/-- One item of a stream (R312, R315): an instruction at its address with the address that follows, or a bubble. -/
structure Item where
  pc     : Word
  word   : Nat
  short  : Bool
  instr  : Option Instr
  next   : Word
  deriving DecidableEq, Repr

/-- A flight, formed or forming, named by its leader's core (R308 to R321): its shape, the cores that accepted, the items
its leader has issued, the steps each core has executed, resume addresses, cores that left, the span clock, whether it is
frozen, the span-clock cycles since a core last held it, whether the next cycle that is not frozen is a stream cycle (R314), the
originating cores of a stream fault with the cause of the first, the span-clock cycles after it that are left until no step
issues (R319), and the address of step 0. -/
structure Flight where
  w        : Nat
  h        : Nat
  formed   : Bool := false
  deadline : Nat := 0
  accepted : List Nat := []
  items    : List Item := []
  steps    : Tab Nat := []
  resume   : Tab Word := []
  left     : List Nat := []
  clock    : Nat := 0
  frozen   : Bool := false
  calm     : Nat := 0
  odd      : Bool := false
  origins  : List Nat := []
  cause    : Nat := 0
  stop     : Option Nat := none
  start    : Word := 0
  deriving DecidableEq, Repr

/-! ### The device -/

/-- The security alarm (R374). -/
structure Alarm where
  time    : Word
  causes  : BitVec 6
  dies    : BitVec 4
  reading : Nat
  deriving DecidableEq, Repr

/-- What moves next: a core cycle, a stream cycle of the flight of a leader, nanoseconds that pass, an event with what
arrives, a group entry that the management firmware writes (R342), the failure of a bring-up step with its cause (R38), or a
request of a core that passes the one before it on the way to a slice (R26, R201). -/
inductive Move
  | cycle (core : Nat)
  | stream (leader : Nat)
  | elapse (ns : Nat)
  | event (i : Instr)
  | group (g : Nat) (map : List Word)
  | bringFails (step cause : Nat)
  | overtake (core slice n : Nat)
  deriving DecidableEq, Repr

/-- The state of one Z9. `frac` is the fraction of a nanosecond of TIME in millionths, and `ppm` how far the servo or the
oscillator departs from nominal (R330); `bringFail` is the bring-up step that has failed, with its cause (R38); `hbmErr` counts the
errors of each HBM stack (R376); `boots` counts the COLD_RESETs, of which each generates a root key (R371); `ahead` lists queue
positions written before earlier granted ones: the queue's offset and the position (R287); `cancels` names typed requests that
were cancelled before they reached their SSP, which removes their entries as it makes them (R293). -/
structure State where
  devnum    : Nat := 0
  time      : Word := 0
  frac      : Nat := 0
  ppm       : Int := 0
  locked    : Bool := false
  holdover  : Bool := false
  bring     : Nat := 5
  bringFail : Option (Nat × Nat) := none
  rootKey   : Bool := true
  boots     : Nat := 0
  speed     : List (BitVec 32) := []
  bypass    : List Nat := []
  cores     : Tab Core := []
  mem       : List Host.Cell := []
  memAsid   : Tab Nat := []
  memBad    : List Nat := []
  dir       : Tab DirEnt := []
  pushes    : List Push := []
  waiters   : List Waiter := []
  ahead     : List (Nat × Nat) := []
  cancels   : List Who := []
  groups    : Tab (BitVec 768) := []
  launches  : Tab LaunchEnt := []
  binds     : Tab BindRec := []
  tt        : Tab TtEnt := []
  sources   : Tab HostSrc := []
  notices   : List Notice := []
  hostOut   : List HostOut := []
  mgmt      : Mgmt := {}
  podOut    : List PodMsg := []
  podGone   : List Nat := []
  podHeard  : Tab Nat := []
  progress  : List Progress := []
  flights   : Tab Flight := []
  report    : Nat := 0
  sliceErr  : Tab Nat := []
  hbmErr    : Tab Nat := []
  sliceSheets : Tab (Tab Nat) := []
  alarm     : Option Alarm := none
  net       : List Msg := []
  -- the model's own
  agenda    : List Move := []
  cur       : Nat × Nat := (0, 0)
  focus     : Nat := 0
  txn       : Nat := 0
  stream    : Option Word := none
  deriving DecidableEq, Repr

/-- Ways in which the model itself stops; no program causes one. -/
inductive Fault
  /-- Raised by an event that names a core, slot, slice or die the package does not have (R16, R18, R22). Safe: no such
  event exists on the hardware. -/
  | noSuchPart
  deriving DecidableEq, Repr

/-- Instructions without a meaning in the model. -/
inductive Refusal
  /-- Raised only by an arm of `exec` that has no meaning yet. Safe: nothing is claimed of such a step. -/
  | notModelled (mnemonic : String)
  deriving DecidableEq, Repr

/-- The fuse contents after reset: 768 live cores of 2,700 MHz, no spare row in use (log entry 3; a DESIGN CHOICE within
R27, R29 and R30; COLD_RESET loads others). Entry 768 is the summary of R30. -/
def resetSpeed : List (BitVec 32) :=
  List.replicate 768 (0x80000A8C#32) ++ [(BitVec.ofNat 32 (768 * 4194304 + 768 * 2700))]

/-- The device after COLD_RESET (R38 steps 1 to 5): HBM zero with the initial mark, no thread live, the split 6/6, P16,
TIME 0. Fields whose reset value the spec does not state are named in the assumption log. -/
def State.reset : State := { speed := resetSpeed }

end Sys2Proof.Machine
end

