-- ==== Sys2Proof/Machine/Bits.lean ====
section
/-! DEFINITION. Finite tables, bit fields, and bytes of memory: the operations every other file is written over. -/

namespace Sys2Proof.Machine

/-! ### Tables -/

/-- The value at a key, or the default. -/
def tget {α : Type} : Tab α → Nat → α → α
  | [], _, d => d
  | (k', v) :: r, k, d => if k = k' then v else tget r k d

/-- The value at a key, if there is one. -/
def tget? {α : Type} : Tab α → Nat → Option α
  | [], _ => none
  | (k', v) :: r, k => if k = k' then some v else tget? r k

/-- Set the value at a key, keys in rising order. -/
def tset {α : Type} (k : Nat) (v : α) : Tab α → Tab α
  | [] => [(k, v)]
  | (k', v') :: r =>
    if k < k' then (k, v) :: (k', v') :: r
    else if k = k' then (k, v) :: r
    else (k', v') :: tset k v r

/-- Remove a key. -/
def tdel {α : Type} (k : Nat) (t : Tab α) : Tab α := t.filter fun e => e.1 != k

/-- The keys of a table. -/
def tkeys {α : Type} (t : Tab α) : List Nat := t.map (·.1)

/-- Insert a number into a rising list without repeats. -/
def insertNat (n : Nat) : List Nat → List Nat
  | [] => [n]
  | m :: r => if n < m then n :: m :: r else if n = m then m :: r else m :: insertNat n r

/-! ### Bit fields -/

/-- Bits lo+n−1 to lo of a word as a number. -/
def fld {w : Nat} (x : BitVec w) (lo n : Nat) : Nat := x.toNat / 2 ^ lo % 2 ^ n

/-- A bit of a word. -/
def bitOf {w : Nat} (x : BitVec w) (i : Nat) : Bool := x.getLsbD i

/-- A word with bits lo+n−1 to lo replaced by the low bits of `v`. -/
def setFld {w : Nat} (x : BitVec w) (lo n v : Nat) : BitVec w :=
  let mask := BitVec.ofNat w ((2 ^ n - 1) * 2 ^ lo)
  (x &&& ~~~mask) ||| (BitVec.ofNat w (v % 2 ^ n * 2 ^ lo))

/-- A word with one bit replaced. -/
def setBit {w : Nat} (x : BitVec w) (i : Nat) (b : Bool) : BitVec w := setFld x i 1 (if b then 1 else 0)

/-- A boolean as a number. -/
def b2n (b : Bool) : Nat := if b then 1 else 0

/-- The word of a number. -/
def word (n : Nat) : Word := BitVec.ofNat 64 n

/-- The word of a signed integer, two's complement. -/
def wordI (i : Int) : Word := BitVec.ofInt 64 i

/-- The low `n` bits of a number as a signed integer. -/
def signedOf (n : Nat) (v : Nat) : Int :=
  if v % 2 ^ n < 2 ^ (n - 1) then (v % 2 ^ n : Nat) else (v % 2 ^ n : Nat) - (2 ^ n : Nat)

/-- Bytes of an access size (R45). -/
def sizeBytes : Size → Nat
  | .b => 1
  | .h => 2
  | .w => 4
  | .d => 8

/-- The least n with 2^n at least `v` (for v up to 2^64). -/
def clog2 (v : Nat) : Nat := if v ≤ 1 then 0 else Nat.log2 (v - 1) + 1

/-! ### Bytes -/

/-- The byte at an address; an address that nothing lists reads 0 (R38 step 4, R371). -/
def mread : List Host.Cell → Nat → Byte
  | [], _ => 0
  | (a', b) :: r, a => if a = a' then b else mread r a

/-- Write a byte, keeping the canonical form: rising addresses, no zero byte listed. -/
def mwrite (a : Nat) (b : Byte) : List Host.Cell → List Host.Cell
  | [] => if b = 0 then [] else [(a, b)]
  | (a', b') :: r =>
    if a < a' then (if b = 0 then (a', b') :: r else (a, b) :: (a', b') :: r)
    else if a = a' then (if b = 0 then r else (a, b) :: r)
    else (a', b') :: mwrite a b r

/-- The canonical form: addresses strictly rising and no byte equal to what an unlisted address reads. -/
def mwf : List Host.Cell → Bool
  | [] => true
  | [(_, b)] => b != 0
  | (a, b) :: (a', b') :: r => b != 0 && decide (a < a') && mwf ((a', b') :: r)

/-- `n` bytes from an address upward. -/
def mbytes (m : List Host.Cell) : Nat → Nat → List Byte
  | _, 0 => []
  | a, n + 1 => mread m a :: mbytes m (a + 1) n

/-- Write bytes from an address upward. -/
def mput : Nat → List Byte → List Host.Cell → List Host.Cell
  | _, [], m => m
  | a, b :: bs, m => mput (a + 1) bs (mwrite a b m)

/-- The number that bytes hold, lowest address first (R4). -/
def leNat : List Byte → Nat
  | [] => 0
  | b :: bs => b.toNat + 256 * leNat bs

/-- `n` bytes of a number, lowest address first (R4). -/
def leBytes : Nat → Nat → List Byte
  | 0, _ => []
  | n + 1, v => BitVec.ofNat 8 v :: leBytes n (v / 256)

/-- `n` bytes of memory as a number. -/
def mnum (m : List Host.Cell) (a n : Nat) : Nat := leNat (mbytes m a n)

/-- Byte `i` of a line. -/
def lineByte (l : Line) (i : Nat) : Byte := (l >>> (8 * i)).setWidth 8

/-- `n` bytes of a line from byte `i` as a number. -/
def lineNum (l : Line) (i n : Nat) : Nat := fld l (8 * i) (8 * n)

/-- A line with `n` bytes from byte `i` replaced by the low bytes of `v`. -/
def linePut (l : Line) (i n v : Nat) : Line := setFld l (8 * i) (8 * n) v

/-- Word `i` of a line (R5). -/
def lineWord (l : Line) (i : Nat) : Word := word (lineNum l (8 * i) 8)

/-- The 64 bytes of a line. -/
def lineBytes (l : Line) : List Byte := leBytes 64 l.toNat

/-- The line that 64 bytes form. -/
def lineOf (bs : List Byte) : Line := BitVec.ofNat 512 (leNat bs)

/-! ### An access at the bytes it reaches (R198, R234, R236, R377) -/

/-- The 8-byte words of a line that `n` bytes from byte `off` touch. -/
def touched (off n : Nat) : List Nat := (List.range 8).filter fun w => decide (8 * w < off + n ∧ off < 8 * w + 8)

/-- The words that `n` bytes from byte `off` cover wholly. -/
def covered (off n : Nat) : List Nat := (List.range 8).filter fun w => decide (off ≤ 8 * w ∧ 8 * w + 8 ≤ off + n)

/-- The new value an atomic stores, or none when it performs no store (R236). -/
def atomNew (op : AtomOp) (old b x0 : Word) : Option Word :=
  match op with
  | .add => some (old + b)
  | .and => some (old &&& b)
  | .or => some (old ||| b)
  | .xor => some (old ^^^ b)
  | .min => some (if old.sle b then old else b)
  | .max => some (if b.sle old then old else b)
  | .swap => some b
  | .cas => if old = x0 then some b else none

/-- The bytes an access touches. -/
def Access.bytes : Access → Nat
  | .load n => n
  | .store n _ => n
  | .fetch => 64
  | .atomic .. | .taint => 8

/-- Whether an access writes (R233). -/
def Access.writes : Access → Bool
  | .load _ | .fetch => false
  | _ => true

/-- An access within one line: the line after it and its result. A poisoned word answers with its place in the line. -/
def accLine (lv : LineVal) (off : Nat) (a : Access) : LineVal × Result :=
  match a with
  | .load n =>
    match (touched off n).find? fun w => bitOf lv.bad w with
    | some w => (lv, .poison (8 * w))
    | none => (lv, .value (BitVec.ofNat 512 (lineNum lv.data off n)))
  | .fetch => (lv, .line lv)
  | .store n v =>
    ({ data := linePut lv.data off n v.toNat,
       bad := (covered off n).foldl (fun m w => setBit m w false) lv.bad }, .done)
  | .taint => ({ lv with bad := setBit lv.bad (off / 8) true }, .done)
  | .atomic op b x0 =>
    if bitOf lv.bad (off / 8) then (lv, .poison off)
    else
      let old := word (lineNum lv.data off 8)
      match atomNew op old b x0 with
      | some new => ({ lv with data := linePut lv.data off 8 new.toNat }, .value (old.setWidth 512))
      | none => (lv, .value (old.setWidth 512))

/-- The poison of the eight words of the line at `a`. -/
def badMask (bad : List Nat) (a : Nat) : BitVec 8 :=
  (List.range 8).foldl (fun m i => if bad.contains (a / 8 + i) then setBit m i true else m) 0

/-- The line at `a` of bytes held as cells. -/
def cellLine (m : List Host.Cell) (bad : List Nat) (a : Nat) : LineVal :=
  { data := lineOf (mbytes m a 64), bad := badMask bad a }

/-- An access to bytes held as cells with a list of poisoned words: the bytes, the list, and the result. -/
def accCells (m : List Host.Cell) (bad : List Nat) (a : Nat) (x : Access) : List Host.Cell × List Nat × Result :=
  match x with
  | .load n =>
    match bad.find? fun w => decide (8 * w < a + n ∧ a < 8 * w + 8) with
    | some w => (m, bad, .poison (8 * w % 64))
    | none => (m, bad, .value (BitVec.ofNat 512 (mnum m a n)))
  | .fetch => (m, bad, .line (cellLine m bad a))
  | .store n v =>
    (mput a (leBytes n v.toNat) m, bad.filter fun w => !decide (a ≤ 8 * w ∧ 8 * w + 8 ≤ a + n), .done)
  | .taint => (m, insertNat (a / 8) bad, .done)
  | .atomic op b x0 =>
    if bad.contains (a / 8) then (m, bad, .poison (a % 64))
    else
      let old := word (mnum m a 8)
      match atomNew op old b x0 with
      | some new => (mput a (leBytes 8 new.toNat) m, bad, .value (old.setWidth 512))
      | none => (m, bad, .value (old.setWidth 512))

/-- The list of poisoned words with the eight words of the line at `a` set from a mask. -/
def putMask (bad : List Nat) (a : Nat) (mask : BitVec 8) : List Nat :=
  (List.range 8).foldl (fun l i =>
    if bitOf mask i then insertNat (a / 8 + i) l else l.filter (· != a / 8 + i)) bad

end Sys2Proof.Machine
end

