-- ==== Sys2Proof/Machine/Crypt.lean ====
section
/-! DEFINITION. Memory encryption (R371): AES-256, the key of an ASID by the counter-mode KDF with AES-256-CMAC, and
AES-XTS over the 64-byte line. Bytes are numbers below 256; a block is a list of 16 of them. -/

namespace Sys2Proof.Machine

open Sys2Proof

/-! ### The field of AES -/

/-- Twice a byte, modulo x^8 + x^4 + x^3 + x + 1. -/
def gdouble (a : Nat) : Nat := if a < 128 then 2 * a else (2 * a) ^^^ 0x11B

/-- The product of two bytes; `n` bits of the second are left. -/
def gmul (a : Nat) : Nat → Nat → Nat
  | 0, _ => 0
  | n + 1, b => (if b % 2 = 1 then a else 0) ^^^ gdouble (gmul a n (b / 2))

/-- The product of two bytes. -/
def gtimes (a b : Nat) : Nat := gmul a 8 b

/-- The inverse of a byte, which is its 254th power; that of 0 is 0. -/
def ginv (a : Nat) : Nat :=
  let a2 := gtimes a a
  let a4 := gtimes a2 a2
  let a8 := gtimes a4 a4
  let a16 := gtimes a8 a8
  let a32 := gtimes a16 a16
  let a64 := gtimes a32 a32
  gtimes (gtimes (gtimes a2 a4) (gtimes a8 a16)) (gtimes (gtimes a32 a64) (gtimes a64 a64))

/-- A byte rotated left. -/
def rotByte (a n : Nat) : Nat := (a * 2 ^ n) % 256 + a / 2 ^ (8 - n)

/-- The S-box. -/
def sbox (a : Nat) : Nat :=
  let b := ginv a
  b ^^^ rotByte b 1 ^^^ rotByte b 2 ^^^ rotByte b 3 ^^^ rotByte b 4 ^^^ 0x63

/-- The inverse S-box. -/
def invSbox (a : Nat) : Nat := ginv (rotByte a 1 ^^^ rotByte a 3 ^^^ rotByte a 6 ^^^ 0x05)

/-! ### AES-256 -/

/-- Bytes added in the field. -/
def xorBytes (a b : List Nat) : List Nat := List.zipWith (· ^^^ ·) a b

/-- The next word of the key schedule; the words so far stand latest first, `i` is its number. -/
def nextKeyWord (i : Nat) (ws : List (List Nat)) : List Nat :=
  let prev := ws.getD 0 []
  let t :=
    if i % 8 = 0 then
      xorBytes ((prev.drop 1 ++ prev.take 1).map sbox) [(List.range (i / 8 - 1)).foldl (fun a _ => gdouble a) 1, 0, 0, 0]
    else if i % 8 = 4 then prev.map sbox
    else prev
  xorBytes (ws.getD 7 []) t

/-- The 15 round keys of a 32-byte key. -/
def roundKeys (key : List Nat) : List (List Nat) :=
  let first := ((List.range 8).map fun i => (key.drop (4 * i)).take 4).reverse
  let all := ((List.range 52).foldl (fun ws n => nextKeyWord (n + 8) ws :: ws) first).reverse
  (List.range 15).map fun r => ((all.drop (4 * r)).take 4).flatten

/-- Byte (row, column) of a block moves along its row. -/
def shiftRows (b : List Nat) (dir : Nat) : List Nat :=
  (List.range 16).map fun i => b.getD ((i + 4 * (i % 4) * dir) % 16) 0

/-- Every column is multiplied by the circulant matrix with this first row. -/
def mixColumns (row b : List Nat) : List Nat :=
  (List.range 16).map fun i =>
    (List.range 4).foldl (fun a k => a ^^^ gtimes (b.getD (i / 4 * 4 + k) 0) (row.getD ((k + 4 - i % 4) % 4) 0)) 0

/-- AES-256 encryption of a block. -/
def aesEnc (key b : List Nat) : List Nat :=
  let ks := roundKeys key
  let b := (List.range 13).foldl (fun b r =>
    xorBytes (mixColumns [2, 3, 1, 1] (shiftRows (b.map sbox) 1)) (ks.getD (r + 1) [])) (xorBytes b (ks.getD 0 []))
  xorBytes (shiftRows (b.map sbox) 1) (ks.getD 14 [])

/-- AES-256 decryption of a block. -/
def aesDec (key b : List Nat) : List Nat :=
  let ks := roundKeys key
  let b := (List.range 13).foldl (fun b r =>
    mixColumns [14, 11, 13, 9] (xorBytes ((shiftRows b 3).map invSbox) (ks.getD (13 - r) []))) (xorBytes b (ks.getD 14 []))
  xorBytes ((shiftRows b 3).map invSbox) (ks.getD 0 [])

/-! ### The key of an ASID -/

/-- A number of `n` bytes, highest byte first. -/
def beNat (b : List Nat) : Nat := b.foldl (fun a x => 256 * a + x) 0
/-- The bytes of a number, highest first. -/
def beBytes (n v : Nat) : List Nat := ((leBytes n v).map (·.toNat)).reverse

/-- A subkey of CMAC from the one before it. -/
def cmacDouble (b : List Nat) : List Nat :=
  let v := 2 * beNat b
  beBytes 16 (if v < 2 ^ 128 then v else v ^^^ (2 ^ 128 + 0x87))

/-- AES-256-CMAC of a message. -/
def cmac (key msg : List Nat) : List Nat :=
  let k1 := cmacDouble (aesEnc key (List.replicate 16 0))
  let n := (msg.length + 15) / 16 - 1
  let last := msg.drop (16 * n)
  let last := if last.length = 16 then xorBytes last k1
    else xorBytes (last ++ 0x80 :: List.replicate (15 - last.length) 0) (cmacDouble k1)
  let x := (List.range n).foldl (fun x i => aesEnc key (xorBytes x ((msg.drop (16 * i)).take 16))) (List.replicate 16 0)
  aesEnc key (xorBytes x last)

/-- The number by which the device key stands among the ASIDs (R372). -/
def deviceKeyNo : Nat := 65536

/-- The fixed input of the key derivation: label, a zero byte, the ASID as context, and the length of the key in bits (R371; the
label is a free value, and the widths are log entry 7's). -/
def kdfInput (asid : Nat) : List Nat :=
  Config.kdfLabel.map (·.toNat) ++ 0 :: beBytes 2 asid ++ beBytes 4 512

/-- The 64 bytes of an ASID's key: the data key and the tweak key (R371; the counter is 32 bits wide, log entry 7). The device
key belongs to no ASID (R372). -/
def asidKey (boot asid : Nat) : List Nat :=
  if asid = deviceKeyNo then beBytes 64 (Config.deviceKey boot).toNat
  else (List.range 4).flatMap fun i => cmac (beBytes 32 (Config.rootKey boot).toNat) (beBytes 4 (i + 1) ++ kdfInput asid)

/-! ### AES-XTS -/

/-- The tweak of the next block of a data unit. -/
def nextTweak (t : List Nat) : List Nat :=
  let v := 2 * leNat (t.map (BitVec.ofNat 8))
  (leBytes 16 (if v < 2 ^ 128 then v else v ^^^ (2 ^ 128 + 0x87))).map (·.toNat)

/-- AES-XTS over a 64-byte line under a 64-byte key, with a block function and its tweak number: the line's local offset
bits 38:6 (R371). -/
def xts (f : List Nat → List Nat → List Nat) (key : List Nat) (line : Nat) (data : Line) : Line :=
  let bs := (lineBytes data).map (·.toNat)
  let t0 := aesEnc (key.drop 32) ((leBytes 16 line).map (·.toNat))
  let tweaks := (List.range 3).foldl (fun l _ => l ++ [nextTweak (l.getLastD [])]) [t0]
  let out := (List.range 4).flatMap fun i =>
    let t := tweaks.getD i []
    xorBytes (f (key.take 32) (xorBytes ((bs.drop (16 * i)).take 16) t)) t
  lineOf (out.map (BitVec.ofNat 8))

/-- The ciphertext of a line written under an ASID (R371). -/
def encryptLine (boot asid line : Nat) (data : Line) : Line := xts aesEnc (asidKey boot asid) line data
/-- What a ciphertext of a line decrypts to under an ASID (R371, R372). -/
def decryptLine (boot asid line : Nat) (data : Line) : Line := xts aesDec (asidKey boot asid) line data

end Sys2Proof.Machine
end

