-- ==== Sys2Proof/WellFormed.lean ====
section
/-! DEFINITION. What an instruction must meet beside the types of its fields: the values of R46 to R81 and R350 that the
spec marks reserved for one instruction. A decoded word that breaks one is ILLEGAL (R86). For an event the check is that
the core, slot or slice it names exists on a package (R16, R18, R22). -/

namespace Sys2Proof

/-- How U mode and S mode may use a system register (the U and S columns of R350). -/
inductive SysAccess
  /-- read only in both modes -/
  | ro
  /-- read only in U mode, read and write in S mode -/
  | roRw
  /-- not accessible in U mode, read and write in S mode -/
  | priv
  /-- read and write in both modes -/
  | rw
  deriving DecidableEq, Repr

/-- The register numbers of R82 with the rights of R350. A number that answers `none` is reserved. -/
def sysAccess : Nat → Option SysAccess
  | 0x000 => some .ro   | 0x001 => some .ro   | 0x002 => some .ro   | 0x003 => some .ro
  | 0x004 => some .roRw | 0x005 => some .roRw | 0x006 => some .priv | 0x007 => some .roRw
  | 0x008 => some .ro   | 0x009 => some .ro   | 0x00A => some .ro
  | 0x010 => some .priv | 0x011 => some .roRw | 0x012 => some .roRw | 0x013 => some .roRw
  | 0x014 => some .roRw | 0x015 => some .priv | 0x016 => some .roRw | 0x017 => some .roRw
  | 0x018 => some .rw
  | 0x020 => some .ro   | 0x021 => some .ro   | 0x022 => some .ro   | 0x023 => some .ro
  | 0x030 => some .roRw | 0x031 => some .roRw
  | 0x041 => some .ro   | 0x042 => some .ro   | 0x043 => some .ro
  | 0x050 => some .priv
  | 0x060 => some .priv | 0x061 => some .priv | 0x062 => some .priv | 0x063 => some .priv
  | 0x064 => some .priv | 0x065 => some .priv | 0x066 => some .priv | 0x067 => some .priv
  | _ => none

/-- The system register number: B as bits 11:6 and A as bits 5:0 (R79). -/
def sysNumber (h l : Fin 64) : Nat := h.val * 64 + l.val

/-- The registers that have a row of the opcode table to themselves as SWR destinations. -/
def swrOwnRow (n : Nat) : Bool := n == 0x016 || n == 0x050 || n == 0x030 || n == 0x031

/-- A number SWR may name (R82, R350): assigned, and not read only in both modes. -/
def swrWritable (n : Nat) : Bool :=
  match sysAccess n with
  | some .ro => false
  | some _ => true
  | none => false

/-- LD, LDN and VLD take plain, acquire, or both (R46). -/
def Order.forLoad : Order → Bool
  | .rel => false
  | _ => true

/-- ST and VST take plain, release, or both (R46). -/
def Order.forStore : Order → Bool
  | .acq => false
  | _ => true

/-- The VCVT column of R81. -/
def TyCode.vcvtTarget : TyCode → Bool
  | .f32 | .bf16 | .f16 | .e4m3 | .e5m2 | .i8 | .i16 | .i32 => true
  | _ => false

/-- The MWL column of R81. -/
def TyCode.weight : TyCode → Bool
  | .bf16 | .f16 | .e4m3 | .e5m2 | .mxf8e4m3 | .mxf8e5m2 | .mxf6e3m2 | .mxf6e2m3 | .mxf4 | .mxi8 | .lc2 => true
  | _ => false

/-- The MMA column of R81. -/
def TyCode.activation : TyCode → Bool
  | .bf16 | .f16 | .e4m3 | .e5m2 | .mxf8e4m3 | .mxf8e5m2 | .mxf6e3m2 | .mxf6e2m3 | .mxf4 | .mxi8 => true
  | _ => false

/-- The ACCRD column of R81. -/
def TyCode.output : TyCode → Bool
  | .f32 | .bf16 | .e4m3 | .e5m2 | .i8 | .a96 => true
  | _ => false

/-- A core position of the package (R16). -/
def coreOk (n : Nat) : Bool := n < 768
/-- A thread slot (R24). -/
def slotOk (n : Nat) : Bool := n < 16

/-- An agent that exists (R16, R190). -/
def Node.ok : Node → Bool
  | .core n => n < 768
  | .slice n => n < 128
  | .port d => d < 32768
  | .dispatch | .mgmt => true

/-- Two agents that exist. -/
def chanOk (a b : Node) : Bool := a.ok && b.ok

/-- The place of a contact sheet exists (R402). -/
def SheetPlace.ok : SheetPlace → Bool
  | .core n => n < 768
  | .slice n => n < 128

/-- The instruction is one the spec's tables give (R46 to R81, R350), or an event of agents that exist. -/
def Instr.wf : Instr → Bool
  | .cmp _ _ _ _ _ p | .cmpW _ _ _ _ _ p | .cmpi _ _ _ _ p => p != 0
  | .pand _ _ d | .por _ _ d | .pxor _ _ d | .pandn _ _ d | .pfromg _ _ d => d != 0
  | .vcmpFp _ _ _ _ n _ | .vcmpInt _ _ _ _ n _ => n != 0
  | .rput c _ y _ _ => !(c && y)
  | .rputM c y _ _ a _ => a != 0 && !(c && y)
  | .ld _ _ e _ _ _ _ | .ldn _ _ e _ _ _ _ | .vld _ e _ _ _ _ => e.forLoad
  | .st _ _ e _ _ _ _ | .vst _ e _ _ _ _ => e.forStore
  | .waitc m => m != 0
  | .tinit _ _ _ _ k => k != .slot
  | .mwl _ _ _ _ _ _ f => f.weight
  | .mma _ _ _ _ _ _ _ f _ => f.activation
  | .accrd _ _ _ _ f _ => f.output
  | .vcvt _ _ c _ _ _ => c.vcvtTarget
  | .tlbinv y x b a k =>
    match k with
    | .all => !y && !x && b == 0 && a == 0
    | .asid => !x && a == 0
    | .page => true
  | .srd h l _ => (sysAccess (sysNumber h l)).isSome
  | .swr h l _ => swrWritable (sysNumber h l) && !swrOwnRow (sysNumber h l)
  | .cMov y x => !(y == 0 && x == 0)
  | .deferredTrap c t | .nbarExpiry c t | .bindRecordWrite c t _ | .threadStart c t | .tlbinvComplete c t
  | .pageWalk c t _ => coreOk c && slotOk t
  | .rejection a b | .resultFill a b | .accessPerformed a b | .rputDelivery a b | .fetchFill a b | .meshAccess a b
  | .reclassify a b | .reclassifyAck a b | .l1Grant a b _ | .l1ForwardedRead a b | .l1ForwardedReadExclusive a b
  | .l1Invalidate a b | .l1WritebackAck a b | .pushedCopy a b _ | .homeRead a b _ | .homeReadExclusive a b _
  | .homeWriteBack a b | .homeEvictionNotice a b | .homeInvalidateAck a b | .homeNcAccess a b
  | .homeAtomic a b | .pushOutcome a b | .pushComplete a b | .reduceAdd a b
  | .putDataRequest a b | .putData a b | .nbarNotify a b | .joinRequest a b | .grpsetPerform a b
  | .sspTypedRequest a b | .distributorTnextRequest a b | .homeUpgrade a ⟨b, _⟩ | .homePushStore a ⟨b, _⟩ => chanOk a b
  | .flightForm c | .formationTimeout c | .freezeEnd c | .flightAbort c | .flightEnd c | .matrixEntryComplete c
  | .shadowActivate c | .copyStart ⟨c, _⟩ | .copyComplete c | .copyStop c | .spcfgApply c _ | .repartApply c
  | .coreDoneAdd c | .firmwareDoorbell c | .freqChange c _ | .fenceCore c _ _ _ | .routerBypass c => coreOk c
  | .dieThrottle d => d < 4
  | .scrub p _ => p.ok
  | .contactSheetSample p _ _ => p.ok
  | .podDatagram d _ | .peerUnreachable d => d < 32768
  | .coldReset f => f.speed.length == 768
  | _ => true

end Sys2Proof
end

