-- ==== Sys2Proof/Decode.lean ====
section
/-! DEFINITION. The decoder (R39 to R86) and the encoder. Words are natural numbers, fields are quotients and
remainders. Both directions go through one packing function per format (R44); register-class, code and zero-field rules
are those of R45 to R81. -/

namespace Sys2Proof

/-- Why a word names no instruction (R86). -/
inductive BadWord
  /-- the fetch has not enough bytes -/
  | tooShort
  /-- MAJ 0x00, 0x0F, 0x17 or 0x37 -/
  | noMajor
  /-- a function number marked reserved -/
  | reservedFunction
  /-- a code or register class value outside its set -/
  | reservedCode
  /-- a field that must be zero is not -/
  | notZero
  /-- a restriction of the instruction's own description (`Instr.wf`) -/
  | notAllowed
  /-- a 16-bit form that breaks a limit of R84 -/
  | badCompact
  deriving DecidableEq, Repr

/-- What decoding one word answers. -/
abbrev Decoded := Except BadWord Instr

/-- Continue when the condition holds. -/
def need (c : Bool) (e : BadWord) (r : Decoded) : Decoded := if c then r else .error e

/-- Continue with the value of a code. -/
def withCode {α : Type} (o : Option α) (k : α → Decoded) : Decoded :=
  match o with
  | some a => k a
  | none => .error .reservedCode

/-! ### Codes -/

/-- The code of a value of `Cond`. -/
def Cond.code : Cond → Nat
  | .eq => 0
  | .ne => 1
  | .lt => 2
  | .ge => 3
  | .ltn => 4
  | .gen => 5
  | .tst => 6
/-- The value a code names, if it is assigned. -/
def Cond.ofCode : Nat → Option Cond
  | 0 => some .eq
  | 1 => some .ne
  | 2 => some .lt
  | 3 => some .ge
  | 4 => some .ltn
  | 5 => some .gen
  | 6 => some .tst
  | _ => none

/-- The code of a value of `FCond`. -/
def FCond.code : FCond → Nat
  | .eq => 0
  | .ne => 1
  | .lt => 2
  | .ge => 3
  | .le => 4
  | .gt => 5
  | .un => 6
/-- The value a code names, if it is assigned. -/
def FCond.ofCode : Nat → Option FCond
  | 0 => some .eq
  | 1 => some .ne
  | 2 => some .lt
  | 3 => some .ge
  | 4 => some .le
  | 5 => some .gt
  | 6 => some .un
  | _ => none

/-- The code of a value of `Order`. -/
def Order.code : Order → Nat
  | .plain => 0
  | .acq => 1
  | .rel => 2
  | .acqRel => 3
/-- The value a code names, if it is assigned. -/
def Order.ofCode : Nat → Option Order
  | 0 => some .plain
  | 1 => some .acq
  | 2 => some .rel
  | 3 => some .acqRel
  | _ => none

/-- The code of a value of `Scope`. -/
def Scope.code : Scope → Nat
  | .core => 0
  | .dev => 1
  | .pod => 2
/-- The value a code names, if it is assigned. -/
def Scope.ofCode : Nat → Option Scope
  | 0 => some .core
  | 1 => some .dev
  | 2 => some .pod
  | _ => none

/-- The code of a value of `Size`. -/
def Size.code : Size → Nat
  | .b => 0
  | .h => 1
  | .w => 2
  | .d => 3
/-- The value a code names, if it is assigned. -/
def Size.ofCode : Nat → Option Size
  | 0 => some .b
  | 1 => some .h
  | 2 => some .w
  | 3 => some .d
  | _ => none

/-- The code of a value of `VFn`. -/
def VFn.code : VFn → Nat
  | .abs => 0
  | .neg => 1
  | .exp2 => 2
  | .log2 => 3
  | .rcp => 4
  | .rsq => 5
  | .sqrt => 6
  | .tanh => 7
/-- The value a code names, if it is assigned. -/
def VFn.ofCode : Nat → Option VFn
  | 0 => some .abs
  | 1 => some .neg
  | 2 => some .exp2
  | 3 => some .log2
  | 4 => some .rcp
  | 5 => some .rsq
  | 6 => some .sqrt
  | 7 => some .tanh
  | _ => none

/-- The code of a value of `Rounding`. -/
def Rounding.code : Rounding → Nat
  | .rne => 0
  | .rz => 1
  | .ru => 2
  | .rd => 3
/-- The value a code names, if it is assigned. -/
def Rounding.ofCode : Nat → Option Rounding
  | 0 => some .rne
  | 1 => some .rz
  | 2 => some .ru
  | 3 => some .rd
  | _ => none

/-- The code of a value of `TyCode`. -/
def TyCode.code : TyCode → Nat
  | .f32 => 0
  | .bf16 => 1
  | .f16 => 2
  | .e4m3 => 3
  | .e5m2 => 4
  | .mxf8e4m3 => 5
  | .mxf8e5m2 => 6
  | .mxf6e3m2 => 7
  | .mxf6e2m3 => 8
  | .mxf4 => 9
  | .mxi8 => 10
  | .lc2 => 11
  | .i8 => 12
  | .i16 => 13
  | .i32 => 14
  | .a96 => 15
/-- The value a code names, if it is assigned. -/
def TyCode.ofCode : Nat → Option TyCode
  | 0 => some .f32
  | 1 => some .bf16
  | 2 => some .f16
  | 3 => some .e4m3
  | 4 => some .e5m2
  | 5 => some .mxf8e4m3
  | 6 => some .mxf8e5m2
  | 7 => some .mxf6e3m2
  | 8 => some .mxf6e2m3
  | 9 => some .mxf4
  | 10 => some .mxi8
  | 11 => some .lc2
  | 12 => some .i8
  | 13 => some .i16
  | 14 => some .i32
  | 15 => some .a96
  | _ => none

/-- The code of a value of `Part`. -/
def Part.code : Part → Nat
  | .p16 => 0
  | .p8 => 1
  | .p4 => 2
/-- The value a code names, if it is assigned. -/
def Part.ofCode : Nat → Option Part
  | 0 => some .p16
  | 1 => some .p8
  | 2 => some .p4
  | _ => none

/-- The code of a value of `Dir`. -/
def Dir.code : Dir → Nat
  | .n => 0
  | .e => 1
  | .s => 2
  | .w => 3
/-- The value a code names, if it is assigned. -/
def Dir.ofCode : Nat → Option Dir
  | 0 => some .n
  | 1 => some .e
  | 2 => some .s
  | 3 => some .w
  | _ => none

/-- The code of a value of `FenceKind`. -/
def FenceKind.code : FenceKind → Nat
  | .acq => 1
  | .rel => 2
  | .both => 3
/-- The value a code names, if it is assigned. -/
def FenceKind.ofCode : Nat → Option FenceKind
  | 1 => some .acq
  | 2 => some .rel
  | 3 => some .both
  | _ => none

/-- The code of a value of `ObjType`. -/
def ObjType.code : ObjType → Nat
  | .plain => 0
  | .counter => 1
  | .barrier => 2
  | .report => 3
  | .ticket => 4
  | .queue => 5
  | .slot => 6
  | .cond => 7
/-- The value a code names, if it is assigned. -/
def ObjType.ofCode : Nat → Option ObjType
  | 0 => some .plain
  | 1 => some .counter
  | 2 => some .barrier
  | 3 => some .report
  | 4 => some .ticket
  | 5 => some .queue
  | 6 => some .slot
  | 7 => some .cond
  | _ => none

/-- The code of a value of `TlbKind`. -/
def TlbKind.code : TlbKind → Nat
  | .all => 0
  | .asid => 1
  | .page => 2
/-- The value a code names, if it is assigned. -/
def TlbKind.ofCode : Nat → Option TlbKind
  | 0 => some .all
  | 1 => some .asid
  | 2 => some .page
  | _ => none

/-- The code of a value of `FType`. -/
def FType.code : FType → Nat
  | .f32 => 0
  | .bf16 => 1
  | .f16 => 2
/-- The value a code names, if it is assigned. -/
def FType.ofCode : Nat → Option FType
  | 0 => some .f32
  | 1 => some .bf16
  | 2 => some .f16
  | _ => none

/-- The code of a value of `IType`. -/
def IType.code : IType → Nat
  | .i8 => 0
  | .i16 => 1
  | .i32 => 2
/-- The value a code names, if it is assigned. -/
def IType.ofCode : Nat → Option IType
  | 0 => some .i8
  | 1 => some .i16
  | 2 => some .i32
  | _ => none

/-- LIM (R45): 0 unbounded, 1 to 40 a limit, 63 try. -/
def Lim.code : Lim → Nat
  | .wait n => n.val
  | .try => 63
/-- The LIM a code names; 41 to 62 are reserved (R49). -/
def Lim.ofCode (n : Nat) : Option Lim :=
  if h : n < 41 then some (.wait ⟨n, h⟩) else if n = 63 then some .try else none

/-! ### Fields -/

/-- The six-bit field at bit `lo`. -/
def f6 (w lo : Nat) : Fin 64 := ⟨w / 2 ^ lo % 64, Nat.mod_lt _ (by decide)⟩
/-- The five-bit field at bit `lo`. -/
def f5 (w lo : Nat) : Fin 32 := ⟨w / 2 ^ lo % 32, Nat.mod_lt _ (by decide)⟩
/-- The four-bit field at bit `lo`. -/
def f4 (w lo : Nat) : Fin 16 := ⟨w / 2 ^ lo % 16, Nat.mod_lt _ (by decide)⟩
/-- The three-bit field at bit `lo`. -/
def f3 (w lo : Nat) : Fin 8 := ⟨w / 2 ^ lo % 8, Nat.mod_lt _ (by decide)⟩
/-- The two-bit field at bit `lo`. -/
def f2 (w lo : Nat) : Fin 4 := ⟨w / 2 ^ lo % 4, Nat.mod_lt _ (by decide)⟩
/-- The bit at `lo`. -/
def f1 (w lo : Nat) : Bool := w / 2 ^ lo % 2 == 1
/-- The field of `n` bits at bit `lo` is zero. -/
def fz (w lo n : Nat) : Bool := w / 2 ^ lo % 2 ^ n == 0
/-- The number of a bit. -/
def bn (b : Bool) : Nat := if b then 1 else 0

/-! ### Formats (R44) -/

/-- RR: F, TB, TA, B, A, D, MAJ. -/
def rr (maj f : Nat) (tb ta : Bool) (b a d : Nat) : Nat :=
  1 + maj * 2 ^ 1 + d * 2 ^ 7 + a * 2 ^ 13 + b * 2 ^ 19 + bn ta * 2 ^ 25 + bn tb * 2 ^ 26 + f * 2 ^ 27
/-- RI: IMM12, TA, A, D, MAJ. -/
def ri (maj imm : Nat) (ta : Bool) (a d : Nat) : Nat :=
  1 + maj * 2 ^ 1 + d * 2 ^ 7 + a * 2 ^ 13 + bn ta * 2 ^ 19 + imm * 2 ^ 20
/-- U: IMM19, D, MAJ. -/
def uu (maj imm d : Nat) : Nat := 1 + maj * 2 ^ 1 + d * 2 ^ 7 + imm * 2 ^ 13
/-- J: IMM25, MAJ. -/
def jj (maj imm : Nat) : Nat := 1 + maj * 2 ^ 1 + imm * 2 ^ 7
/-- BP: IMM19, S, P, MAJ. -/
def bp (maj imm : Nat) (s : Bool) (p : Nat) : Nat :=
  1 + maj * 2 ^ 1 + p * 2 ^ 7 + bn s * 2 ^ 10 + imm * 2 ^ 13
/-- M: OFF6, SZ, ORD, WC, TA, A, D, MAJ. -/
def mm (maj off sz ord wc : Nat) (ta : Bool) (a d : Nat) : Nat :=
  1 + maj * 2 ^ 1 + d * 2 ^ 7 + a * 2 ^ 13 + bn ta * 2 ^ 19 + wc * 2 ^ 20 + ord * 2 ^ 22 + sz * 2 ^ 24 + off * 2 ^ 26
/-- MA and PS: OPL or MODE, ORD, SC, T, B, A, D, MAJ. -/
def ma (maj opl ord sc : Nat) (t : Bool) (b a d : Nat) : Nat :=
  1 + maj * 2 ^ 1 + d * 2 ^ 7 + a * 2 ^ 13 + b * 2 ^ 19 + bn t * 2 ^ 25 + sc * 2 ^ 26 + ord * 2 ^ 28 + opl * 2 ^ 30
/-- T: LIM, T, B, A, D, MAJ. -/
def tt (maj lim : Nat) (t : Bool) (b a d : Nat) : Nat :=
  1 + maj * 2 ^ 1 + d * 2 ^ 7 + a * 2 ^ 13 + b * 2 ^ 19 + bn t * 2 ^ 25 + lim * 2 ^ 26
/-- C: SIG, SC, REL, ACQ, T, B, A, D, MAJ. -/
def cc (maj : Nat) (sig : Bool) (sc : Nat) (rel acq t : Bool) (b a d : Nat) : Nat :=
  1 + maj * 2 ^ 1 + d * 2 ^ 7 + a * 2 ^ 13 + b * 2 ^ 19 + bn t * 2 ^ 25 + bn acq * 2 ^ 26 + bn rel * 2 ^ 27
    + sc * 2 ^ 28 + bn sig * 2 ^ 30
/-- V: OP, M, B, A, D, MAJ. -/
def vv (maj op m b a d : Nat) : Nat :=
  1 + maj * 2 ^ 1 + d * 2 ^ 7 + a * 2 ^ 13 + b * 2 ^ 19 + m * 2 ^ 25 + op * 2 ^ 28
/-- A halfword: Y, X, C-op (R84). -/
def hh (op x y : Nat) : Nat := op * 2 + x * 2 ^ 5 + y * 2 ^ 10

/-! ### The 32-bit majors (R61 to R79) -/

/-- MAJ 0x01 (R62). -/
def decIalu (w : Nat) : Decoded :=
  match w / 2 ^ 27 % 32 with
  | 0 => .ok (.add (f1 w 26) (f1 w 25) (f6 w 19) (f6 w 13) (f6 w 7))
  | 1 => .ok (.sub (f1 w 26) (f1 w 25) (f6 w 19) (f6 w 13) (f6 w 7))
  | 2 => .ok (.and (f1 w 26) (f1 w 25) (f6 w 19) (f6 w 13) (f6 w 7))
  | 3 => .ok (.or (f1 w 26) (f1 w 25) (f6 w 19) (f6 w 13) (f6 w 7))
  | 4 => .ok (.xor (f1 w 26) (f1 w 25) (f6 w 19) (f6 w 13) (f6 w 7))
  | 5 => .ok (.andn (f1 w 26) (f1 w 25) (f6 w 19) (f6 w 13) (f6 w 7))
  | 6 => .ok (.shl (f1 w 26) (f1 w 25) (f6 w 19) (f6 w 13) (f6 w 7))
  | 7 => .ok (.shr (f1 w 26) (f1 w 25) (f6 w 19) (f6 w 13) (f6 w 7))
  | 8 => .ok (.sha (f1 w 26) (f1 w 25) (f6 w 19) (f6 w 13) (f6 w 7))
  | 9 => .ok (.rot (f1 w 26) (f1 w 25) (f6 w 19) (f6 w 13) (f6 w 7))
  | 10 => .ok (.min (f1 w 26) (f1 w 25) (f6 w 19) (f6 w 13) (f6 w 7))
  | 11 => .ok (.max (f1 w 26) (f1 w 25) (f6 w 19) (f6 w 13) (f6 w 7))
  | 12 => .ok (.minn (f1 w 26) (f1 w 25) (f6 w 19) (f6 w 13) (f6 w 7))
  | 13 => .ok (.maxn (f1 w 26) (f1 w 25) (f6 w 19) (f6 w 13) (f6 w 7))
  | 14 => .ok (.mul (f1 w 26) (f1 w 25) (f6 w 19) (f6 w 13) (f6 w 7))
  | 15 => .ok (.mulh (f1 w 26) (f1 w 25) (f6 w 19) (f6 w 13) (f6 w 7))
  | 16 => .ok (.mulhn (f1 w 26) (f1 w 25) (f6 w 19) (f6 w 13) (f6 w 7))
  | 17 => .ok (.div (f1 w 26) (f1 w 25) (f6 w 19) (f6 w 13) (f6 w 7))
  | 18 => .ok (.divn (f1 w 26) (f1 w 25) (f6 w 19) (f6 w 13) (f6 w 7))
  | 19 => .ok (.rem (f1 w 26) (f1 w 25) (f6 w 19) (f6 w 13) (f6 w 7))
  | 20 => .ok (.remn (f1 w 26) (f1 w 25) (f6 w 19) (f6 w 13) (f6 w 7))
  | 21 => need (fz w 19 6 && fz w 26 1) .notZero (.ok (.clz (f1 w 25) (f6 w 13) (f6 w 7)))
  | 22 => need (fz w 19 6 && fz w 26 1) .notZero (.ok (.popc (f1 w 25) (f6 w 13) (f6 w 7)))
  | 23 => .ok (.sext (f1 w 26) (f1 w 25) (f6 w 19) (f6 w 13) (f6 w 7))
  | 24 => .ok (.addw (f1 w 26) (f1 w 25) (f6 w 19) (f6 w 13) (f6 w 7))
  | 25 => .ok (.subw (f1 w 26) (f1 w 25) (f6 w 19) (f6 w 13) (f6 w 7))
  | _ => .error .reservedFunction

/-- MAJ 0x06 (R63). -/
def decShi (w : Nat) : Decoded :=
  need (fz w 28 4) .notZero <|
  match w / 2 ^ 26 % 4 with
  | 0 => .ok (.shli (f6 w 20) (f1 w 19) (f6 w 13) (f6 w 7))
  | 1 => .ok (.shri (f6 w 20) (f1 w 19) (f6 w 13) (f6 w 7))
  | 2 => .ok (.shai (f6 w 20) (f1 w 19) (f6 w 13) (f6 w 7))
  | _ => .ok (.roti (f6 w 20) (f1 w 19) (f6 w 13) (f6 w 7))

/-- MAJ 0x09 (R64). -/
def decCmp (w : Nat) : Decoded :=
  withCode (Cond.ofCode (w / 2 ^ 10 % 8)) fun c =>
  match w / 2 ^ 27 % 32 with
  | 0 => .ok (.cmp (f1 w 26) (f1 w 25) (f6 w 19) (f6 w 13) c (f3 w 7))
  | 1 => .ok (.cmpW (f1 w 26) (f1 w 25) (f6 w 19) (f6 w 13) c (f3 w 7))
  | _ => .error .reservedFunction

/-- MAJ 0x0C (R65). -/
def decPlog (w : Nat) : Decoded :=
  match w / 2 ^ 27 % 32 with
  | 0 => need (fz w 10 3 && fz w 16 3 && fz w 22 5) .notZero (.ok (.pand (f3 w 19) (f3 w 13) (f3 w 7)))
  | 1 => need (fz w 10 3 && fz w 16 3 && fz w 22 5) .notZero (.ok (.por (f3 w 19) (f3 w 13) (f3 w 7)))
  | 2 => need (fz w 10 3 && fz w 16 3 && fz w 22 5) .notZero (.ok (.pxor (f3 w 19) (f3 w 13) (f3 w 7)))
  | 3 => need (fz w 10 3 && fz w 16 3 && fz w 22 5) .notZero (.ok (.pandn (f3 w 19) (f3 w 13) (f3 w 7)))
  | 4 => need (fz w 10 3 && fz w 19 6 && fz w 26 1) .notZero (.ok (.pfromg (f1 w 25) (f6 w 13) (f3 w 7)))
  | 5 => need (fz w 16 3 && fz w 19 6 && fz w 25 2) .notZero (.ok (.ptog (f3 w 13) (f6 w 7)))
  | _ => .error .reservedFunction

/-- MAJ 0x0D (R65). -/
def decXreg (w : Nat) : Decoded :=
  match w / 2 ^ 27 % 32 with
  | 0 => need (fz w 10 3 && fz w 19 6 && fz w 26 1) .notZero (.ok (.xset (f1 w 25) (f6 w 13) (f3 w 7)))
  | 1 => need (fz w 16 3 && fz w 19 6 && fz w 25 2) .notZero (.ok (.xget (f3 w 13) (f6 w 7)))
  | 2 => need (fz w 7 6 && fz w 19 6 && fz w 26 1) .notZero (.ok (.xld (f1 w 25) (f6 w 13)))
  | _ => .error .reservedFunction

/-- MAJ 0x14 (R66). -/
def decThr (w : Nat) : Decoded :=
  match w / 2 ^ 27 % 32 with
  | 0 => need (fz w 7 20) .notZero (.ok .yield)
  | 1 => need (fz w 7 6 && fz w 19 8) .notZero (.ok (.waitg (f6 w 13)))
  | 2 => need (fz w 7 6 && fz w 19 8) .notZero (.ok (.waitv (f6 w 13)))
  | 3 => need (fz w 7 20) .notZero (.ok .texit)
  | 4 => .ok (.tspawn (f1 w 26) (f1 w 25) (f6 w 19) (f6 w 13) (f6 w 7))
  | 5 => need (fz w 13 14) .notZero (.ok (.tnext (f6 w 7)))
  | 6 => need (fz w 7 12 && fz w 21 6) .notZero (withCode (Part.ofCode (w / 2 ^ 19 % 4)) fun p => .ok (.repart p))
  | 7 => need (fz w 7 6 && fz w 16 11) .notZero (.ok (.waitk (f3 w 13)))
  | 8 => need (fz w 10 3 && fz w 19 6 && fz w 26 1) .notZero (.ok (.kput (f1 w 25) (f6 w 13) (f3 w 7)))
  | 9 => need (fz w 16 3 && fz w 19 6 && fz w 26 1) .notZero (.ok (.kget (f1 w 25) (f3 w 13) (f6 w 7)))
  | _ => .error .reservedFunction

/-- MAJ 0x15 (R66). -/
def decStrm (w : Nat) : Decoded :=
  match w / 2 ^ 27 % 32 with
  | 0 => need (fz w 7 6 && fz w 19 6 && fz w 26 1) .notZero (.ok (.strmLead (f1 w 25) (f6 w 13)))
  | 1 => need (fz w 7 20) .notZero (.ok .strmJoin)
  | 2 => need (fz w 7 20) .notZero (.ok .strmEnd)
  | 3 => need (fz w 13 14) .notZero (.ok (.strmPos (f6 w 7)))
  | _ => .error .reservedFunction

/-- MAJ 0x16 (R67): neighbour, mesh and arm forms. -/
def decRput (w : Nat) : Decoded :=
  need (fz w 31 1) .notZero <|
  if f1 w 29 = false then
    need (fz w 13 6 && fz w 25 1) .notZero <|
    withCode (Dir.ofCode (w / 2 ^ 27 % 4)) fun r => .ok (.rput (f1 w 30) r (f1 w 26) (f6 w 19) (f6 w 7))
  else if fz w 13 6 then
    need (fz w 19 8 && fz w 27 2) .notZero (.ok (.rputArm (f1 w 30) (f6 w 7)))
  else
    need (fz w 27 2) .notZero (.ok (.rputM (f1 w 30) (f1 w 26) (f1 w 25) (f6 w 19) (f6 w 13) (f6 w 7)))

/-- MAJ 0x18, 0x19, 0x1A (R44, R46). -/
def decLd (w : Nat) : Decoded :=
  withCode (Size.ofCode (w / 2 ^ 24 % 4)) fun z => withCode (Order.ofCode (w / 2 ^ 22 % 4)) fun e =>
  .ok (.ld (BitVec.ofNat 6 (w / 2 ^ 26)) z e (f2 w 20) (f1 w 19) (f6 w 13) (f6 w 7))
/-- MAJ 0x19. -/
def decLdn (w : Nat) : Decoded :=
  withCode (Size.ofCode (w / 2 ^ 24 % 4)) fun z => withCode (Order.ofCode (w / 2 ^ 22 % 4)) fun e =>
  .ok (.ldn (BitVec.ofNat 6 (w / 2 ^ 26)) z e (f2 w 20) (f1 w 19) (f6 w 13) (f6 w 7))
/-- MAJ 0x1A. -/
def decSt (w : Nat) : Decoded :=
  withCode (Size.ofCode (w / 2 ^ 24 % 4)) fun z => withCode (Order.ofCode (w / 2 ^ 22 % 4)) fun e =>
  .ok (.st (BitVec.ofNat 6 (w / 2 ^ 26)) z e (f2 w 20) (f1 w 19) (f6 w 13) (f6 w 7))
/-- MAJ 0x1B: SZ must be 0 (R46). -/
def decVld (w : Nat) : Decoded :=
  need (fz w 24 2) .notZero <| withCode (Order.ofCode (w / 2 ^ 22 % 4)) fun e =>
  .ok (.vld (BitVec.ofNat 6 (w / 2 ^ 26)) e (f2 w 20) (f1 w 19) (f6 w 13) (f6 w 7))
/-- MAJ 0x1C: SZ must be 0 (R46). -/
def decVst (w : Nat) : Decoded :=
  need (fz w 24 2) .notZero <| withCode (Order.ofCode (w / 2 ^ 22 % 4)) fun e =>
  .ok (.vst (BitVec.ofNat 6 (w / 2 ^ 26)) e (f2 w 20) (f1 w 19) (f6 w 13) (f6 w 7))

/-- MAJ 0x1D (R68). -/
def decVgx (w : Nat) : Decoded :=
  need (fz w 31 1) .notZero <|
  match w / 2 ^ 27 % 4 with
  | 0 => .ok (.vlds (f2 w 29) (f1 w 26) (f1 w 25) (f6 w 19) (f6 w 13) (f6 w 7))
  | 1 => .ok (.vsts (f2 w 29) (f1 w 26) (f1 w 25) (f6 w 19) (f6 w 13) (f6 w 7))
  | 2 => need (fz w 26 1) .notZero (.ok (.vgath (f2 w 29) (f1 w 25) (f6 w 19) (f6 w 13) (f6 w 7)))
  | _ => need (fz w 26 1) .notZero (.ok (.vscat (f2 w 29) (f1 w 25) (f6 w 19) (f6 w 13) (f6 w 7)))

/-- MAJ 0x1E (R69). -/
def decAtoma (w : Nat) : Decoded :=
  withCode (Order.ofCode (w / 2 ^ 28 % 4)) fun e => withCode (Scope.ofCode (w / 2 ^ 26 % 4)) fun s =>
  match w / 2 ^ 30 % 4 with
  | 0 => .ok (.aadd e s (f1 w 25) (f6 w 19) (f6 w 13) (f6 w 7))
  | 1 => .ok (.aand e s (f1 w 25) (f6 w 19) (f6 w 13) (f6 w 7))
  | 2 => .ok (.aor e s (f1 w 25) (f6 w 19) (f6 w 13) (f6 w 7))
  | _ => .ok (.axor e s (f1 w 25) (f6 w 19) (f6 w 13) (f6 w 7))

/-- MAJ 0x1F (R69). -/
def decAtomb (w : Nat) : Decoded :=
  withCode (Order.ofCode (w / 2 ^ 28 % 4)) fun e => withCode (Scope.ofCode (w / 2 ^ 26 % 4)) fun s =>
  match w / 2 ^ 30 % 4 with
  | 0 => .ok (.amin e s (f1 w 25) (f6 w 19) (f6 w 13) (f6 w 7))
  | 1 => .ok (.amax e s (f1 w 25) (f6 w 19) (f6 w 13) (f6 w 7))
  | 2 => .ok (.aswap e s (f1 w 25) (f6 w 19) (f6 w 13) (f6 w 7))
  | _ => .ok (.acas e s (f1 w 25) (f6 w 19) (f6 w 13) (f6 w 7))

/-- MAJ 0x20 (R70). -/
def decMsys (w : Nat) : Decoded :=
  match w / 2 ^ 27 % 32 with
  | 0 => need (fz w 11 16) .notZero <| withCode (Scope.ofCode (w / 2 ^ 9 % 4)) fun s =>
         withCode (FenceKind.ofCode (w / 2 ^ 7 % 4)) fun k => .ok (.fence s k)
  | 1 => need (fz w 10 17) .notZero (.ok (.waitc (f3 w 7)))
  | 2 => need (fz w 7 6 && fz w 19 6 && fz w 26 1) .notZero (.ok (.cflush (f1 w 25) (f6 w 13)))
  | 3 => need (fz w 7 6 && fz w 19 6 && fz w 26 1) .notZero (.ok (.cinv (f1 w 25) (f6 w 13)))
  | 4 => need (fz w 8 5 && fz w 19 6 && fz w 26 1) .notZero (.ok (.pref (f1 w 25) (f6 w 13) (f1 w 7)))
  | 5 => need (fz w 7 6 && fz w 19 6 && fz w 26 1) .notZero (.ok (.spcfg (f1 w 25) (f6 w 13)))
  | 6 => need (fz w 7 6 && fz w 19 6 && fz w 26 1) .notZero (.ok (.czero (f1 w 25) (f6 w 13)))
  | _ => .error .reservedFunction

/-- MAJ 0x21: MODE 2 and 3 are reserved (R48, R71). -/
def decPst (w : Nat) : Decoded :=
  need (fz w 31 1) .notZero <|
  withCode (Order.ofCode (w / 2 ^ 28 % 4)) fun e => withCode (Scope.ofCode (w / 2 ^ 26 % 4)) fun s =>
  .ok (.pst (f1 w 30) e s (f1 w 25) (f6 w 19) (f6 w 13) (f6 w 7))

/-- MAJ 0x22 to 0x2F (R72). -/
def decTyped (maj w : Nat) : Decoded :=
  withCode (Lim.ofCode (w / 2 ^ 26 % 64)) fun l =>
  match maj with
  | 0x22 => need (fz w 19 6) .notZero (.ok (.ldsy l (f1 w 25) (f6 w 13) (f6 w 7)))
  | 0x23 => need (fz w 7 6) .notZero (.ok (.stsy l (f1 w 25) (f6 w 19) (f6 w 13)))
  | 0x24 => need (fz w 7 6 && fz w 26 6) .notZero (.ok (.cntAdd (f1 w 25) (f6 w 19) (f6 w 13)))
  | 0x25 => need (fz w 26 6) .notZero (.ok (.cntFadd (f1 w 25) (f6 w 19) (f6 w 13) (f6 w 7)))
  | 0x26 => .ok (.cntWait l (f1 w 25) (f6 w 19) (f6 w 13) (f6 w 7))
  | 0x27 => need (fz w 19 6 && fz w 26 6) .notZero (.ok (.barArr (f1 w 25) (f6 w 13) (f6 w 7)))
  | 0x28 => .ok (.barWait l (f1 w 25) (f6 w 19) (f6 w 13) (f6 w 7))
  | 0x29 => need (fz w 19 6) .notZero (.ok (.barArw l (f1 w 25) (f6 w 13) (f6 w 7)))
  | 0x2A => need (fz w 7 6 && fz w 19 6) .notZero (.ok (.lckAcq l (f1 w 25) (f6 w 13)))
  | 0x2B => need (fz w 7 6 && fz w 19 6 && fz w 26 6) .notZero (.ok (.lckRel (f1 w 25) (f6 w 13)))
  | 0x2C => need (fz w 7 6) .notZero (.ok (.qPut l (f1 w 25) (f6 w 19) (f6 w 13)))
  | 0x2D => need (fz w 19 6) .notZero (.ok (.qGet l (f1 w 25) (f6 w 13) (f6 w 7)))
  | 0x2E => need (fz w 7 6) .notZero (.ok (.cndWait l (f1 w 25) (f6 w 19) (f6 w 13)))
  | _ => need (fz w 8 5 && fz w 19 6 && fz w 26 6) .notZero (.ok (.cndSig (f1 w 25) (f6 w 13) (f1 w 7)))

/-- MAJ 0x30 (R73). -/
def decTobj (w : Nat) : Decoded :=
  match w / 2 ^ 27 % 32 with
  | 0 => need (fz w 10 3) .notZero <| withCode (ObjType.ofCode (w / 2 ^ 7 % 8)) fun k =>
         .ok (.tinit (f1 w 26) (f1 w 25) (f6 w 19) (f6 w 13) k)
  | 1 => need (fz w 11 2) .notZero (.ok (.traw (f1 w 26) (f1 w 25) (f6 w 19) (f6 w 13) (f4 w 7)))
  | 2 => need (fz w 7 6 && fz w 19 6 && fz w 26 1) .notZero (.ok (.tclr (f1 w 25) (f6 w 13)))
  | _ => .error .reservedFunction

/-- MAJ 0x31 (R72). -/
def decNbar (w : Nat) : Decoded :=
  withCode (Lim.ofCode (w / 2 ^ 26 % 64)) fun l =>
  need (fz w 19 6) .notZero (.ok (.nbar l (f1 w 25) (f6 w 13) (f6 w 7)))

/-- MAJ 0x32 (R74, R251): A, B and T zero. -/
def decCpy (w : Nat) : Decoded :=
  need (fz w 13 13 && fz w 31 1) .notZero <| withCode (Scope.ofCode (w / 2 ^ 28 % 4)) fun s =>
  .ok (.cpy (f1 w 30) s (f1 w 27) (f1 w 26) (f6 w 7))
/-- MAJ 0x33. -/
def decCpym (w : Nat) : Decoded :=
  need (fz w 13 13 && fz w 31 1) .notZero <| withCode (Scope.ofCode (w / 2 ^ 28 % 4)) fun s =>
  .ok (.cpym (f1 w 30) s (f1 w 27) (f1 w 26) (f6 w 7))
/-- MAJ 0x34: D holds the weight format code, B zero (R74). -/
def decMwl (w : Nat) : Decoded :=
  need (fz w 11 2 && fz w 19 6 && fz w 31 1) .notZero <|
  withCode (Scope.ofCode (w / 2 ^ 28 % 4)) fun s => withCode (TyCode.ofCode (w / 2 ^ 7 % 16)) fun f =>
  .ok (.mwl (f1 w 30) s (f1 w 27) (f1 w 26) (f1 w 25) (f6 w 13) f)
/-- MAJ 0x35: D[1:0] tile, D[5:2] activation format (R74). -/
def decMma (w : Nat) : Decoded :=
  need (fz w 31 1) .notZero <|
  withCode (Scope.ofCode (w / 2 ^ 28 % 4)) fun s => withCode (TyCode.ofCode (w / 2 ^ 9 % 16)) fun f =>
  .ok (.mma (f1 w 30) s (f1 w 27) (f1 w 26) (f1 w 25) (f6 w 19) (f6 w 13) f (f2 w 7))

/-- MAJ 0x36 (R75). -/
def decAcc (w : Nat) : Decoded :=
  match w / 2 ^ 27 % 32 with
  | 0 => need (fz w 10 3 && fz w 19 6 && fz w 26 1) .notZero (.ok (.acccfg (f1 w 25) (f6 w 13) (f1 w 9) (f2 w 7)))
  | 1 => need (fz w 9 18) .notZero (.ok (.acczero (f2 w 7)))
  | 2 => withCode (TyCode.ofCode (w / 2 ^ 9 % 16)) fun f =>
         .ok (.accrd (f1 w 26) (f1 w 25) (f6 w 19) (f6 w 13) f (f2 w 7))
  | 3 => need (fz w 9 10 && fz w 21 6) .notZero (.ok (.accadd (f2 w 19) (f2 w 7)))
  | 4 => need (fz w 9 4 && fz w 19 6 && fz w 26 1) .notZero (.ok (.accsave (f1 w 25) (f6 w 13) (f2 w 7)))
  | 5 => need (fz w 9 4 && fz w 19 6 && fz w 26 1) .notZero (.ok (.accload (f1 w 25) (f6 w 13) (f2 w 7)))
  | 6 => need (fz w 19 6 && fz w 26 1) .notZero (.ok (.mstat (f1 w 25) (f6 w 13) (f6 w 7)))
  | _ => .error .reservedFunction

/-- The floating vector majors (R76). -/
def decVf (k : FType) (w : Nat) : Decoded :=
  match w / 2 ^ 28 % 16 with
  | 0 => .ok (.vaddFp (f3 w 25) (f6 w 19) (f6 w 13) (f6 w 7) k)
  | 1 => .ok (.vsubFp (f3 w 25) (f6 w 19) (f6 w 13) (f6 w 7) k)
  | 2 => .ok (.vmulFp (f3 w 25) (f6 w 19) (f6 w 13) (f6 w 7) k)
  | 3 => .ok (.vfmaFp (f3 w 25) (f6 w 19) (f6 w 13) (f6 w 7) k)
  | 4 => .ok (.vminFp (f3 w 25) (f6 w 19) (f6 w 13) (f6 w 7) k)
  | 5 => .ok (.vmaxFp (f3 w 25) (f6 w 19) (f6 w 13) (f6 w 7) k)
  | 6 => withCode (VFn.ofCode (w / 2 ^ 19 % 64)) fun f => .ok (.vun (f3 w 25) f (f6 w 13) (f6 w 7) k)
  | 7 => withCode (FCond.ofCode (w / 2 ^ 10 % 8)) fun c =>
         .ok (.vcmpFp (f3 w 25) (f6 w 19) (f6 w 13) c (f3 w 7) k)
  | 8 => .ok (.vselFp (f3 w 25) (f6 w 19) (f6 w 13) (f6 w 7) k)
  | 9 => need (fz w 19 6) .notZero (.ok (.vred (f3 w 25) (f6 w 13) (f6 w 7) k))
  | 10 => withCode (Rounding.ofCode (w / 2 ^ 23 % 4)) fun r => withCode (TyCode.ofCode (w / 2 ^ 19 % 16)) fun c =>
          .ok (.vcvt (f3 w 25) r c (f6 w 13) (f6 w 7) k)
  | 11 => .ok (.vfnmaFp (f3 w 25) (f6 w 19) (f6 w 13) (f6 w 7) k)
  | _ => .error .reservedFunction

/-- The integer vector majors (R77). -/
def decVi (k : IType) (w : Nat) : Decoded :=
  match w / 2 ^ 28 % 16 with
  | 0 => .ok (.vaddInt (f3 w 25) (f6 w 19) (f6 w 13) (f6 w 7) k)
  | 1 => .ok (.vsubInt (f3 w 25) (f6 w 19) (f6 w 13) (f6 w 7) k)
  | 2 => .ok (.vmulInt (f3 w 25) (f6 w 19) (f6 w 13) (f6 w 7) k)
  | 3 => .ok (.vmac (f3 w 25) (f6 w 19) (f6 w 13) (f6 w 7) k)
  | 4 => .ok (.vminInt (f3 w 25) (f6 w 19) (f6 w 13) (f6 w 7) k)
  | 5 => .ok (.vmaxInt (f3 w 25) (f6 w 19) (f6 w 13) (f6 w 7) k)
  | 6 => .ok (.vminn (f3 w 25) (f6 w 19) (f6 w 13) (f6 w 7) k)
  | 7 => .ok (.vmaxn (f3 w 25) (f6 w 19) (f6 w 13) (f6 w 7) k)
  | 8 => .ok (.vand (f3 w 25) (f6 w 19) (f6 w 13) (f6 w 7) k)
  | 9 => .ok (.vor (f3 w 25) (f6 w 19) (f6 w 13) (f6 w 7) k)
  | 10 => .ok (.vxor (f3 w 25) (f6 w 19) (f6 w 13) (f6 w 7) k)
  | 11 => .ok (.vshl (f3 w 25) (f6 w 19) (f6 w 13) (f6 w 7) k)
  | 12 => .ok (.vshr (f3 w 25) (f6 w 19) (f6 w 13) (f6 w 7) k)
  | 13 => .ok (.vsha (f3 w 25) (f6 w 19) (f6 w 13) (f6 w 7) k)
  | 14 => withCode (Cond.ofCode (w / 2 ^ 10 % 8)) fun c =>
          .ok (.vcmpInt (f3 w 25) (f6 w 19) (f6 w 13) c (f3 w 7) k)
  | _ => .ok (.vselInt (f3 w 25) (f6 w 19) (f6 w 13) (f6 w 7) k)

/-- MAJ 0x3E (R78). -/
def decVmov (w : Nat) : Decoded :=
  withCode (Size.ofCode (w / 2 ^ 27 % 4)) fun s =>
  match w / 2 ^ 29 % 8 with
  | 0 => need (fz w 19 6 && fz w 26 1) .notZero (.ok (.vbc s (f1 w 25) (f6 w 13) (f6 w 7)))
  | 1 => need (fz w 25 1) .notZero (.ok (.vget s (f1 w 26) (f6 w 19) (f6 w 13) (f6 w 7)))
  | 2 => .ok (.vset s (f1 w 26) (f1 w 25) (f6 w 19) (f6 w 13) (f6 w 7))
  | 3 => need (fz w 25 2) .notZero (.ok (.vperm s (f6 w 19) (f6 w 13) (f6 w 7)))
  | 4 => need (fz w 19 10) .notZero (.ok (.vcopy (f6 w 13) (f6 w 7)))
  | _ => .error .reservedFunction

/-- MAJ 0x3F (R79, R82). An SWR of one of four registers has a row of its own in the opcode table. -/
def decSys (w : Nat) : Decoded :=
  match w / 2 ^ 27 % 32 with
  | 0 => need (fz w 25 2) .notZero (.ok (.srd (f6 w 19) (f6 w 13) (f6 w 7)))
  | 1 => need (fz w 25 2) .notZero <|
         match w / 2 ^ 13 % 4096 with
         | 0x016 => .ok (.swrIntpend (f6 w 7))
         | 0x050 => .ok (.swrMerrlog (f6 w 7))
         | 0x030 => .ok (.swrPshq (f6 w 7))
         | 0x031 => .ok (.swrPshcnt (f6 w 7))
         | _ => .ok (.swr (f6 w 19) (f6 w 13) (f6 w 7))
  | 2 => need (fz w 7 20) .notZero (.ok .ecall)
  | 3 => need (fz w 7 20) .notZero (.ok .eret)
  | 4 => need (fz w 7 6 && fz w 25 2) .notZero (.ok (.trapi (f6 w 19) (f6 w 13)))
  | 5 => need (fz w 9 4) .notZero <| withCode (TlbKind.ofCode (w / 2 ^ 7 % 4)) fun k =>
         .ok (.tlbinv (f1 w 26) (f1 w 25) (f6 w 19) (f6 w 13) k)
  | 6 => need (fz w 7 6) .notZero (.ok (.grpset (f1 w 26) (f1 w 25) (f6 w 19) (f6 w 13)))
  | 7 => need (fz w 7 6 && fz w 25 2) .notZero (.ok (.brk (f6 w 19) (f6 w 13)))
  | 8 => need (fz w 7 20) .notZero (.ok .wfi)
  | 9 => need (fz w 19 6 && fz w 26 1) .notZero (.ok (.speedrd (f1 w 25) (f6 w 13) (f6 w 7)))
  | _ => .error .reservedFunction

/-- The major map (R61). -/
def decMajor (w : Nat) : Decoded :=
  match w / 2 % 64 with
  | 0x01 => decIalu w
  | 0x02 => .ok (.addi (BitVec.ofNat 12 (w / 2 ^ 20)) (f1 w 19) (f6 w 13) (f6 w 7))
  | 0x03 => .ok (.andi (BitVec.ofNat 12 (w / 2 ^ 20)) (f1 w 19) (f6 w 13) (f6 w 7))
  | 0x04 => .ok (.ori (BitVec.ofNat 12 (w / 2 ^ 20)) (f1 w 19) (f6 w 13) (f6 w 7))
  | 0x05 => .ok (.xori (BitVec.ofNat 12 (w / 2 ^ 20)) (f1 w 19) (f6 w 13) (f6 w 7))
  | 0x06 => decShi w
  | 0x07 => .ok (.lui (BitVec.ofNat 19 (w / 2 ^ 13)) (f6 w 7))
  | 0x08 => .ok (.addpc (BitVec.ofNat 19 (w / 2 ^ 13)) (f6 w 7))
  | 0x09 => decCmp w
  | 0x0A => withCode (Cond.ofCode (w / 2 ^ 10 % 8)) fun c =>
            .ok (.cmpi (BitVec.ofNat 12 (w / 2 ^ 20)) (f1 w 19) (f6 w 13) c (f3 w 7))
  | 0x0B => need (fz w 31 1) .notZero
            (.ok (.sel (f1 w 30) (f3 w 27) (f1 w 26) (f1 w 25) (f6 w 19) (f6 w 13) (f6 w 7)))
  | 0x0C => decPlog w
  | 0x0D => decXreg w
  | 0x0E => .ok (.madr (BitVec.ofNat 6 (w / 2 ^ 26)) (BitVec.ofNat 6 (w / 2 ^ 20)) (f1 w 19) (f6 w 13) (f6 w 7))
  | 0x10 => .ok (.br (BitVec.ofNat 25 (w / 2 ^ 7)))
  | 0x11 => .ok (.jal (BitVec.ofNat 25 (w / 2 ^ 7)))
  | 0x12 => need (fz w 11 2) .notZero (.ok (.brp (BitVec.ofNat 19 (w / 2 ^ 13)) (f1 w 10) (f3 w 7)))
  | 0x13 => .ok (.jalr (BitVec.ofNat 12 (w / 2 ^ 20)) (f1 w 19) (f6 w 13) (f6 w 7))
  | 0x14 => decThr w
  | 0x15 => decStrm w
  | 0x16 => decRput w
  | 0x18 => decLd w
  | 0x19 => decLdn w
  | 0x1A => decSt w
  | 0x1B => decVld w
  | 0x1C => decVst w
  | 0x1D => decVgx w
  | 0x1E => decAtoma w
  | 0x1F => decAtomb w
  | 0x20 => decMsys w
  | 0x21 => decPst w
  | 0x30 => decTobj w
  | 0x31 => decNbar w
  | 0x32 => decCpy w
  | 0x33 => decCpym w
  | 0x34 => decMwl w
  | 0x35 => decMma w
  | 0x36 => decAcc w
  | 0x38 => decVf .f32 w
  | 0x39 => decVf .bf16 w
  | 0x3A => decVf .f16 w
  | 0x3B => decVi .i8 w
  | 0x3C => decVi .i16 w
  | 0x3D => decVi .i32 w
  | 0x3E => decVmov w
  | 0x3F => decSys w
  | 0x00 | 0x0F | 0x17 | 0x37 => .error .noMajor
  | m => decTyped m w

/-- The 16-bit forms (R84). -/
def decHalf (w : Nat) : Decoded :=
  match w / 2 % 16 with
  | 0 => need (fz w 15 1) .badCompact (.ok (.cMov (f5 w 10) (f5 w 5)))
  | 1 => need (fz w 15 1) .badCompact (.ok (.cAdd (f5 w 10) (f5 w 5)))
  | 2 => need (fz w 15 1) .badCompact (.ok (.cSub (f5 w 10) (f5 w 5)))
  | 3 => need (fz w 15 1) .badCompact (.ok (.cAnd (f5 w 10) (f5 w 5)))
  | 4 => need (fz w 15 1) .badCompact (.ok (.cOr (f5 w 10) (f5 w 5)))
  | 5 => need (fz w 15 1) .badCompact (.ok (.cXor (f5 w 10) (f5 w 5)))
  | 6 => .ok (.cAddi (BitVec.ofNat 6 (w / 2 ^ 10)) (f5 w 5))
  | 7 => .ok (.cLi (BitVec.ofNat 6 (w / 2 ^ 10)) (f5 w 5))
  | 8 => .ok (.cShli (f6 w 10) (f5 w 5))
  | 9 => .ok (.cShri (f6 w 10) (f5 w 5))
  | 10 => .ok (.cLd (f3 w 13) (f3 w 10) (f5 w 5))
  | 11 => .ok (.cSt (f3 w 13) (f3 w 10) (f5 w 5))
  | 12 => .ok (.cBr (BitVec.ofNat 11 (w / 2 ^ 5)))
  | 13 => .ok (.cBrp (BitVec.ofNat 8 (w / 2 ^ 8)) (f3 w 5))
  | 14 => need (fz w 10 6) .badCompact <|
          match w / 2 ^ 5 % 32 with
          | 0 => .ok .cMiscNop
          | 1 => .ok .cMiscYield
          | 2 => .ok .cMiscTexit
          | _ => .error .badCompact
  | _ => need (fz w 5 11) .badCompact (.ok .cRet)

/-- A decoded instruction that breaks a restriction of its own description is ILLEGAL (R86). -/
def checkWf : Decoded → Decoded
  | .ok i => if i.wf then .ok i else .error .notAllowed
  | .error e => .error e

/-- Decode a word whose length its bit 0 gives (R39): bit 0 clear names a 16-bit form. -/
def decodeWord (w : Nat) : Decoded :=
  if w % 2 = 0 then checkWf (decHalf (w % 65536)) else checkWf (decMajor (w % 4294967296))

/-- The bytes of a word, lowest address first. -/
def bytesOf : Nat → Nat → List Byte
  | 0, _ => []
  | n + 1, w => BitVec.ofNat 8 w :: bytesOf n (w / 256)

/-- The number that bytes hold, lowest address first (R4). -/
def ofBytes : List Byte → Nat
  | [] => 0
  | b :: bs => b.toNat + 256 * ofBytes bs

/-- Decode the first instruction of a byte string: the instruction and its length in bytes (R39). -/
def decode : List Byte → Except BadWord (Instr × Nat)
  | [b0, b1] =>
    if b0.toNat % 2 = 0 then (decodeWord (ofBytes [b0, b1])).map fun i => (i, 2) else .error .tooShort
  | [b0, b1, _] =>
    if b0.toNat % 2 = 0 then (decodeWord (ofBytes [b0, b1])).map fun i => (i, 2) else .error .tooShort
  | b0 :: b1 :: b2 :: b3 :: _ =>
    if b0.toNat % 2 = 0 then (decodeWord (ofBytes [b0, b1])).map fun i => (i, 2)
    else (decodeWord (ofBytes [b0, b1, b2, b3])).map fun i => (i, 4)
  | _ => .error .tooShort

/-- The instruction the decoder reads from a word of the opcode table: the word's bytes in their order, zeros above. -/
def decodeTableWord (nbits w : Nat) : Option Instr :=
  match decode (bytesOf 4 (w % 2 ^ nbits)) with
  | .ok (i, _) => some i
  | .error _ => none

/-! ### The encoder -/

/-- The word of an encoded instruction with its length in bytes; an event has none. -/
def encode : Instr → Option (Nat × Nat)
  | .add y x b a d => some (4, rr 0x01 0 y x b a d)
  | .sub y x b a d => some (4, rr 0x01 1 y x b a d)
  | .and y x b a d => some (4, rr 0x01 2 y x b a d)
  | .or y x b a d => some (4, rr 0x01 3 y x b a d)
  | .xor y x b a d => some (4, rr 0x01 4 y x b a d)
  | .andn y x b a d => some (4, rr 0x01 5 y x b a d)
  | .shl y x b a d => some (4, rr 0x01 6 y x b a d)
  | .shr y x b a d => some (4, rr 0x01 7 y x b a d)
  | .sha y x b a d => some (4, rr 0x01 8 y x b a d)
  | .rot y x b a d => some (4, rr 0x01 9 y x b a d)
  | .min y x b a d => some (4, rr 0x01 10 y x b a d)
  | .max y x b a d => some (4, rr 0x01 11 y x b a d)
  | .minn y x b a d => some (4, rr 0x01 12 y x b a d)
  | .maxn y x b a d => some (4, rr 0x01 13 y x b a d)
  | .mul y x b a d => some (4, rr 0x01 14 y x b a d)
  | .mulh y x b a d => some (4, rr 0x01 15 y x b a d)
  | .mulhn y x b a d => some (4, rr 0x01 16 y x b a d)
  | .div y x b a d => some (4, rr 0x01 17 y x b a d)
  | .divn y x b a d => some (4, rr 0x01 18 y x b a d)
  | .rem y x b a d => some (4, rr 0x01 19 y x b a d)
  | .remn y x b a d => some (4, rr 0x01 20 y x b a d)
  | .clz x a d => some (4, rr 0x01 21 false x 0 a d)
  | .popc x a d => some (4, rr 0x01 22 false x 0 a d)
  | .sext y x b a d => some (4, rr 0x01 23 y x b a d)
  | .addw y x b a d => some (4, rr 0x01 24 y x b a d)
  | .subw y x b a d => some (4, rr 0x01 25 y x b a d)
  | .addi i x a d => some (4, ri 0x02 i.toNat x a d)
  | .andi i x a d => some (4, ri 0x03 i.toNat x a d)
  | .ori i x a d => some (4, ri 0x04 i.toNat x a d)
  | .xori i x a d => some (4, ri 0x05 i.toNat x a d)
  | .shli n x a d => some (4, ri 0x06 (n + 0 * 2 ^ 6) x a d)
  | .shri n x a d => some (4, ri 0x06 (n + 1 * 2 ^ 6) x a d)
  | .shai n x a d => some (4, ri 0x06 (n + 2 * 2 ^ 6) x a d)
  | .roti n x a d => some (4, ri 0x06 (n + 3 * 2 ^ 6) x a d)
  | .lui i d => some (4, uu 0x07 i.toNat d)
  | .addpc i d => some (4, uu 0x08 i.toNat d)
  | .cmp y x b a c p => some (4, rr 0x09 0 y x b a (p + c.code * 2 ^ 3))
  | .cmpW y x b a c p => some (4, rr 0x09 1 y x b a (p + c.code * 2 ^ 3))
  | .cmpi i x a c p => some (4, ri 0x0A i.toNat x a (p + c.code * 2 ^ 3))
  | .sel n p y x b a d => some (4, rr 0x0B (p + bn n * 2 ^ 3) y x b a d)
  | .pand b a d => some (4, rr 0x0C 0 false false b a d)
  | .por b a d => some (4, rr 0x0C 1 false false b a d)
  | .pxor b a d => some (4, rr 0x0C 2 false false b a d)
  | .pandn b a d => some (4, rr 0x0C 3 false false b a d)
  | .pfromg x a d => some (4, rr 0x0C 4 false x 0 a d)
  | .ptog a d => some (4, rr 0x0C 5 false false 0 a d)
  | .xset x a d => some (4, rr 0x0D 0 false x 0 a d)
  | .xget a d => some (4, rr 0x0D 1 false false 0 a d)
  | .xld x a => some (4, rr 0x0D 2 false x 0 a 0)
  | .madr h v x a d => some (4, ri 0x0E (v.toNat + h.toNat * 2 ^ 6) x a d)
  | .br i => some (4, jj 0x10 i.toNat)
  | .jal i => some (4, jj 0x11 i.toNat)
  | .brp i s p => some (4, bp 0x12 i.toNat s p)
  | .jalr i x a d => some (4, ri 0x13 i.toNat x a d)
  | .yield => some (4, rr 0x14 0 false false 0 0 0)
  | .waitg a => some (4, rr 0x14 1 false false 0 a 0)
  | .waitv a => some (4, rr 0x14 2 false false 0 a 0)
  | .texit => some (4, rr 0x14 3 false false 0 0 0)
  | .tspawn y x b a d => some (4, rr 0x14 4 y x b a d)
  | .tnext d => some (4, rr 0x14 5 false false 0 0 d)
  | .repart p => some (4, rr 0x14 6 false false p.code 0 0)
  | .waitk a => some (4, rr 0x14 7 false false 0 a 0)
  | .kput x a d => some (4, rr 0x14 8 false x 0 a d)
  | .kget x a d => some (4, rr 0x14 9 false x 0 a d)
  | .strmLead x a => some (4, rr 0x15 0 false x 0 a 0)
  | .strmJoin => some (4, rr 0x15 1 false false 0 0 0)
  | .strmEnd => some (4, rr 0x15 2 false false 0 0 0)
  | .strmPos d => some (4, rr 0x15 3 false false 0 0 d)
  | .rput c r y b d => some (4, rr 0x16 (r.code + bn c * 2 ^ 3) y false b 0 d)
  | .rputM c y x b a d => some (4, rr 0x16 (4 + bn c * 2 ^ 3) y x b a d)
  | .rputArm c d => some (4, rr 0x16 (4 + bn c * 2 ^ 3) false false 0 0 d)
  | .ld o z e w x a d => some (4, mm 0x18 o.toNat z.code e.code w x a d)
  | .ldn o z e w x a d => some (4, mm 0x19 o.toNat z.code e.code w x a d)
  | .st o z e w x a d => some (4, mm 0x1A o.toNat z.code e.code w x a d)
  | .vld o e w x a d => some (4, mm 0x1B o.toNat 0 e.code w x a d)
  | .vst o e w x a d => some (4, mm 0x1C o.toNat 0 e.code w x a d)
  | .vlds w y x b a d => some (4, rr 0x1D (w * 2 ^ 2) y x b a d)
  | .vsts w y x b a d => some (4, rr 0x1D (1 + w * 2 ^ 2) y x b a d)
  | .vgath w x b a d => some (4, rr 0x1D (2 + w * 2 ^ 2) false x b a d)
  | .vscat w x b a d => some (4, rr 0x1D (3 + w * 2 ^ 2) false x b a d)
  | .aadd e s t b a d => some (4, ma 0x1E 0 e.code s.code t b a d)
  | .aand e s t b a d => some (4, ma 0x1E 1 e.code s.code t b a d)
  | .aor e s t b a d => some (4, ma 0x1E 2 e.code s.code t b a d)
  | .axor e s t b a d => some (4, ma 0x1E 3 e.code s.code t b a d)
  | .amin e s t b a d => some (4, ma 0x1F 0 e.code s.code t b a d)
  | .amax e s t b a d => some (4, ma 0x1F 1 e.code s.code t b a d)
  | .aswap e s t b a d => some (4, ma 0x1F 2 e.code s.code t b a d)
  | .acas e s t b a d => some (4, ma 0x1F 3 e.code s.code t b a d)
  | .fence s k => some (4, rr 0x20 0 false false 0 0 (k.code + s.code * 2 ^ 2))
  | .waitc m => some (4, rr 0x20 1 false false 0 0 m)
  | .cflush x a => some (4, rr 0x20 2 false x 0 a 0)
  | .cinv x a => some (4, rr 0x20 3 false x 0 a 0)
  | .pref x a w => some (4, rr 0x20 4 false x 0 a (bn w))
  | .spcfg x a => some (4, rr 0x20 5 false x 0 a 0)
  | .czero x a => some (4, rr 0x20 6 false x 0 a 0)
  | .pst m e s t b a d => some (4, ma 0x21 (bn m) e.code s.code t b a d)
  | .ldsy l t a d => some (4, tt 0x22 l.code t 0 a d)
  | .stsy l t b a => some (4, tt 0x23 l.code t b a 0)
  | .cntAdd t b a => some (4, tt 0x24 0 t b a 0)
  | .cntFadd t b a d => some (4, tt 0x25 0 t b a d)
  | .cntWait l t b a d => some (4, tt 0x26 l.code t b a d)
  | .barArr t a d => some (4, tt 0x27 0 t 0 a d)
  | .barWait l t b a d => some (4, tt 0x28 l.code t b a d)
  | .barArw l t a d => some (4, tt 0x29 l.code t 0 a d)
  | .lckAcq l t a => some (4, tt 0x2A l.code t 0 a 0)
  | .lckRel t a => some (4, tt 0x2B 0 t 0 a 0)
  | .qPut l t b a => some (4, tt 0x2C l.code t b a 0)
  | .qGet l t a d => some (4, tt 0x2D l.code t 0 a d)
  | .cndWait l t b a => some (4, tt 0x2E l.code t b a 0)
  | .cndSig t a k => some (4, tt 0x2F 0 t 0 a (bn k))
  | .tinit y x b a k => some (4, rr 0x30 0 y x b a k.code)
  | .traw y x b a k => some (4, rr 0x30 1 y x b a k)
  | .tclr x a => some (4, rr 0x30 2 false x 0 a 0)
  | .nbar l t a d => some (4, tt 0x31 l.code t 0 a d)
  | .cpy g s r q d => some (4, cc 0x32 g s.code r q false 0 0 d)
  | .cpym g s r q d => some (4, cc 0x33 g s.code r q false 0 0 d)
  | .mwl g s r q t a f => some (4, cc 0x34 g s.code r q t 0 a f.code)
  | .mma g s r q t b a f n => some (4, cc 0x35 g s.code r q t b a (n + f.code * 2 ^ 2))
  | .acccfg x a k n => some (4, rr 0x36 0 false x 0 a (n + bn k * 2 ^ 2))
  | .acczero n => some (4, rr 0x36 1 false false 0 0 n)
  | .accrd y x b a f n => some (4, rr 0x36 2 y x b a (n + f.code * 2 ^ 2))
  | .accadd s n => some (4, rr 0x36 3 false false s 0 n)
  | .accsave x a n => some (4, rr 0x36 4 false x 0 a n)
  | .accload x a n => some (4, rr 0x36 5 false x 0 a n)
  | .mstat x a d => some (4, rr 0x36 6 false x 0 a d)
  | .vaddFp m b a d k => some (4, vv (0x38 + k.code) 0 m b a d)
  | .vsubFp m b a d k => some (4, vv (0x38 + k.code) 1 m b a d)
  | .vmulFp m b a d k => some (4, vv (0x38 + k.code) 2 m b a d)
  | .vfmaFp m b a d k => some (4, vv (0x38 + k.code) 3 m b a d)
  | .vminFp m b a d k => some (4, vv (0x38 + k.code) 4 m b a d)
  | .vmaxFp m b a d k => some (4, vv (0x38 + k.code) 5 m b a d)
  | .vselFp m b a d k => some (4, vv (0x38 + k.code) 8 m b a d)
  | .vfnmaFp m b a d k => some (4, vv (0x38 + k.code) 11 m b a d)
  | .vun m f a d k => some (4, vv (0x38 + k.code) 6 m f.code a d)
  | .vcmpFp m b a c n k => some (4, vv (0x38 + k.code) 7 m b a (n + c.code * 2 ^ 3))
  | .vred m a d k => some (4, vv (0x38 + k.code) 9 m 0 a d)
  | .vcvt m r c a d k => some (4, vv (0x38 + k.code) 10 m (c.code + r.code * 2 ^ 4) a d)
  | .vaddInt m b a d k => some (4, vv (0x3B + k.code) 0 m b a d)
  | .vsubInt m b a d k => some (4, vv (0x3B + k.code) 1 m b a d)
  | .vmulInt m b a d k => some (4, vv (0x3B + k.code) 2 m b a d)
  | .vmac m b a d k => some (4, vv (0x3B + k.code) 3 m b a d)
  | .vminInt m b a d k => some (4, vv (0x3B + k.code) 4 m b a d)
  | .vmaxInt m b a d k => some (4, vv (0x3B + k.code) 5 m b a d)
  | .vminn m b a d k => some (4, vv (0x3B + k.code) 6 m b a d)
  | .vmaxn m b a d k => some (4, vv (0x3B + k.code) 7 m b a d)
  | .vand m b a d k => some (4, vv (0x3B + k.code) 8 m b a d)
  | .vor m b a d k => some (4, vv (0x3B + k.code) 9 m b a d)
  | .vxor m b a d k => some (4, vv (0x3B + k.code) 10 m b a d)
  | .vshl m b a d k => some (4, vv (0x3B + k.code) 11 m b a d)
  | .vshr m b a d k => some (4, vv (0x3B + k.code) 12 m b a d)
  | .vsha m b a d k => some (4, vv (0x3B + k.code) 13 m b a d)
  | .vcmpInt m b a c n k => some (4, vv (0x3B + k.code) 14 m b a (n + c.code * 2 ^ 3))
  | .vselInt m b a d k => some (4, vv (0x3B + k.code) 15 m b a d)
  | .vbc s x a d => some (4, rr 0x3E s.code false x 0 a d)
  | .vget s y b a d => some (4, rr 0x3E (s.code + 1 * 2 ^ 2) y false b a d)
  | .vset s y x b a d => some (4, rr 0x3E (s.code + 2 * 2 ^ 2) y x b a d)
  | .vperm s b a d => some (4, rr 0x3E (s.code + 3 * 2 ^ 2) false false b a d)
  | .vcopy a d => some (4, rr 0x3E (4 * 2 ^ 2) false false 0 a d)
  | .srd h l d => some (4, rr 0x3F 0 false false h l d)
  | .swr h l d => some (4, rr 0x3F 1 false false h l d)
  | .swrIntpend d => some (4, rr 0x3F 1 false false 0 0x16 d)
  | .swrMerrlog d => some (4, rr 0x3F 1 false false 1 0x10 d)
  | .swrPshq d => some (4, rr 0x3F 1 false false 0 0x30 d)
  | .swrPshcnt d => some (4, rr 0x3F 1 false false 0 0x31 d)
  | .ecall => some (4, rr 0x3F 2 false false 0 0 0)
  | .eret => some (4, rr 0x3F 3 false false 0 0 0)
  | .trapi h l => some (4, rr 0x3F 4 false false h l 0)
  | .tlbinv y x b a k => some (4, rr 0x3F 5 y x b a k.code)
  | .grpset y x b a => some (4, rr 0x3F 6 y x b a 0)
  | .brk h l => some (4, rr 0x3F 7 false false h l 0)
  | .wfi => some (4, rr 0x3F 8 false false 0 0 0)
  | .speedrd x a d => some (4, rr 0x3F 9 false x 0 a d)
  | .cMov y x => some (2, hh 0 x y)
  | .cAdd y x => some (2, hh 1 x y)
  | .cSub y x => some (2, hh 2 x y)
  | .cAnd y x => some (2, hh 3 x y)
  | .cOr y x => some (2, hh 4 x y)
  | .cXor y x => some (2, hh 5 x y)
  | .cAddi i x => some (2, hh 6 x i.toNat)
  | .cLi i x => some (2, hh 7 x i.toNat)
  | .cShli n x => some (2, hh 8 x n)
  | .cShri n x => some (2, hh 9 x n)
  | .cLd o b x => some (2, hh 10 x (b + o * 2 ^ 3))
  | .cSt o b x => some (2, hh 11 x (b + o * 2 ^ 3))
  | .cBr i => some (2, hh 12 i.toNat 0)
  | .cBrp i p => some (2, hh 13 (p + i.toNat * 2 ^ 3) 0)
  | .cMiscNop => some (2, hh 14 0 0)
  | .cMiscYield => some (2, hh 14 1 0)
  | .cMiscTexit => some (2, hh 14 2 0)
  | .cRet => some (2, hh 15 0 0)
  | _ => none

/-- The word of an instruction, as ILLEGAL, PRIVILEGED and EMPTYREG records hold it (R58, R85, R87). -/
def wordOf (i : Instr) : Nat :=
  match encode i with
  | some (_, w) => w
  | none => 0

/-- The length of an instruction in bytes (R39). -/
def lengthOf (i : Instr) : Nat :=
  match encode i with
  | some (n, _) => n
  | none => 0

end Sys2Proof
end

