-- ==== Sys2Proof/Machine/Ops.lean ====
section
/-! DEFINITION. The named operations over threads, cores and registers; taking a trap and returning from one (R352, R353,
R358); and the order of checks every instruction passes at issue (R88). -/

namespace Sys2Proof.Machine

open Sys2Proof

/-- The outcome of a step of this machine. -/
abbrev Out' := Host.Outcome State Fault Refusal

/-! ### Threads and cores -/

/-- A core position. -/
def State.coreAt (s : State) (c : Nat) : Core := tget s.cores c {}
/-- A core position replaced. -/
def State.setCore (s : State) (c : Nat) (k : Core) : State := { s with cores := tset c k s.cores }
/-- A core position changed by a function. -/
def State.modCore (s : State) (c : Nat) (f : Core → Core) : State := s.setCore c (f (s.coreAt c))

/-- A thread slot of a core. -/
def State.thread (s : State) (c t : Nat) : Thread := tget (s.coreAt c).threads t {}
/-- A thread slot replaced. -/
def State.setThread (s : State) (c t : Nat) (th : Thread) : State :=
  s.modCore c fun k => { k with threads := tset t th k.threads }
/-- A thread slot changed by a function. -/
def State.modThread (s : State) (c t : Nat) (f : Thread → Thread) : State := s.setThread c t (f (s.thread c t))

/-- The thread whose instruction is performed. -/
def State.th (s : State) : Thread := s.thread s.cur.1 s.cur.2
/-- The core of that thread. -/
def State.co (s : State) : Core := s.coreAt s.cur.1
/-- That thread replaced. -/
def State.setTh (s : State) (th : Thread) : State := s.setThread s.cur.1 s.cur.2 th
/-- That thread changed by a function. -/
def State.modTh (s : State) (f : Thread → Thread) : State := s.setTh (f s.th)
/-- Its core changed by a function. -/
def State.modCo (s : State) (f : Core → Core) : State := s.modCore s.cur.1 f

/-- An entry of the speed table (R29, R30). -/
def State.speedAt (s : State) (i : Nat) : BitVec 32 := s.speed.getD i 0
/-- The position holds a core that passed test (R18, R29). -/
def State.present (s : State) (c : Nat) : Bool := decide (c < 768) && bitOf (s.speedAt c) 31
/-- A live core: present and not fenced (R18, R381). -/
def State.liveCore (s : State) (c : Nat) : Bool := s.present c && !(s.coreAt c).fenced
/-- The tested frequency of a position in MHz (R27, R29). -/
def State.tested (s : State) (c : Nat) : Nat := fld (s.speedAt c) 0 16
/-- The frequency that management allows a core: the tested one unless it has been lowered (R31). -/
def State.allowed (s : State) (c : Nat) : Nat := (s.coreAt c).mhz.getD (s.tested c)

/-- The cores of a flight's rectangle in increasing core number (R309). -/
def Flight.cores (f : Flight) (leader : Nat) : List Nat :=
  (List.range f.h).flatMap fun j => (List.range f.w).map fun i => leader + 32 * j + i

/-- Position of a core in a flight: dx and dy (R309). -/
def flightPos (leader c : Nat) : Nat × Nat := (c % 32 - leader % 32, c / 32 - leader / 32)

/-- The wavefront of a step: steps with one sum k + dx + dy are issued in one cycle (R313). -/
def waveOf (leader c k : Nat) : Nat := k + (flightPos leader c).1 + (flightPos leader c).2

/-- The current frequency of a core: in a flight the lower of the span clock and what management allows any core of the
flight (R31, R311). -/
def State.mhz (s : State) (c : Nat) : Nat :=
  match (s.coreAt c).flight with
  | none => s.allowed c
  | some l =>
    match tget? s.flights l with
    | some f => ((f.cores l).filter fun n => !f.left.contains n).foldl (fun m n => min m (s.allowed n)) f.clock
    | none => s.allowed c

/-- A thread that is live: it has been started and has not ended or stopped (R297, R353). -/
def Thread.live (t : Thread) : Bool :=
  match t.life with
  | .runnable | .parked _ => true
  | .notLive | .stopped _ => false
/-- S mode (R349, R351). -/
def Thread.smode (t : Thread) : Bool := bitOf t.status 0
/-- Within a trap handler (R351). -/
def Thread.intrap (t : Thread) : Bool := bitOf t.status 2

/-- Threads per core in a partition (R24). -/
def Part.slots : Part → Nat
  | .p16 => 16
  | .p8 => 8
  | .p4 => 4
/-- g registers of a partition (R51). -/
def Part.gRegs : Part → Nat
  | .p16 => 32
  | .p8 => 64
  | .p4 => 64
/-- v registers of a partition (R51). -/
def Part.vRegs : Part → Nat
  | .p16 => 16
  | .p8 => 32
  | .p4 => 64

/-- The slots of a core that hold live threads. -/
def Core.liveSlots (k : Core) : List Nat := (List.range 16).filter fun t => (tget k.threads t {}).live

/-! ### Registers (R51 to R59) -/

/-- g registers: g0 reads as zero (R53). -/
def Thread.gv (t : Thread) (n : Nat) : Word := if n = 0 then 0 else tget t.g n 0
/-- The full/empty state of a g register; g0 is always full (R53). -/
def Thread.gs (t : Thread) (n : Nat) : RegSt := if n = 0 then .full else tget t.gst n .full
/-- Write a g register and set it full, its width tag that of the value; a write to g0 is discarded (R53, R54, R59). -/
def Thread.putG (t : Thread) (n : Nat) (w : Word) : Thread :=
  if n = 0 then t else { t with g := tset n w t.g, gst := tset n .full t.gst, tag00 := t.tag00.filter (· != n) }
/-- Set the full/empty state of a g register; g0 stays full. -/
def Thread.markG (t : Thread) (n : Nat) (r : RegSt) : Thread :=
  if n = 0 then t else { t with gst := tset n r t.gst }
/-- A v register. -/
def Thread.vv (t : Thread) (n : Nat) : Line := tget t.v n 0
/-- The full/empty state of a v register. -/
def Thread.vs (t : Thread) (n : Nat) : RegSt := tget t.vst n .full
/-- Write a v register and set it full (R54). -/
def Thread.putV (t : Thread) (n : Nat) (l : Line) : Thread := { t with v := tset n l t.v, vst := tset n .full t.vst }
/-- Set the full/empty state of a v register. -/
def Thread.markV (t : Thread) (n : Nat) (r : RegSt) : Thread := { t with vst := tset n r t.vst }
/-- A predicate; p0 reads true (R53). -/
def Thread.pv (t : Thread) (n : Nat) : Bool := if n = 0 then true else bitOf t.p n
/-- Write a predicate; p0 is never written (R53). -/
def Thread.putP (t : Thread) (n : Nat) (b : Bool) : Thread := if n = 0 then t else { t with p := setBit t.p n b }
/-- A mask register; m0 reads all ones (R53). -/
def Thread.mv (t : Thread) (n : Nat) : Word := if n = 0 then BitVec.allOnes 64 else tget t.m n 0
/-- Write a mask register; m0 is never written (R53). -/
def Thread.putM (t : Thread) (n : Nat) (w : Word) : Thread := if n = 0 then t else { t with m := tset n w t.m }
/-- An operand-extension register (R60). -/
def Thread.xv (t : Thread) (n : Nat) : Word := tget t.x n 0
/-- Write an operand-extension register. -/
def Thread.putX (t : Thread) (n : Nat) (w : Word) : Thread := { t with x := tset n w t.x }
/-- A core-shared register (R302). -/
def Core.kv (k : Core) (n : Nat) : Word := tget k.k n 0
/-- The full/empty state of a core-shared register. -/
def Core.ks (k : Core) (n : Nat) : RegSt := tget k.kst n .full
/-- Write a core-shared register and set it full. -/
def Core.putK (k : Core) (n : Nat) (w : Word) : Core := { k with k := tset n w k.k, kst := tset n .full k.kst }

/-- The width tag that hardware computes from a value (R59). -/
def widthTag (w : Word) : Nat :=
  if w.toNat < 2 ^ 32 then 0 else if w.toNat ≥ 2 ^ 64 - 2 ^ 31 then 1 else 2
/-- The width tag of a g register: that of its value, or the 00 that the description of the instruction that wrote it gives (R10,
R59, R323; log entry 2). -/
def Thread.tag (t : Thread) (n : Nat) : Nat := if t.tag00.contains n then 0 else widthTag (t.gv n)
/-- An instruction's description gives the register it has written the width tag 00. -/
def Thread.setTag00 (t : Thread) (n : Nat) : Thread := if n = 0 then t else { t with tag00 := insertNat n t.tag00 }

/-- Write g[d] of the performing thread. -/
def State.wg (s : State) (d : GReg) (w : Word) : State := s.modTh fun t => t.putG d w
/-- Write v[d] of the performing thread. -/
def State.wv (s : State) (d : VReg) (l : Line) : State := s.modTh fun t => t.putV d l
/-- Read g[a] of the performing thread. -/
def State.rg (s : State) (a : GReg) : Word := s.th.gv a
/-- Read v[a] of the performing thread. -/
def State.rv (s : State) (a : VReg) : Line := s.th.vv a

/-- Move past the instruction's bytes (R39). -/
def State.advance (s : State) (len : Nat) : State := s.modTh fun t => { t with pc := t.pc + word len }
/-- Continue at another address: the fetch buffer is refilled (R43). -/
def Thread.jump (t : Thread) (target : Word) : Thread := { t with pc := target, fb := none, half := none, fetched := none }
/-- The performing thread parks; its instruction counts as not issued (R55, R298). -/
def State.park (s : State) (why : Park) : State := s.modTh fun t => { t with life := .parked why }
/-- The performing thread has issued and parks until its reply. -/
def State.awaitReply (s : State) (w : Wait) : State :=
  s.modTh fun t => { t with wait := some w, life := .parked .reply }
/-- The number of the next request. -/
def State.newId (s : State) : State := { s with txn := s.txn + 1 }
/-- Put a message on its channel. -/
def State.send (s : State) (src dst : Node) (b : Body) : State := { s with net := s.net ++ [⟨src, dst, b⟩] }

/-! ### Watchpoints on registers (R398, R399) -/

/-- The class number of a register class (R398, R401). -/
def RegClass.num : RegClass → Nat
  | .g => 0
  | .v => 1
  | .k => 2

/-- A register class and number as one value: class×64 + number (R399). -/
def regKey (c : RegClass) (n : Nat) : Nat := RegClass.num c * 64 + n

/-- The watchpoints of kind 2 that a transition of a register matches (R398). -/
def watchedReg (t : Thread) (c : RegClass) (n : Nat) (toFull : Bool) : List Nat :=
  (List.range 4).filter fun i =>
    let w := tget t.wch i 0
    bitOf w 63 && fld w 61 2 == 2 && (if toFull then bitOf w 59 else bitOf w 60)
      && fld w 9 2 == RegClass.num c && fld w 3 6 == n

/-- A transition of a register posts a deferred WATCH for each watchpoint it matches (R399). -/
def Thread.transition (t : Thread) (c : RegClass) (n maj : Nat) (was now_ : RegSt) : Thread :=
  if (was == .full) = (now_ == .full) then t
  else
    { t with deferred := t.deferred ++ (watchedReg t c n (now_ == .full)).map fun i =>
        ⟨0x10, word (regKey c n), word (2 ^ 63 + maj * 2 ^ 8 + 2 * 2 ^ 4 + i)⟩ }

/-- A producer or a delivery fills a g register (R54, R57); a watch reports MAJ 0. -/
def Thread.fillG (t : Thread) (n : Nat) (w : Word) : Thread := (t.putG n w).transition .g n 0 (t.gs n) .full
/-- A producer or a delivery fills a v register. -/
def Thread.fillV (t : Thread) (n : Nat) (l : Line) : Thread := (t.putV n l).transition .v n 0 (t.vs n) .full

/-! ### Launch bookkeeping that traps and exits share -/

/-- The bind record of a slot (R334). -/
def State.bind (s : State) (c t : Nat) : BindRec := tget s.binds (c * 16 + t) {}
/-- A bind record replaced. -/
def State.setBind (s : State) (c t : Nat) (b : BindRec) : State := { s with binds := tset (c * 16 + t) b s.binds }

/-- A thread ends: the slot's bind record takes STATE and CAUSE when it is bound to the thread's launch, and the launch
notes them as the core's last record to end (R334, R343, R353). A record that still waits to start is not this thread's, and one that
has ended takes only a later stop (log entry 114). -/
def State.noteEnd (s : State) (c t state cause : Nat) : State :=
  match (s.thread c t).launch with
  | none => s
  | some l =>
    let b := s.bind c t
    if b.valid && b.launch == l && (b.state == 1 || (state == 3 && b.state != 0)) then
      let s := s.setBind c t { b with state := state, cause := cause }
      match tget? s.launches l with
      | some e => { s with launches := tset l { e with endState := tset c (state, cause) e.endState } s.launches }
      | none => s
    else s

/-! ### Traps (R352, R353, R358) -/

/-- TRAPVEC.ADDR × 2 (R351). -/
def Thread.vector (t : Thread) : Word := word (fld t.trapvec 1 56 * 2)

/-- TRAPCAUSE of a trap: CODE, C16 and STREAM (R351). -/
def causeWord (cause : Nat) (c16 stream : Bool) : Word := word (cause + b2n c16 * 2 ^ 8 + b2n stream * 2 ^ 9)

/-- A thread enters its handler (R352): the trap registers, PMODE, MODE and INTRAP written, the pc at TRAPVEC. -/
def Thread.enter (t : Thread) (cause : Nat) (v1 v2 pc : Word) (c16 stream : Bool) : Thread :=
  { t.jump t.vector with
    life := .runnable, dropped := none, trappc := pc, trapcause := causeWord cause c16 stream, trapval := v1, trapval2 := v2,
    status := setFld (setBit t.status 1 (bitOf t.status 0)) 0 1 1 ||| 4, fresh := false }

/-- BREAK, WATCH and STEP stop the thread in safelight when the debug unit has armed them (R394, R399). -/
def Thread.armed (t : Thread) (cause : Nat) : Bool :=
  (cause == 0x0F && bitOf t.arm 0) || (cause == 0x10 && bitOf t.arm 1) || (cause == 0x11 && bitOf t.arm 2)

/-- A trap raised by a stream step makes its core an originating core of the flight, of which no other core issues a step from 8
cycles later on (R319). The cause kept is that of the first fault in time, also when a core of a lower number joins the origins
later (log entry 115). -/
def State.streamFault (s : State) (c cause : Nat) : State :=
  match (s.coreAt c).flight with
  | none => s
  | some l =>
    match tget? s.flights l with
    | some f => { s with flights := tset l { f with
        origins := insertNat c f.origins,
        cause := if f.origins.isEmpty then cause else f.cause,
        stop := some (f.stop.getD 8) } s.flights }
    | none => s

/-- A trap of a thread is one of a stream step: its thread is slot 0 of a core in a flight (R319). -/
def State.streams (s : State) (c t : Nat) : Bool := s.stream.isSome || (t == 0 && (s.coreAt c).flight.isSome)

/-- Taking a trap (R352, R353): safelight when armed; a stop when INTRAP is set or there is no handler; the handler
otherwise. -/
def State.takeTrap (s : State) (c t cause : Nat) (v1 v2 pc : Word) (c16 : Bool) : State :=
  let th := s.thread c t
  let stream := s.streams c t
  if th.armed cause then
    let s := s.setThread c t
      { th with life := .runnable, held := true, stopInfo := some ⟨cause, v1, v2⟩, stepping := false, stepped := none }
    if stream then s.streamFault c cause else s
  else if th.intrap || fld th.trapvec 1 56 == 0 then
    let s := (s.setThread c t { th with life := .stopped cause, wait := none }).noteEnd c t 3 cause
    if stream then s.streamFault c cause else s
  else
    let s := s.setThread c t (th.enter cause v1 v2 pc c16 stream)
    if stream then s.streamFault c cause else s

/-- The performing thread traps at its instruction. -/
def State.trap (s : State) (cause : Nat) (v1 v2 : Word) (len : Nat := 4) : State :=
  s.takeTrap s.cur.1 s.cur.2 cause v1 v2 s.th.pc (len == 2)

/-- A step that was issued has trapped after all: it does not count as executed (R319, R322). -/
def State.unstep (s : State) (c t : Nat) : State :=
  match t, (s.coreAt c).flight with
  | 0, some l =>
    match tget? s.flights l with
    | some f =>
      let k := tget f.steps c 0 - 1
      ({ s with flights := tset l { f with steps := tset c k f.steps } s.flights }).modCore c fun q =>
        { q with spos := setFld q.spos 0 32 k }
    | none => s
  | _, _ => s

/-- A trap that reaches a stepped thread between two of its turns ends the STEP, at the first instruction of the handler (R396); in
safelight the stop is the trap's (log entry 144). -/
def Thread.stepTraps (t : Thread) : Thread :=
  if t.stepping && t.stepped.isNone then { t with stepped := some t.intrap } else t

/-- A thread that waits before its instruction traps at it; while it is held the trap stays pending (R395). A STREAMFAULT that
awaited the end of the instruction gives way to it (R319). -/
def State.trapBefore (s : State) (c t cause : Nat) (v1 v2 : Word) (len : Nat) : State :=
  if (s.thread c t).held then s.modThread c t fun th => { th with owed := some (⟨cause, v1, v2⟩, len) }
  else (s.modThread c t fun th => { th.stepTraps with owed := none }).takeTrap c t cause v1 v2 (s.thread c t).pc (len == 2)

/-- A thread traps at an instruction that it has issued and whose end it awaited: a stream step does not count as executed (R319). -/
def State.trapAt (s : State) (c t cause : Nat) (v1 v2 : Word) (len : Nat) : State :=
  let s' := s.trapBefore c t cause v1 v2 len
  if s.stream.isSome then s' else s'.unstep c t

/-- ILLEGAL: TRAPVAL the word, TRAPVAL2 its length (R87). -/
def State.illegal (s : State) (w len : Nat) : State := s.trap 0x01 (word w) (word len) len
/-- PRIVILEGED, with the values of ILLEGAL (R87). -/
def State.privileged (s : State) (w len : Nat) : State := s.trap 0x02 (word w) (word len) len

/-- An instruction of a thread has issued and awaits its end: a reply, or the register of a WAITG, WAITV or WAITK (R316). -/
def Thread.awaitsEnd (t : Thread) : Bool :=
  t.wait.isSome || match t.life with
    | .parked (.awaitReg ..) => true
    | _ => false

/-- ERET (R358): PC from TRAPPC, MODE from PMODE, INTRAP cleared. The first instruction after it matches no breakpoint
(R397). -/
def Thread.eret (t : Thread) : Thread :=
  { t.jump t.trappc with status := setBit (setBit t.status 0 (bitOf t.status 1)) 2 false, fresh := true, late := 0 }

/-- Post a deferred trap to a thread that is live (R232). -/
def State.defer (s : State) (c t : Nat) (d : Deferred) : State :=
  s.modThread c t fun th => if th.live then { th with deferred := th.deferred ++ [d] } else th

/-! ### Issue (R55, R56, R88) -/

/-- A source register with its test bit. -/
structure Src where
  cls  : RegClass
  n    : Nat
  test : Bool
  deriving DecidableEq, Repr

/-- What an instruction shows at issue: itself, its sources in the order of R55, its destinations, the destination it
also reads (R144), registers it names without a test, and whether it is privileged. -/
structure Issue where
  instr : Instr
  srcs  : List Src := []
  dsts  : List (RegClass × Nat) := []
  reads : List (RegClass × Nat) := []
  names : List (RegClass × Nat) := []
  priv  : Bool := false
  deriving DecidableEq, Repr

/-- The full/empty state of a register as the performing thread sees it. -/
def State.regSt (s : State) (c : RegClass) (n : Nat) : RegSt :=
  match c with
  | .g => s.th.gs n
  | .v => s.th.vs n
  | .k => s.co.ks n

/-- A register within the partition in force (R52). -/
def inPart (p : Part) (c : RegClass) (n : Nat) : Bool :=
  match c with
  | .g => decide (n < Part.gRegs p)
  | .v => decide (n < Part.vRegs p)
  | .k => true

/-- The instruction is legal: well formed, and every register it names lies within the partition (R52, R86). -/
def Issue.legal (q : Issue) (p : Part) : Bool :=
  q.instr.wf && q.srcs.all (fun x => inPart p x.cls x.n) && (q.dsts ++ q.names).all (fun d => inPart p d.1 d.2)

/-- The first empty source (R55). -/
def State.emptySrc (s : State) (l : List Src) : Option Src := l.find? fun x => s.regSt x.cls x.n != .full

/-- A register with a pending producer (R56). -/
def RegSt.isPending : RegSt → Bool
  | .pending .. => true
  | _ => false

/-- The first destination a pending producer has still to fill (R56). -/
def State.pendingDst (s : State) (l : List (RegClass × Nat)) : Option (RegClass × Nat) :=
  l.find? fun d => (s.regSt d.1 d.2).isPending

/-- The first destination that is read as well and is not full (R144). -/
def State.emptyDst (s : State) (l : List (RegClass × Nat)) : Option (RegClass × Nat) :=
  l.find? fun d => s.regSt d.1 d.2 != .full

/-- The MAJ an instruction reports: that of its word, or of the 32-bit instruction a 16-bit form performs (R84). -/
def majOf (i : Instr) : Nat :=
  match i with
  | .cMov .. | .cAdd .. | .cSub .. | .cAnd .. | .cOr .. | .cXor .. => 0x01
  | .cAddi .. | .cLi .. | .cMiscNop => 0x02
  | .cShli .. | .cShri .. => 0x06
  | .cLd .. => 0x18
  | .cSt .. => 0x1A
  | .cBr .. => 0x10
  | .cBrp .. => 0x12
  | .cMiscYield | .cMiscTexit => 0x14
  | .cRet => 0x13
  | i => wordOf i / 2 % 64

/-- Transitions of the destinations between two states post deferred WATCH traps to the performing thread (R399). -/
def State.watchDsts (before after : State) (l : List (RegClass × Nat)) (maj : Nat) : State :=
  l.foldl (fun s d => s.modTh fun t => t.transition d.1 d.2 maj (before.regSt d.1 d.2) (after.regSt d.1 d.2)) after

/-- EMPTYREG (R58): class and number of the source, and the instruction word. -/
def State.emptyReg (s : State) (x : Src) (i : Instr) : State :=
  s.trap 0x03 (word ((if x.cls = .k then 64 else 0) + x.n)) (word (wordOf i)) (lengthOf i)

/-- The order of checks at issue (R88 steps 3 to 5), then the instruction's own effect (step 6). -/
def issue (q : Issue) (body : State → State) (s : State) : Out' :=
  if !q.legal s.co.part then .next (s.illegal (wordOf q.instr) (lengthOf q.instr))
  else if q.priv && !s.th.smode then .next (s.privileged (wordOf q.instr) (lengthOf q.instr))
  else
    match s.emptySrc q.srcs with
    | some x => if x.test then .next (s.emptyReg x q.instr) else .next (s.park (.source x.cls x.n))
    | none =>
      match s.pendingDst q.dsts, s.emptyDst q.reads with
      | some d, _ => .next (s.park (.dest d.1 d.2))
      | none, some d => .next (s.park (.destFull d.1 d.2))
      | none, none => .next (State.watchDsts s (body s) q.dsts (majOf q.instr))

/-- A g source with its test bit. -/
def gsrc (a : GReg) (t : Bool) : Src := ⟨.g, a, t⟩
/-- A v source; it always parks (R55). -/
def vsrc (a : VReg) : Src := ⟨.v, a, false⟩
/-- A g destination. -/
def gdst (d : GReg) : RegClass × Nat := (.g, d)
/-- A v destination. -/
def vdst (d : VReg) : RegClass × Nat := (.v, d)

/-! ### Ordering (R205 to R211) -/

/-- A thread's count of one destination class (R210). -/
def Thread.wcnt (t : Thread) (c : Nat) : Nat := (t.outs.filter fun o => o.cls == c).length

/-- The condition of a release at a scope over the accesses still outstanding (R205). An access to another device has
entered the transport's order as soon as it has issued (R196). -/
def relReady (sc : Scope) (outs : List Out) : Bool :=
  match sc with
  | .core => true
  | .dev => outs.all fun o => !o.value && o.cls != 1 && o.cls != 2
  | .pod => outs.all fun o => !o.value && o.cls == 0

/-- No earlier load, atomic or typed operation of the thread awaits its value (R202). -/
def valuesReady (outs : List Out) : Bool := outs.all fun o => !o.value

/-- The acquires that hold the next access are performed (R207). -/
def Thread.acqReady (t : Thread) : Bool := t.acq.all fun i => t.outs.all fun o => o.id != i.1

/-- The wait for room in a full class count: for one access, or for several that an instruction makes (R210). -/
def Park.room (cls n : Nat) : Park := .count (8 + 2 ^ (cls - 1) + 16 * (n - 1))

/-- What a parked thread waits for has come (R297); a thread that has issued and awaits a reply is woken by the reply. -/
def State.parkOver (s : State) (c t : Nat) (why : Park) : Bool :=
  let th := s.thread c t
  let k := s.coreAt c
  match why with
  | .source .g n | .awaitReg .g n | .destFull .g n => th.gs n == .full
  | .source .v n | .awaitReg .v n | .destFull .v n => th.vs n == .full
  | .source .k n | .awaitReg .k n | .destFull .k n => k.ks n == .full
  | .dest .g n => !(th.gs n).isPending
  | .dest .v n => !(th.vs n).isPending
  | .dest .k n => !(k.ks n).isPending
  | .reply => false
  | .count m => (List.range 3).all fun i => !(m.testBit i) || decide (th.wcnt (i + 1) + m / 16 < (if m ≥ 8 then 4095 else 1))
  | .order sc => relReady sc th.outs
  | .acquire => th.acqReady
  | .values => valuesReady th.outs
  | .fetch id => th.outs.all fun o => o.id != id
  | .walk => th.walk.isNone
  | .operand id => k.mq.all fun m => m.id != id
  | .line n => k.threads.all fun e => e.2.outs.all fun o => o.line != n
  | .reclaim pte => k.reclaims.all fun x => x.2.1 != pte
  | .matrixFull => decide (k.mq.length < 16)
  | .copyFull => decide (k.cq.length < 32)
  | .accload => k.mq.all fun m => match m.op with | .accload .. => false | _ => true
  | .wfi => (th.intpend &&& th.intmask) != 0
  | .bath => k.spcfg.isNone && k.flight.isNone
  | .repart => k.spcfg.isNone && k.repart.isNone
  | .drain => false
  | .lead => false
  | .join => false
  | .streamEnd => false

/-- The place of the deferred trap that a thread takes next (R232, R352, R399): a WATCH that stops it in safelight, or, while
INTRAP is 0, the oldest that does not wait for an ERET. -/
def Thread.nextDeferred (t : Thread) : Option Nat :=
  match t.deferred.findIdx? fun d => d.cause == 0x10 && t.armed d.cause with
  | some i => some i
  | none => if !t.intrap && decide (t.late < t.deferred.length) then some t.late else none

/-- A thread awaits the reply of a typed operation or of NBAR, for which a deferred trap waits (R232). -/
def Thread.awaitsReply (t : Thread) : Bool :=
  match t.wait with
  | some w => w.kind == .typed || w.kind == .nbar
  | none => false

/-- A thread that may issue when its turn comes: live, not held, and runnable or done waiting (R297). A deferred trap
wakes a parked thread, but not one that awaits a typed reply or an NBAR (R232). -/
def State.ready (s : State) (c t : Nat) : Bool :=
  let th := s.thread c t
  if th.held then false
  else
    match th.life with
    | .runnable => true
    | .parked why => s.parkOver c t why || (th.nextDeferred.isSome && !th.awaitsReply)
    | .notLive | .stopped _ => false

end Sys2Proof.Machine
end

