-- ==== Sys2Proof/Machine/Operands.lean ====
section
/-! DEFINITION. Operand forms: immediates and offsets (R45, R63), effective addresses (R231, R234, R235), mesh addresses
with the checks of the issuing core (R192 to R195, R367, R368), and the lanes of a vector (R5, R50). -/

namespace Sys2Proof.Machine

open Sys2Proof

/-- sext of an immediate (R45). -/
def sx {w : Nat} (i : BitVec w) : Word := i.signExtend 64

/-- A PC-relative offset of 2-byte units (R45). -/
def off2 {w : Nat} (i : BitVec w) : Word := sx i <<< 1

/-- The address of an M-format access: g[A] + sext(OFF6) × u mod 2^64 (R234). -/
def memAddr (base : Word) (o : BitVec 6) (u : Nat) : Word := base + sx o * word u

/-- The low `n` bits of a word, sign-extended (R131). -/
def sextLow (w : Word) (n : Nat) : Word := wordI (signedOf n w.toNat)

/-- A value of `size` bytes as a register receives it (R234). -/
def extend (v : Nat) (size : Nat) (signed : Bool) : Word :=
  if signed then wordI (signedOf (8 * size) v) else word (v % 2 ^ (8 * size))

/-- The 12-bit number of B:A (R79). -/
def num12 (h l : Fin 64) : Nat := h.val * 64 + l.val

/-! ### Vector lanes (R50) -/

/-- Lane `i` of `w` bits. -/
def lane (l : Line) (w i : Nat) : Nat := fld l (w * i) w
/-- A vector with lane `i` replaced. -/
def setLane (l : Line) (w i v : Nat) : Line := setFld l (w * i) w v
/-- A vector from its lanes: lane i is `f i`; `n` lanes of `w` bits. -/
def lanesOf (w n : Nat) (f : Nat → Nat) : Line :=
  BitVec.ofNat 512 ((List.range n).foldr (fun i acc => f i % 2 ^ w * 2 ^ (w * i) + acc) 0)

/-! ### Addresses -/

/-- Bit 63 chooses mesh space (R192, R231). -/
def isMesh (a : Word) : Bool := bitOf a 63

/-- A mesh address resolved to its device, column, row and byte offset, for the core at (x, y) of device `dev`; none when a
zero field is not zero or the target lies off the mesh (R192, R193). -/
def meshTarget (dev c : Nat) (a : Word) : Option (Nat × Nat × Nat × Nat) :=
  let offset := fld a 0 21
  if fld a 21 13 != 0 || bitOf a 46 then none
  else if bitOf a 62 then
    let x : Int := (c % 32 : Nat) + signedOf 6 (fld a 40 6)
    let y : Int := (c / 32 : Nat) + signedOf 6 (fld a 34 6)
    if fld a 47 15 != 0 || x < 0 || x > 31 || y < 0 || y > 23 then none
    else some (dev, x.toNat, y.toNat, offset)
  else
    let x := fld a 40 6
    let y := fld a 34 6
    if x > 31 || y > 23 then none else some (fld a 47 15, x, y, offset)

/-- The absolute mesh address of a byte (R192). -/
def meshWord (dev x y off : Nat) : Word := word (2 ^ 63 + dev * 2 ^ 47 + x * 2 ^ 40 + y * 2 ^ 34 + off)

/-- The target lies inside a MESHWIN rectangle (R367, R368). -/
def inWindow (win : Word) (dev own x y : Nat) : Bool :=
  decide (fld win 0 5 ≤ x) && decide (x ≤ fld win 16 5) && decide (fld win 8 5 ≤ y) && decide (y ≤ fld win 24 5)
    && (dev == own || bitOf win 63)

/-- The router of a position is in passive bypass: the position is dead, or it was bypassed at run time (R18, R382). -/
def State.bypassed (s : State) (n : Nat) : Bool := !s.present n || s.bypass.contains n

/-- A route exists: a request turns at (xd, ys), or at (xs, yd) when that router is in bypass (R195). -/
def State.routeOk (s : State) (src dst : Nat) : Bool :=
  let xs := src % 32
  let ys := src / 32
  let xd := dst % 32
  let yd := dst / 32
  xs == xd || ys == yd || !s.bypassed (ys * 32 + xd) || !s.bypassed (yd * 32 + xs)

/-- Bytes of scratchpad of a core (R25). -/
def Core.scratch (k : Core) : Nat := k.ways * 131072

/-- The checks of the issuing core on a mesh access of `size` bytes (R193, R368): the device, core and offset it names. -/
def State.meshCheck (s : State) (c : Nat) (win a : Word) (size : Nat) : Option (Nat × Nat × Nat) :=
  match meshTarget s.devnum c a with
  | none => none
  | some (dev, x, y, o) =>
    let n := y * 32 + x
    if !inWindow win dev s.devnum x y then none
    else if dev == s.devnum && n == c && o + size > (s.coreAt c).scratch then none
    else if dev == s.devnum && !s.routeOk c n then none
    else some (dev, n, o)

/-- The relative mesh address of a neighbour's slot, as traps of the neighbour form hold it (R248). -/
def neighbourAddr (r : Dir) (slot : Nat) : Word :=
  let dx := match r with | .e => 1 | .w => 63 | _ => 0
  let dy := match r with | .s => 1 | .n => 63 | _ => 0
  word (3 * 2 ^ 62 + dx * 2 ^ 40 + dy * 2 ^ 34 + slot)

/-- The home slice of a local physical address (R190). -/
def homeSlice (pa : Nat) (sync : Bool) : Nat :=
  if sync then (pa / 2 ^ 12 % 128) ^^^ (pa / 2 ^ 19 % 128) else (pa / 2 ^ 8 % 128) ^^^ (pa / 2 ^ 15 % 128)

/-- The home device of a physical address (R188). -/
def paDev (pa : Nat) : Nat := pa / 2 ^ 39
/-- The local offset of a physical address (R23). -/
def paOff (pa : Nat) : Nat := pa % 2 ^ 39

/-- The SYNC pool (R263). -/
def inPool (off : Nat) : Bool := decide (0x7C00000000 ≤ off ∧ off < 0x7E00000000)
/-- The tag carve-out (R263). -/
def inCarve (off : Nat) : Bool := decide (0x7E00000000 ≤ off ∧ off < 0x7E20000000)
/-- A range of local offsets reaches the tag carve-out (R263). -/
def meetsCarve (off n : Nat) : Bool := decide (0 < n ∧ off < 0x7E20000000 ∧ 0x7E00000000 < off + n)

/-- The place of a die (R16). -/
def dieOf (c : Nat) : Nat := 2 * (if c / 32 ≥ 12 then 1 else 0) + (if c % 32 ≥ 16 then 1 else 0)

/-- The adjacent position in a direction, if it is on the mesh (R248). -/
def neighbour (c : Nat) (r : Dir) : Option Nat :=
  match r with
  | .n => if c / 32 = 0 then none else some (c - 32)
  | .s => if c / 32 ≥ 23 then none else some (c + 32)
  | .e => if c % 32 = 31 then none else some (c + 1)
  | .w => if c % 32 = 0 then none else some (c - 1)

end Sys2Proof.Machine
end

