-- ==== Sys2Proof/Machine/Coh.lean ====
section
/-! DEFINITION. Home memory under ASIDs (R371, R372), tags (R263), and the coherent view of a line: what a request that is
ordered now reads, and an access performed at the home once every copy has been recalled (R204). The walker, save images
and host frames reach memory this way; threads reach it through L1 and home messages. -/

namespace Sys2Proof.Machine

open Sys2Proof

/-- What ASID `want` sees of a line held under ASID `have_`: the ciphertext of the one decrypted with the key of the other
(R372). -/
def keyed (boot want have_ line : Nat) (lv : LineVal) : LineVal :=
  if want = have_ then lv else { lv with data := decryptLine boot want line (encryptLine boot have_ line lv.data) }

/-- The home's copy of a line as ASID `asid` sees it; a line that nothing has written reads zero (R371). -/
def State.homeLine (s : State) (asid line : Nat) : LineVal :=
  match tget? s.memAsid line with
  | none => cellLine s.mem s.memBad (line * 64)
  | some a => keyed s.boots asid a line (cellLine s.mem s.memBad (line * 64))

/-- Write a line at its home under an ASID. -/
def State.setHomeLine (s : State) (asid line : Nat) (lv : LineVal) : State :=
  { s with mem := mput (line * 64) (lineBytes lv.data) s.mem, memAsid := tset line asid s.memAsid,
           memBad := putMask s.memBad (line * 64) lv.bad }

/-- An access that stored: a failed ACAS, and an atomic that met poison, perform no store (R236). -/
def stored (a : Access) (r : Result) : Bool :=
  match a, r with
  | .load _, _ | .fetch, _ => false
  | .atomic .cas _ x0, .value v => v.setWidth 64 == x0
  | .atomic .., .poison _ => false
  | _, _ => true

/-- An access performed on the home's own copy (R191, R197). -/
def State.homeAcc (s : State) (asid pa : Nat) (a : Access) : State × Result :=
  let (lv, r) := accLine (s.homeLine asid (pa / 64)) (pa % 64) a
  if stored a r then (s.setHomeLine asid (pa / 64) lv, r) else (s, r)

/-! ### Tags (R263) -/

/-- The carve-out byte of a pool word. -/
def tagAddr (off : Nat) : Nat := 0x7E00000000 + (off - 0x7C00000000) / 16

/-- The 4-bit tag of the pool word at a local offset. -/
def State.tag (s : State) (off : Nat) : Nat :=
  (mread s.mem (tagAddr off)).toNat / (if off / 8 % 2 = 1 then 16 else 1) % 16

/-- The type of a pool word (R265). -/
def State.typeOf (s : State) (off : Nat) : Nat := s.tag off % 8

/-- Set the tag of a pool word; the carve-out is held under the device key (R372). -/
def State.setTag (s : State) (off t : Nat) : State :=
  let old := (mread s.mem (tagAddr off)).toNat
  let new := if off / 8 % 2 = 1 then old % 16 + t % 16 * 16 else old / 16 * 16 + t % 16
  { s with mem := mwrite (tagAddr off) (BitVec.ofNat 8 new) s.mem, memAsid := tset (tagAddr off / 64) deviceKeyNo s.memAsid }

/-- The tag word of a pool word is poisoned (R375). -/
def State.tagBad (s : State) (off : Nat) : Bool := s.memBad.contains (tagAddr off / 8)

/-! ### The coherent view -/

/-- An L1 state that lists the line as its owner's (R222). -/
def L1St.owns : L1St → Bool
  | .mod | .own | .exc | .om => true
  | _ => false
/-- An L1 state whose bytes may be newer than the home's. -/
def L1St.dirty : L1St → Bool
  | .mod | .own | .om | .mi => true
  | _ => false
/-- A stable L1 state (R222). -/
def L1St.stable : L1St → Bool
  | .mod | .own | .exc | .shr => true
  | _ => false

/-- The line that a message between L1s, or to the home, carries with ownership. -/
def carried (line : Nat) (m : Msg) : Option LineVal :=
  match m.src, m.body with
  | .core _, .grant l true (some lv) => if l = line then some lv else none
  | _, .snoopAck l _ (some lv) => if l = line then some lv else none
  | _, _ => none

/-- A directory entry. -/
def State.dirAt (s : State) (line : Nat) : DirEnt := tget s.dir line {}
/-- A directory entry replaced. -/
def State.setDir (s : State) (line : Nat) (d : DirEnt) : State := { s with dir := tset line d s.dir }

/-- The newest bytes of a line outside its home, with the ASID they are held under: a dirty copy, data on its way with
ownership, or the owner's eviction buffer. A private page's copies are no such place (R228, R230). -/
def State.holderLine (s : State) (line : Nat) : Option (Nat × LineVal) :=
  match s.cores.findSome? fun c => (tget? c.2.l1 line).bind fun l =>
      if l.st.owns && l.st.dirty && !l.via.priv then some (l.via.asid, l.lv) else none with
  | some r => some r
  | none =>
    match s.net.findSome? (carried line) with
    | some lv => some ((s.dirAt line).asid, lv)
    | none =>
      match (s.dirAt line).owner with
      | none => none
      | some o => (tget? (s.coreAt o).l1 line).bind fun l =>
          if l.st.dirty && !l.via.priv then some (l.via.asid, l.lv) else none

/-- A line of home memory carries the initial mark: nothing has been written back to it (R371). -/
def State.marked (s : State) (line : Nat) : Bool := (tget? s.memAsid line).isNone

/-- A coherent read of a line under an ASID; a line with the initial mark reads zero under every other (R371). -/
def State.peekLine (s : State) (asid line : Nat) : LineVal :=
  match s.holderLine line with
  | some (a, lv) => if a != asid && s.marked line then s.homeLine asid line else keyed s.boots asid a line lv
  | none => s.homeLine asid line

/-- A message is part of a request on a line that its home has ordered. -/
def Body.concerns (line : Nat) : Body → Bool
  | .grant l .. | .fwd l .. | .inval l | .wb l .. | .evict l _ | .wbAck l | .snoopAck l .. | .push l .. | .pushOut l .. =>
    l == line
  | _ => false

/-- Nothing that the home has ordered for a line is in progress: the next request can be ordered and performed (R221). -/
def State.lineQuiet (s : State) (line : Nat) : Bool :=
  (s.dirAt line).busy.isNone && (s.dirAt line).queue.isEmpty && (s.net.all fun m => !m.body.concerns line)
    && s.cores.all fun c => match tget? c.2.l1 line with
      | some l => l.held.isEmpty
      | none => true

/-- The lines of `n` bytes from a local offset. -/
def linesOf (off n : Nat) : List Nat :=
  if n = 0 then [] else (List.range ((off + n - 1) / 64 - off / 64 + 1)).map (off / 64 + ·)

/-- The lines of a range are quiet. -/
def State.bytesQuiet (s : State) (off n : Nat) : Bool := (linesOf off n).all s.lineQuiet

/-- A copy of a line gives way to a request that its home orders (R224): a stable one goes to I, and a pending upgrade becomes
a read-exclusive. -/
def Core.loseCopy (line : Nat) (k : Core) : Core :=
  match tget? k.l1 line with
  | none => k
  | some l =>
    if l.via.priv then k
    else
      match l.st with
      | .mod | .own | .exc | .shr => { k with l1 := tdel line k.l1 }
      | .sm | .om => { k with l1 := tset line { l with st := .im, pm := false } k.l1 }
      | _ => k

/-- Every copy of a quiet line is recalled to its home (R215, R221, R364, R372). -/
def State.recall (s : State) (line : Nat) : State :=
  let d := s.dirAt line
  if d.owner.isNone && d.sharers.isEmpty then s
  else
    let s := match s.holderLine line with
      | some (a, lv) => s.setHomeLine a line lv
      | none => s
    { s.setDir line { d with owner := none, sharers := [] } with cores := s.cores.map fun c => (c.1, c.2.loseCopy line) }

/-- A read under an ASID at the home: under another than the line's it recalls every copy first, unless the line carries the initial
mark (R371, R372). -/
def State.recallAlien (s : State) (asid line : Nat) : State :=
  if (s.dirAt line).asid == asid || s.marked line then s else s.recall line

/-- A read under an ASID finds no line of `n` bytes from a local offset that must be recalled while a request on it is in progress. -/
def State.underQuiet (s : State) (asid off n : Nat) : Bool :=
  (linesOf off n).all fun l => (s.dirAt l).asid == asid || s.marked l || s.lineQuiet l

/-- The lines of `n` bytes from a local offset are read under an ASID. -/
def State.readUnder (s : State) (asid off n : Nat) : State := (linesOf off n).foldl (fun s l => s.recallAlien asid l) s

/-- An access performed at the home of a quiet line after every copy has been recalled (R197, R237, R364). -/
def State.atHome (s : State) (asid pa : Nat) (a : Access) : State × Result := (s.recall (pa / 64)).homeAcc asid pa a

/-- A coherent read of the 8-byte word at a local offset, with its poison. -/
def State.peekWord (s : State) (asid off : Nat) : Nat × Bool :=
  let lv := s.peekLine asid (off / 64)
  (lineNum lv.data (off % 64 / 8 * 8) 8, bitOf lv.bad (off % 64 / 8))

/-- A write of the 8-byte word at a local offset, at its home. -/
def State.pokeWord (s : State) (asid off : Nat) (w : Word) : State := (s.atHome asid off (.store 8 (w.setWidth 512))).1

/-- Bytes of local memory, coherently. -/
def State.peekBytes (s : State) (asid : Nat) : Nat → Nat → List Byte
  | _, 0 => []
  | off, n + 1 => lineByte (s.peekLine asid (off / 64)).data (off % 64) :: s.peekBytes asid (off + 1) n

/-- Write bytes of local memory at their homes: one access to each 8-byte word they touch, in rising order. The first number
bounds the words. -/
def State.pokeWords (s : State) (asid : Nat) : Nat → Nat → List Byte → State
  | 0, _, _ => s
  | f + 1, off, bs =>
    if bs.isEmpty then s
    else
      let n := min bs.length (8 - off % 8)
      State.pokeWords (s.atHome asid off (.store n (BitVec.ofNat 512 (leNat (bs.take n))))).1 asid f (off + n) (bs.drop n)

/-- Write bytes of local memory at their homes. -/
def State.pokeBytes (s : State) (asid off : Nat) (bs : List Byte) : State := s.pokeWords asid bs.length off bs

end Sys2Proof.Machine
end

