-- ==== Sys2Proof/Machine/Cache.lean ====
section
/-! DEFINITION. The L1 data cache (R24, R25, R222 to R225): its places, accesses, the end of a transient state, snoops and
evictions. -/

namespace Sys2Proof.Machine

open Sys2Proof

/-- A line of a core's L1. -/
def Core.lineAt (k : Core) (line : Nat) : Option L1Line := tget? k.l1 line
/-- A line of a core's L1 replaced. -/
def State.setLine (s : State) (c line : Nat) (l : L1Line) : State :=
  s.modCore c fun k => { k with l1 := tset line l k.l1 }
/-- A line of a core's L1 dropped to I. -/
def State.dropLine (s : State) (c line : Nat) : State := s.modCore c fun k => { k with l1 := tdel line k.l1 }

/-- PSHCNT.COUNT: lines that carry PM (R247). -/
def Core.pmCount (k : Core) : Nat := (k.l1.filter fun e => e.2.pm).length

/-- A use of a line makes it the latest of the L1's order (R246). -/
def Core.touch (k : Core) (line : Nat) : Core := { k with lru := k.lru.filter (· != line) ++ [line] }
/-- A line of a core's L1 replaced by a use of it. -/
def State.useLine (s : State) (c line : Nat) (l : L1Line) : State :=
  s.modCore c fun k => ({ k with l1 := tset line l k.l1 }).touch line

/-- A fresh line in a state. -/
def freshLine (st : L1St) (via : Via) : L1Line :=
  { st := st, pm := false, via := via, lv := ⟨0, 0⟩, waits := [], held := [], inval := none, cinv := false, pref := none }

/-- The home slice of an ordinary line. -/
def lineSlice (line : Nat) : Node := .slice (homeSlice (line * 64) false)

/-- Send a request of an L1 to the home of a line. -/
def State.askHome (s : State) (c line asid : Nat) (priv : Bool) (k : HomeKind) (slot id : Nat) : State :=
  s.send (.core c) (lineSlice line) (.home ⟨⟨s.devnum, c, slot, id⟩, asid, line, priv, false, k⟩)

/-- Whether an access may be performed in a state (R224). -/
def L1St.allows (st : L1St) (a : Access) : Bool :=
  match a with
  | .load _ | .fetch => match st with | .mod | .own | .exc | .shr => true | _ => false
  | _ => match st with | .mod | .exc => true | _ => false

/-- An access of the core itself waits on the line and touches one of the words of this one (R199). -/
def L1Line.shadowed (l : L1Line) (off : Nat) (a : Access) : Bool :=
  l.waits.any fun w => Access.writes w.a && decide (w.off < off + Access.bytes a ∧ off < w.off + Access.bytes w.a)

/-- Perform an access on a held line: M after a write, PM cleared by a load (R224, R246). -/
def L1Line.perform (l : L1Line) (off : Nat) (a : Access) : L1Line × Result :=
  let (lv, r) := accLine l.lv off a
  match a with
  | .load _ | .fetch => ({ l with pm := false }, r)
  | _ => ({ l with lv := lv, st := .mod, pm := false }, r)

/-- Evict a line: a write-back from M or O, a notice from E, silence from S (R224, R225). -/
def State.evictLine (s : State) (c line : Nat) : State :=
  match (s.coreAt c).lineAt line with
  | none => s
  | some l =>
    match l.st with
    | .mod | .own =>
      (s.setLine c line { l with st := .mi, pm := false }).send (.core c) (lineSlice line) (.wb line l.via.asid l.via.priv l.lv)
    | .exc => (s.setLine c line { l with st := .ei, pm := false }).send (.core c) (lineSlice line) (.evict line l.via.priv)
    | .shr => s.dropLine c line
    | _ => s

/-! ### Places of the L1 (R24, R25, R246) -/

/-- An L1 state whose line occupies a place; a miss takes its place with the fill, and an eviction buffer holds none. -/
def L1St.placed : L1St → Bool
  | .is | .im | .mi | .ei => false
  | _ => true

/-- The places of a set: the ways that SPMASK leaves the L1 (R25). -/
def Core.places (k : Core) : Nat := 12 - k.ways

/-- The other lines that occupy places of a line's set. -/
def Core.sameSet (k : Core) (line : Nat) : List (Nat × L1Line) :=
  k.l1.filter fun e => e.2.st.placed && e.1 != line && Config.l1Set e.1 % 2048 == Config.l1Set line % 2048

/-- No place of a line's set is free: a way of 128 KiB gives every one of 2,048 sets one place (R24). -/
def Core.setFull (k : Core) (line : Nat) : Bool :=
  decide (k.places ≤ k.l1.length) && decide (k.places ≤ (k.sameSet line).length)

/-- The least recently used of some lines (R246). -/
def Core.oldest (k : Core) (ls : List Nat) : Option Nat := (k.lru.find? fun l => ls.contains l).or ls.head?

/-- A line is to take a place: the line named gives up its own, and when the set is still full its least recently used line in a
stable state does (log entry 90). -/
def State.makeRoom (s : State) (c line : Nat) (victim : Option Nat) : State :=
  let s := match victim with
    | some v => if v = line then s else s.evictLine c v
    | none => s
  let k := s.coreAt c
  if k.setFull line then
    match k.oldest (((k.sameSet line).filter fun e => e.2.st.stable).map (·.1)) with
    | some v => s.evictLine c v
    | none => s
  else s

/-! ### Accesses -/

/-- An access came through the page that a line is held for (R230, R369, R372). -/
def L1Line.fits (l : L1Line) (w : L1Acc) : Bool := l.via == w.via

/-- Lines that miss: the first waiting access of an absent line opens the transient state it needs (R224). -/
def State.openMiss (s : State) (c line : Nat) (ws : List L1Acc) : State :=
  match ws with
  | [] => s.dropLine c line
  | w :: _ =>
    match w.a with
    | .load _ | .fetch =>
      (s.setLine c line { freshLine .is w.via with waits := ws }).askHome c line w.via.asid w.via.priv .read w.slot w.id
    | _ =>
      (s.setLine c line { freshLine .im w.via with waits := ws }).askHome c line w.via.asid w.via.priv .readEx w.slot w.id

/-- A line that an access does not fit leaves the L1, and accesses wait for its return under theirs (R230, R372). -/
def State.changeHands (s : State) (c line : Nat) (ws : List L1Acc) : State :=
  let s := s.evictLine c line
  match (s.coreAt c).lineAt line with
  | some l => s.setLine c line { l with waits := ws }
  | none => s.openMiss c line ws

/-- An access of a thread reaches its own L1. It is performed at once, or it waits at the line (R224). A line it does not fit
is first evicted. -/
def State.l1Access (s : State) (c line : Nat) (w : L1Acc) : State × Option Result :=
  match (s.coreAt c).lineAt line with
  | none => (s.openMiss c line [w], none)
  | some l =>
    if !l.fits w then (s.changeHands c line (l.waits ++ [w]), none)
    else if l.st.allows w.a && l.waits.isEmpty then
      let (l', r) := l.perform w.off w.a
      (s.useLine c line l', some r)
    else
      match l.st, w.a with
      | .sm, .load _ | .om, .load _ | .sm, .fetch | .om, .fetch =>
        if l.shadowed w.off w.a then (s.setLine c line { l with waits := l.waits ++ [w] }, none)
        else (s.useLine c line l, some (accLine l.lv w.off w.a).2)
      | .shr, _ =>
        ((s.setLine c line { l with st := .sm, pm := false, waits := l.waits ++ [w] }).askHome c line w.via.asid false .upgrade
          w.slot w.id, none)
      | .own, _ =>
        ((s.setLine c line { l with st := .om, waits := l.waits ++ [w] }).askHome c line w.via.asid false .upgrade w.slot w.id,
          none)
      | _, _ => (s.setLine c line { l with waits := l.waits ++ [w] }, none)

/-- A waiting access is performed: a value goes to its thread as a reply, a store leaves the thread's counts (R210). -/
def State.completeAcc (s : State) (c : Nat) (w : L1Acc) (r : Result) : State :=
  match w.a with
  | .store .. | .taint => s.modThread c w.slot fun t => { t with outs := t.outs.filter fun o => o.id != w.id }
  | _ => s.send (.core c) (.core c) (.reply w.slot w.id r)

/-- Perform the accesses that wait at a line as far as its state allows; the first that needs M asks for an upgrade, and the
first that the line does not fit makes it change hands. -/
def State.drainLine (s : State) (c line : Nat) : List L1Acc → State
  | [] => match (s.coreAt c).lineAt line with
          | some l => s.setLine c line { l with waits := [] }
          | none => s
  | w :: ws =>
    match (s.coreAt c).lineAt line with
    | none => s.openMiss c line (w :: ws)
    | some l =>
      if !l.fits w then s.changeHands c line (w :: ws)
      else if l.st.allows w.a then
        let (l', r) := l.perform w.off w.a
        State.drainLine ((s.useLine c line l').completeAcc c w r) c line ws
      else
        match l.st with
        | .shr => (s.setLine c line { l with st := .sm, pm := false, waits := w :: ws }).askHome c line l.via.asid false
                    .upgrade w.slot w.id
        | .own => (s.setLine c line { l with st := .om, waits := w :: ws }).askHome c line l.via.asid false .upgrade w.slot w.id
        | _ => s.setLine c line { l with waits := w :: ws }

/-- The owner supplies a line: to the requester's L1, or to the home with the acknowledgement, which carries the line only
when it may be newer than the home's copy (R221, R224). -/
def State.supply (s : State) (c line : Nat) (excl : Bool) (dest_ : FwdTo) (l : L1Line) (info : SnoopInfo) : State :=
  match dest_ with
  | .core n =>
    let s := s.send (.core c) (.core n) (.grant line excl (some l.lv))
    if excl then s else s.send (.core c) (lineSlice line) (.snoopAck line info none)
  | .home => s.send (.core c) (lineSlice line) (.snoopAck line info (if l.st.dirty then some l.lv else none))

/-- A forwarded request at an owner (the two forwarded columns of R224); a line held for a private page is no copy that a
directory lists (R228, R230). -/
def State.forwarded (s : State) (c line : Nat) (excl : Bool) (dest_ : FwdTo) : State :=
  match ((s.coreAt c).lineAt line).filter fun l => !l.via.priv with
  | none => s.send (.core c) (lineSlice line) (.snoopAck line .invalid none)
  | some l =>
    match l.st, excl with
    | .mod, false => (s.setLine c line { l with st := .own }).supply c line excl dest_ l .kept
    | .own, false => s.supply c line excl dest_ l .kept
    | .exc, false => (s.setLine c line { l with st := .shr }).supply c line excl dest_ l .shared
    | .om, false => s.supply c line excl dest_ l .kept
    | .mi, _ | .ei, _ => s.supply c line excl dest_ l .buffer
    | .mod, true | .own, true | .exc, true => (s.dropLine c line).supply c line excl dest_ l .invalid
    | .om, true => (s.setLine c line { l with st := .im }).supply c line excl dest_ l .invalid
    | .im, _ | .sm, _ | .is, _ => s.setLine c line { l with held := l.held ++ [(excl, dest_)] }
    | .shr, _ => (if excl then s.dropLine c line else s).supply c line excl dest_ l .shared

/-- Serve the forwards held during IM, in order (R224). -/
def State.serveHeld (s : State) (c line : Nat) : List (Bool × FwdTo) → State
  | [] => s
  | (e, dest_) :: r => State.serveHeld (s.forwarded c line e dest_) c line r

/-- CINV of a line in a stable state (R240). -/
def State.cinvLine (s : State) (c line : Nat) : State :=
  match (s.coreAt c).lineAt line with
  | none => s
  | some l =>
    match l.st with
    | .shr => s.dropLine c line
    | .exc => if l.via.priv then s.dropLine c line else s.evictLine c line
    | .mod | .own => s.evictLine c line
    | _ => s.setLine c line { l with cinv := true }

/-- Ask for a line without an access: read or write intent (R241). A line held for another page leaves the L1 first, and one in a
transient state is asked for when that state ends. -/
def State.prefetch (s : State) (c line : Nat) (via : Via) (w : Bool) : State :=
  let ask (s : State) : State :=
    (s.setLine c line (freshLine (if w then .im else .is) via)).askHome c line via.asid via.priv (if w then .readEx else .read) 0 0
  match (s.coreAt c).lineAt line with
  | none => ask s
  | some l =>
    if l.via != via then
      let s := s.evictLine c line
      match (s.coreAt c).lineAt line with
      | none => ask s
      | some l => s.setLine c line { l with pref := some (via, w) }
    else
      match l.st, w with
      | .mi, _ | .ei, _ | .is, true => s.setLine c line { l with pref := some (via, w) }
      | .exc, true => s.setLine c line { l with st := .mod }
      | .shr, true => (s.setLine c line { l with st := .sm, pm := false }).askHome c line via.asid false .upgrade 0 0
      | .own, true => (s.setLine c line { l with st := .om }).askHome c line via.asid false .upgrade 0 0
      | _, _ => s

/-- A prefetch that waited for the end of a transient state (R241). -/
def State.prefetchNow (s : State) (c line : Nat) (p : Option (Via × Bool)) : State :=
  match p with
  | some (via, w) => s.prefetch c line via w
  | none => s

/-- A fill that is not kept serves the accesses it can, then the forwards it has held back; what is left misses again (R224). -/
def State.servePassing (s : State) (c line : Nat) (now_ later : List L1Acc) (held : List (Bool × FwdTo)) : State :=
  ((s.drainLine c line now_).serveHeld c line held).changeHands c line later

/-- A grant, data or acknowledgement completes a transient state, performs the accesses that wait, then serves held
forwards, a pending invalidation, a pending CINV and a pending prefetch (R224, R240, R241). A fill that an invalidation has
overtaken serves the loads that waited when it came, and no later one. A fill for which every place of its set is taken by a line
in a transient state leaves the L1 again behind the accesses that waited for it (R24; log entry 90). -/
def State.granted (s : State) (c line : Nat) (excl : Bool) (lv : Option LineVal) : State :=
  match (s.coreAt c).lineAt line with
  | none => s
  | some l =>
    let st : L1St := match l.st with
      | .is => if excl then .exc else .shr
      | _ => .mod
    let tight := (s.coreAt c).setFull line
    let s := s.useLine c line
      { l with st := st, lv := lv.getD l.lv, waits := [], held := [], inval := none, cinv := false, pref := none }
    match l.inval, l.st == .is with
    | some n, true =>
      let loads := (l.waits.take n).takeWhile fun w => !Access.writes w.a && l.fits w
      (s.servePassing c line loads (l.waits.drop loads.length) l.held).prefetchNow c line l.pref
    | _, _ =>
      if tight then
        let n := (l.waits.takeWhile fun w => st.allows w.a && l.fits w).length
        s.servePassing c line (l.waits.take n) (l.waits.drop n) l.held
      else
        let s := s.drainLine c line l.waits
        let s := s.serveHeld c line l.held
        let s := if l.cinv then s.cinvLine c line else s
        s.prefetchNow c line l.pref

/-- An invalidation at an L1 (R224): S goes to I, a pending upgrade becomes a read-exclusive, a pending read serves its
loads and then goes to I; every case is acknowledged. -/
def State.invalidated (s : State) (c line : Nat) : State :=
  let s := match ((s.coreAt c).lineAt line).filter fun l => !l.via.priv with
    | none => s
    | some l =>
      match l.st with
      | .shr => s.dropLine c line
      | .sm => s.setLine c line { l with st := .im }
      | .is => s.setLine c line { l with inval := some (l.inval.getD l.waits.length) }
      | _ => s
  s.send (.core c) (lineSlice line) (.snoopAck line .invalid none)

/-- The home has acknowledged a write-back or a notice: MI or EI ends, and accesses that waited miss (R224). -/
def State.wbAcked (s : State) (c line : Nat) : State :=
  match (s.coreAt c).lineAt line with
  | none => s
  | some l =>
    match l.st with
    | .mi | .ei => (s.openMiss c line l.waits).prefetchNow c line l.pref
    | _ => s

end Sys2Proof.Machine
end

