-- ==== Sys2Proof/Machine/Home.lean ====
section
/-! DEFINITION. The home slice: the order of requests of a line, invalidations and recalls, grants and forwards (R221, R225,
R226, R414), accesses performed at the home (R191, R233, R237, R239, R242), and push stores (R215 to R218, R245). -/

namespace Sys2Proof.Machine

open Sys2Proof

/-- A request of another device's copy command has been performed: its progress record counts it, and closes with the last
(R388). -/
def State.progressed (s : State) (w : Who) (r : Result) : State :=
  let performed := match r with | .trap .. | .reject _ => false | _ => true
  let note (p : Progress) : Option Progress :=
    if p.dev = w.dev && p.core = w.core && p.wait.contains w.id then
      if p.last == some w.id then none else some { p with count := p.count + b2n performed, wait := p.wait.erase w.id }
    else some p
  { s with progress := s.progress.filterMap note }

/-- Answer a requester, on this device or through its port. A request numbered 0 has none, and a device that is unreachable
is sent none (R386). -/
def State.answer (s : State) (src : Node) (w : Who) (r : Result) : State :=
  let s := if w.dev = s.devnum then s else s.progressed w r
  if w.id = 0 || s.podGone.contains w.dev then s
  else if w.dev = s.devnum then s.send src (.core w.core) (.reply w.slot w.id r)
  else
    let p : PodReply := match r with
      | .value v => .value v
      | .line lv => .line lv.data lv.bad
      | .done | .pushDone _ => .done
      | .reject n => .reject n
      | .poison off => .poison off
      | .trap c a b => .trap c a b
    { s with txn := s.txn + 1,
             podOut := s.podOut ++ [⟨s.txn + 1, w.dev, .reply w.core w.slot w.id p, s.time.toNat, false⟩] }

/-- The lowest word that an access touches whose type is not 0 (R233). -/
def State.typedWord (s : State) (off n : Nat) : Option Nat :=
  ((touched (off % 64) n).map fun w => off / 64 * 64 + 8 * w).find? fun o => s.typeOf o != 0

/-- An access performed at its home: a writing access to a typed word writes nothing and answers with that word's tag
(R233); loads read raw bits (R220). -/
def State.homePerform (s : State) (asid off : Nat) (sync : Bool) (a : Access) : State × Result :=
  if sync && Access.writes a then
    match s.typedWord off (Access.bytes a) with
    | some o => (s, .trap 0x09 0 (word (s.tag o * 2 ^ 60)))
    | none => s.homeAcc asid off a
  else s.homeAcc asid off a

/-- One addition into the slot at a byte offset of a line (R256, R259): the line after it. A poisoned slot stays as it is, a
poisoned source makes the slot poison, and both are answered as poison. -/
def addSlot (lv : LineVal) (off : Nat) (el : Elem) (bad : Bool) : LineVal × Result :=
  let w := off / 8
  if bitOf lv.bad w || bitOf lv.bad (w + 1) then (lv, .poison off)
  else if bad then ({ lv with bad := setBit (setBit lv.bad w true) (w + 1) true }, .poison off)
  else
    let sum := (BitVec.ofNat 96 (lineNum lv.data off 12)) + el
    ({ lv with data := linePut lv.data off 16 sum.toNat }, .done)

/-- The receivers a PST names when the home orders it: live cores, each once (R71, R245). -/
def State.receivers (s : State) (group : Bool) (sel : Word) : List Nat :=
  let l :=
    if group then (List.range 768).filter fun c => bitOf (tget s.groups (fld sel 0 8) 0) c
    else (List.range 4).map fun i => fld sel (16 * i) 16
  (l.filter s.liveCore).eraseDups

/-- The slice a request is ordered at (R190). -/
def HomeReq.slice (r : HomeReq) : Node := .slice (homeSlice (r.line * 64) r.sync)

/-- What is performed when no conflicting copy is left (R215, R221, R237, R239, R242). A read that goes past an owner under another
ASID, of a line with the initial mark, shares zeros (R371). A push store whose copies are out keeps
the line's order until every outcome is known, so that no request is ordered among them (R216 to R218). -/
def State.homeDo (s : State) (r : HomeReq) : State :=
  let line := r.line
  let src := r.slice
  let d := s.dirAt line
  match r.k with
  | .read =>
    match d.owner with
    | some o =>
      if o = r.who.core then
        (s.setDir line { d with asid := r.asid }).send src (.core r.who.core) (.grant line true (some (s.homeLine r.asid line)))
      else if d.asid != r.asid then
        (s.setDir line { d with sharers := insertNat r.who.core d.sharers }).send src (.core r.who.core)
          (.grant line false (some (s.homeLine r.asid line)))
      else
        (s.setDir line { d with busy := some ⟨r, [o], none⟩ }).send src (.core o) (.fwd line false (.core r.who.core))
    | none =>
      if d.sharers.isEmpty then
        (s.setDir line { d with owner := some r.who.core, asid := r.asid }).send src (.core r.who.core)
          (.grant line true (some (s.homeLine r.asid line)))
      else
        (s.setDir line { d with sharers := insertNat r.who.core d.sharers }).send src (.core r.who.core)
          (.grant line false (some (s.homeLine r.asid line)))
  | .readEx | .upgrade =>
    let had := d.sharers.contains r.who.core || d.owner == some r.who.core
    let d' := { d with owner := some r.who.core, sharers := [], asid := r.asid, busy := none }
    match d.owner with
    | some o =>
      if o = r.who.core then
        (s.setDir line d').send src (.core o)
          (.grant line true (if r.k == .upgrade then none else some (s.homeLine r.asid line)))
      else (s.setDir line d').send src (.core o) (.fwd line true (.core r.who.core))
    | none =>
      (s.setDir line d').send src (.core r.who.core)
        (.grant line true (if r.k == .upgrade && had then none else some (s.homeLine r.asid line)))
  | .access off a =>
    let (s, res) := s.homePerform r.asid (line * 64 + off) r.sync a
    s.answer src r.who res
  | .reduce off el bad =>
    let (lv, res) := addSlot (s.homeLine r.asid line) off el bad
    (s.setHomeLine r.asid line lv).answer src r.who res
  | .flush => s.answer src r.who .done
  | .push g sel data =>
    let s := s.setHomeLine r.asid line ⟨data, 0⟩
    let rs := s.receivers g sel
    let pid := s.txn + 1
    let s := { s with txn := pid }
    if rs.isEmpty then s.answer src r.who (.pushDone 0)
    else
      let s := s.setDir line { s.dirAt line with sharers := rs, asid := r.asid, busy := some ⟨r, rs, some pid⟩ }
      let s := rs.foldl (fun s c => s.send src (.core c) (.push line r.asid pid ⟨data, 0⟩)) s
      let named := if g then [] else (List.range 4).map fun i => fld sel (16 * i) 16
      { s with pushes := s.pushes ++ [⟨pid, r.who, rs.length, named, []⟩] }

/-- A request that reads a line and changes nothing in it. -/
def HomeKind.reads : HomeKind → Bool
  | .read => true
  | .access _ a => !Access.writes a
  | _ => false

/-- Copies a request must wait for: sharers to invalidate, and the owner when it is recalled (R215, R221, R237). A request
under another ASID recalls every copy (R372), but for a read of a line that carries the initial mark (R371). -/
def DirEnt.conflicts (d : DirEnt) (r : HomeReq) (marked : Bool) : List Nat × Option Nat :=
  let others := d.sharers.filter (· != r.who.core)
  if d.asid != r.asid then if marked && r.k.reads then ([], none) else (d.sharers, d.owner)
  else
    match r.k with
    | .read => ([], none)
    | .readEx => (others, none)
    | .upgrade => (if d.sharers.contains r.who.core || d.owner == some r.who.core then others else d.sharers, none)
    | _ => (d.sharers, d.owner)

/-- A request is ordered: invalidations and recalls go out, and when there are none it is performed (R221). A fill or
write of a private page reads and writes the home's copy without the directory (R228). -/
def State.homeBegin (s : State) (r : HomeReq) : State :=
  if r.priv || r.sync then
    match r.k with
    | .read | .readEx | .upgrade =>
      s.send (lineSlice r.line) (.core r.who.core) (.grant r.line true (some (s.homeLine r.asid r.line)))
    | _ => s.homeDo r
  else
    let d := s.dirAt r.line
    let (inv, own) := d.conflicts r (s.marked r.line)
    if inv.isEmpty && own.isNone then s.homeDo r
    else
      let src := lineSlice r.line
      let s := s.setDir r.line { d with busy := some ⟨r, inv ++ own.toList, none⟩ }
      let s := inv.foldl (fun s c => s.send src (.core c) (.inval r.line)) s
      match own with
      | some o => s.send src (.core o) (.fwd r.line true .home)
      | none => s

/-- Requests ordered behind a finished one begin in turn until one must wait (R221). -/
def State.homeNext (s : State) (line : Nat) : List HomeReq → State
  | [] => s.setDir line { s.dirAt line with queue := [] }
  | r :: rs =>
    if (s.dirAt line).busy.isSome then s.setDir line { s.dirAt line with queue := r :: rs }
    else State.homeNext (s.homeBegin r) line rs

/-- A request arrives at its home slice: it joins the line's order (R190, R221). -/
def State.homeArrive (s : State) (r : HomeReq) : State :=
  if r.priv || r.sync then s.homeBegin r
  else
    let d := s.dirAt r.line
    if d.busy.isSome || !d.queue.isEmpty then s.setDir r.line { d with queue := d.queue ++ [r] }
    else s.homeBegin r

/-- An acknowledgement of a snoop or invalidation arrives (R21, R221). The last one lets the request in progress finish. -/
def State.homeAck (s : State) (line c : Nat) (info : SnoopInfo) (lv : Option LineVal) : State :=
  let d := s.dirAt line
  match d.busy with
  | none => s
  | some b =>
    if b.out.isSome then s else
    let s := match lv with
      | some v => if d.owner == some c then s.setHomeLine d.asid line v else s
      | none => s
    let d := s.dirAt line
    let fwdRead := b.req.k == .read && d.asid == b.req.asid
    let d := if fwdRead then
        { d with owner := if info == .shared || info == .invalid then none else d.owner,
                 sharers := insertNat b.req.who.core (if info == .shared then insertNat c d.sharers else d.sharers) }
      else { d with owner := if d.owner == some c then none else d.owner, sharers := d.sharers.filter (· != c) }
    let acks := b.acks.erase c
    if !acks.isEmpty then s.setDir line { d with busy := some { b with acks := acks } }
    else
      let s := s.setDir line { d with busy := none, asid := b.req.asid }
      let s := if fwdRead then s else s.homeDo b.req
      s.homeNext line (s.dirAt line).queue

/-- A write-back arrives: stored when its sender is still the owner, or the page is private, discarded as stale
otherwise; acknowledged in every case (R225, R228). -/
def State.homeWb (s : State) (c line asid : Nat) (priv : Bool) (lv : LineVal) : State :=
  let d := s.dirAt line
  let s :=
    if priv then s.setHomeLine asid line lv
    else if d.owner == some c then (s.setHomeLine asid line lv).setDir line { d with owner := none }
    else s
  s.send (lineSlice line) (.core c) (.wbAck line)

/-- A clean eviction notice arrives (R225). -/
def State.homeEvict (s : State) (c line : Nat) (priv : Bool) : State :=
  let d := s.dirAt line
  let s := if !priv && d.owner == some c then s.setDir line { d with owner := none } else s
  s.send (lineSlice line) (.core c) (.wbAck line)

/-- Which of the receivers that a PST named in MODE 0 took a copy (R385). -/
def tookMask (named took : List Nat) : Nat :=
  (List.range named.length).foldl (fun a i => a + b2n (took.contains (named.getD i 0)) * 2 ^ i) 0

/-- A receiver's outcome arrives at the home: a refusal removes it from the sharers, and with the last outcome the home tells
the pusher and goes on with the line's order (R215, R216). -/
def State.pushOutcomeAt (s : State) (c line pid : Nat) (ok : Bool) : State :=
  match s.pushes.find? fun p => p.pid == pid with
  | none => s
  | some p =>
    let d := s.dirAt line
    let d := if ok then d else { d with sharers := d.sharers.filter (· != c) }
    let took := if ok then c :: p.took else p.took
    if p.left ≤ 1 then
      let s := ({ s with pushes := s.pushes.filter fun q => q.pid != pid }).setDir line { d with busy := none }
      (s.answer (lineSlice line) p.who (.pushDone (tookMask p.named took))).homeNext line d.queue
    else
      let s : State :=
        { s with pushes := s.pushes.map fun q => if q.pid = pid then { q with left := q.left - 1, took := took } else q }
      s.setDir line { d with busy := d.busy.map fun b => { b with acks := b.acks.erase c } }

/-- The place that a pushed copy takes: none is asked of a set with an I line, and a full set gives up its least recently
used clean line; false when it has none (R246). -/
def Core.pushRoom (k : Core) (line : Nat) : Bool × Option Nat :=
  if k.setFull line then
    match k.oldest (((k.sameSet line).filter fun e => e.2.st == .shr || e.2.st == .exc).map (·.1)) with
    | some v => (true, some v)
    | none => (false, none)
  else (true, none)

/-- A pushed copy at a receiver (R216, R246): admitted in S with PM, or refused and counted; the outcome goes home. -/
def State.pushArrive (s : State) (c line asid pid : Nat) (lv : LineVal) : State :=
  let k := s.coreAt c
  let live := k.liveSlots
  let same := !live.isEmpty && live.all fun t => (tget k.threads t {}).asid.toNat == asid
  let (room, victim) := k.pushRoom line
  if same && decide (k.pmCount < k.quota) && (k.lineAt line).isNone && !k.fenced && room then
    let s := match victim with
      | some v => s.evictLine c v
      | none => s
    let s := s.useLine c line { freshLine .shr ⟨asid, false, 0⟩ with pm := true, lv := lv }
    s.send (.core c) (lineSlice line) (.pushOut line pid true)
  else
    let s := s.modCore c fun k => { k with refused := min 65535 (k.refused + 1) }
    s.send (.core c) (lineSlice line) (.pushOut line pid false)

end Sys2Proof.Machine
end

