-- ==== Sys2Proof/Machine/Translate.lean ====
section
/-! DEFINITION. Translation: the TLB (R366), the four-level walk with its reasons (R355, R363 to R365), the classification
of pages (R227) and the reclassify (R229). -/

namespace Sys2Proof.Machine

open Sys2Proof

/-- What an access needs of its page (R231). -/
structure Need where
  r : Bool := false
  w : Bool := false
  x : Bool := false
  deriving DecidableEq, Repr

/-- The cause of a failed translation: PFEXEC, PFLOAD for an access that only reads, PFSTORE for any other (R231). -/
def Need.cause (n : Need) : Nat := if n.x then 0x07 else if n.w then 0x06 else 0x05

/-- TRAPVAL2 of a failed translation (R355). -/
def pfVal2 (reason level : Nat) : Word := word (level * 2 ^ 8 + reason)

/-- Bits 62:57 of a global address must be 0 (R188). -/
def vaBad (va : Word) : Bool := fld va 57 6 != 0

/-- The level of the leaf that maps a page of 2^bits bytes (R363). -/
def levelOf (bits : Nat) : Nat := if bits ≥ 30 then 3 else if bits ≥ 21 then 2 else 1

/-- The page an access comes through. -/
def TlbEnt.via (e : TlbEnt) (asid : Nat) : Via := ⟨asid, e.priv, if e.priv then e.pte else 0⟩

/-- A TLB entry maps an address. -/
def TlbEnt.maps (e : TlbEnt) (asid : Nat) (va : Nat) : Bool := e.asid == asid && va / 2 ^ e.bits == e.vpn

/-- The physical address an entry gives (R363). -/
def TlbEnt.pa (e : TlbEnt) (va : Nat) : Nat := e.pbase + va % 2 ^ e.bits

/-- A leaf's permission reason for an access, U before R, W and X (R349, R355). -/
def permReason (r w x u smode : Bool) (n : Need) : Option Nat :=
  if (!smode && !u) || (smode && n.x && u) then some 3
  else if (n.r && !r) || (n.w && !w) || (n.x && !x) then some 2
  else none

/-- What translation answers: a place, a miss that must walk, or a reason and level. -/
inductive Trans
  | ok (e : TlbEnt) (pa : Nat)
  | miss
  | bad (reason level : Nat)
  deriving DecidableEq, Repr

/-- An address in the exit page, which the firmware maps execute-only and U in every ASID (R336; log entry 112). -/
def onExitPage (va : Word) : Bool := va.toNat / 4096 == 0x01FFFFFFFFFFF000 / 4096

/-- Translate through the TLB (R366). A store through an entry whose page is not dirty walks again to set D (R227). The exit page
answers an access that does not execute as its rights have it (R336). -/
def Core.translate (k : Core) (asid : Nat) (smode : Bool) (va : Word) (n : Need) : Trans :=
  if vaBad va then .bad 4 0
  else if onExitPage va && !n.x then .bad ((permReason false false true true smode n).getD 2) 1
  else
    match k.tlb.find? fun e => e.maps asid va.toNat with
    | none => .miss
    | some e =>
      match permReason e.r e.w e.x e.u smode n with
      | some why => .bad why (levelOf e.bits)
      | none => if n.w && !e.dirty then .miss else .ok e (e.pa va.toNat)

/-! ### The walk -/

/-- Bit of a PTE. -/
def pteBit (p i : Nat) : Bool := p.testBit i
/-- The frame address of a PTE: PFN×2^12 (R363). -/
def pteFrame (p : Nat) : Nat := p / 2 ^ 12 % 2 ^ 42 * 2 ^ 12

/-- An entry is a pointer: V = 1 and R = W = X = 0 (R363). -/
def ptePointer (p : Nat) : Bool := !pteBit p 1 && !pteBit p 2 && !pteBit p 3

/-- Malformed entries of a level (R363, reason 5). -/
def pteMalformed (level p : Nat) : Bool :=
  if ptePointer p then level == 1 || p / 2 ^ 54 != 0 || p / 2 ^ 4 % 2 ^ 8 != 0
  else
    level == 4 || (pteBit p 2 && !pteBit p 1) || pteBit p 11
      || (level == 3 && p / 2 ^ 12 % 2 ^ 18 != 0) || (level == 2 && p / 2 ^ 12 % 2 ^ 9 != 0)
      || (level ≥ 2 && (pteBit p 6 || pteBit p 5)) || (p / 2 ^ 54 != 0 && !pteBit p 8)

/-- Index of a level (R363). -/
def levelIndex (level va : Nat) : Nat :=
  if level == 4 then va / 2 ^ 43 % 2 ^ 14
  else if level == 3 then va / 2 ^ 30 % 2 ^ 13
  else if level == 2 then va / 2 ^ 21 % 2 ^ 9
  else va / 2 ^ 12 % 2 ^ 9

/-- Table size of a level (R363). -/
def tableSize (level : Nat) : Nat := if level == 4 then 131072 else if level == 3 then 65536 else 4096

/-- A leaf found by a walk, or the reason and level it failed with. -/
inductive Leaf
  | found (level pteOff pte : Nat)
  | fail (reason level : Nat)
  deriving DecidableEq, Repr

/-- What a walk finds: its leaf, the pointers it read, and the lines of the words it read. -/
structure Walked where
  leaf  : Leaf
  ptrs  : List PtrEnt := []
  lines : List Nat := []
  deriving DecidableEq, Repr

/-- The lowest address bit that a level indexes (R363). -/
def levelShift (level : Nat) : Nat := if level == 4 then 43 else if level == 3 then 30 else if level == 2 then 21 else 12

/-- The walk from a table downwards; `level` levels are left (R355, R363, R364). -/
def State.walkFrom (s : State) (asid va : Nat) : Nat → Nat → Walked
  | 0, _ => { leaf := .fail 5 1 }
  | l + 1, table =>
    let level := l + 1
    if paDev table != s.devnum then { leaf := .fail 9 level }
    else if table % tableSize level != 0 then { leaf := .fail 5 level }
    else
      let off := paOff table + levelIndex level va * 8
      let (p, bad) := s.peekWord asid off
      let stop (x : Leaf) : Walked := { leaf := x, lines := [off / 64] }
      if bad then stop (.fail 8 level)
      else if !pteBit p 0 then stop (.fail 1 level)
      else if pteMalformed level p then stop (.fail 5 level)
      else if ptePointer p then
        let w := s.walkFrom asid va l (pteFrame p)
        { w with ptrs := ⟨asid, level, va / 2 ^ levelShift level, pteFrame p⟩ :: w.ptrs, lines := off / 64 :: w.lines }
      else stop (.found level off p)

/-- A pointer entry serves an address. -/
def PtrEnt.serves (e : PtrEnt) (asid va : Nat) : Bool := e.asid == asid && va / 2 ^ levelShift e.level == e.vpn

/-- Where a walk begins: at the table of the lowest pointer entry that serves the address, or at PTBASE (R362, R366). -/
def walkStart (ptrs : List PtrEnt) (asid : Nat) (ptbase va : Word) : Nat × Nat :=
  let at_ (level : Nat) : Option (Nat × Nat) :=
    (ptrs.find? fun e => e.level == level && e.serves asid va.toNat).map fun e => (level - 1, e.table)
  (([2, 3, 4].findSome? at_).getD (4, fld ptbase 17 37 * 2 ^ 17))

/-- Why the 16 entries of a 64 KiB page are refused (R355, R365): a poisoned one, or disagreement. -/
def State.groupBad (s : State) (asid pteOff : Nat) : Option Nat :=
  let base := pteOff / 128 * 128
  let first := (s.peekWord asid base).1
  if (List.range 16).any fun j => (s.peekWord asid (base + 8 * j)).2 then some 8
  else if (pteFrame first / 2 ^ 12) % 16 == 0 && (List.range 16).all fun j =>
      let p := (s.peekWord asid (base + 8 * j)).1
      pteBit p 0 && pteBit p 6 && pteFrame p == pteFrame first + j * 2 ^ 12
        && p % 2 ^ 9 == first % 2 ^ 9 && p / 2 ^ 54 == first / 2 ^ 54
    then none
  else some 7

/-- The SYNC pool and carve-out rule (R264). -/
def syncBad (p : Nat) : Bool :=
  let off := paOff (pteFrame p)
  if pteBit p 5 then !inPool off || pteBit p 6 else inPool off || inCarve off

/-- The checks of a leaf in the order of R355: 7, 6, 3, 2. -/
def State.leafCheck (s : State) (asid : Nat) (smode : Bool) (n : Need) (x : Leaf) : Leaf :=
  match x with
  | .fail r l => .fail r l
  | .found level off p =>
    match if pteBit p 6 then s.groupBad asid off else none with
    | some r => .fail r level
    | none =>
      if syncBad p then .fail 6 level
      else
        match permReason (pteBit p 1) (pteBit p 2) (pteBit p 3) (pteBit p 4) smode n with
        | some r => .fail r level
        | none => .found level off p

/-- A walk of an address with the pointer entries it may use (R363, R366). -/
def State.walkWith (s : State) (ptrs : List PtrEnt) (asid : Nat) (ptbase va : Word) (smode : Bool) (n : Need) : Walked :=
  if vaBad va then { leaf := .fail 4 0 }
  else
    let (level, table) := walkStart ptrs asid ptbase va
    let w := s.walkFrom asid va.toNat level table
    let group := match w.leaf with
      | .found _ off p => if pteBit p 6 then [off / 128 * 2, off / 128 * 2 + 1] else []
      | .fail .. => []
    { w with leaf := s.leafCheck asid smode n w.leaf, lines := w.lines ++ group }

/-- The leaf of a walk from PTBASE. -/
def State.walk (s : State) (asid : Nat) (ptbase va : Word) (smode : Bool) (n : Need) : Leaf :=
  (s.walkWith [] asid ptbase va smode n).leaf

/-- What a walk leaves (R364, R366): the copies of the lines it read have been recalled, and its pointers are kept. -/
def State.walkTrace (s : State) (c : Nat) (w : Walked) : State :=
  (w.lines.foldl State.recall s).modCore c fun k =>
    { k with ptrs := k.ptrs.filter (fun e => !w.ptrs.contains e) ++ w.ptrs }

/-- Bits of the page a leaf maps. -/
def pageBits (level p : Nat) : Nat :=
  if level == 3 then 30 else if level == 2 then 21 else if pteBit p 6 then 16 else 12

/-- The TLB entry of a leaf. -/
def leafEntry (asid va level pteOff p : Nat) (priv dirty : Bool) : TlbEnt :=
  let bits := pageBits level p
  { asid := asid, bits := bits, vpn := va / 2 ^ bits,
    pbase := if bits = 16 then pteFrame p / 2 ^ 16 * 2 ^ 16 else pteFrame p,
    r := pteBit p 1, w := pteBit p 2, x := pteBit p 3, u := pteBit p 4, sync := pteBit p 5, nc := pteBit p 7,
    priv := priv, dirty := dirty, pte := pteOff }

/-- Whether a page may be classified: local, cacheable, neither SYNC nor part of a 64 KiB page (R227). -/
def State.classifies (s : State) (p : Nat) : Bool :=
  paDev (pteFrame p) == s.devnum && !pteBit p 5 && !pteBit p 6 && !pteBit p 7

/-- Put an entry into the TLB, removing an older entry of the same page; a full TLB gives up the entry named (log entry 92). -/
def Core.fillTlb (k : Core) (e : TlbEnt) (evict : Nat) : Core :=
  let l := k.tlb.filter fun o => !(o.asid == e.asid && o.bits == e.bits && o.vpn == e.vpn)
  let l := if l.length ≥ 64 then l.eraseIdx (evict % 64) else l
  { k with tlb := l ++ [e] }

/-- A PTE as the walker writes it: bits set, and OWNER with PRIV when the page becomes private (R227). -/
def pteSet (p : Nat) (priv : Option Nat) (dirty : Bool) : Nat :=
  let p := p ||| 2 ^ 9
  let p := if dirty then p ||| 2 ^ 10 else p
  match priv with
  | some c => (p ||| 2 ^ 8) + c * 2 ^ 54
  | none => p

/-- A page-table word that the walker may not change: a tag, or a typed word, which only its SSP changes (R263, R266). -/
def State.pteLocked (s : State) (off : Nat) : Bool := inCarve off || (inPool off && s.typeOf off != 0)

/-- The walker's update of a PTE (R364); one of a word that only an SSP changes is refused (R266). -/
def State.pokePte (s : State) (asid off p : Nat) : State := if s.pteLocked off then s else s.pokeWord asid off (word p)

/-- A walk has found its leaf: the walker classifies the page in one update of the PTE and fills the TLB; a page private
to another core answers its owner (R227). A PTE with PRIV = 1 is taken by its PRIV rows whatever A holds (log entry 91), and one
that the walker may not change is filled as shared (log entry 113). -/
def State.fill (s : State) (c asid : Nat) (va : Word) (write : Bool) (evict level off p : Nat) : State × Option Nat :=
  let dirty := write || pteBit p 10
  let put (s : State) (q : Nat) : State := if q = p then s else s.pokePte asid off q
  let ins (s : State) (q : Nat) (priv : Bool) : State :=
    s.modCore c fun k => k.fillTlb (leafEntry asid va.toNat level off q priv (pteBit q 10)) evict
  if !s.classifies p || s.pteLocked off then
    let q := pteSet p none dirty
    (ins (put s q) q false, none)
  else if pteBit p 8 then
    let owner := p / 2 ^ 54
    if owner = c then
      let q := pteSet p none dirty
      (ins (put s q) q true, none)
    else (s, some owner)
  else if !pteBit p 9 then
    let q := pteSet p (some c) dirty
    (ins (put s q) q true, none)
  else
    let q := pteSet p none dirty
    (ins (put s q) q false, none)

/-! ### Reclassify (R229) -/

/-- The lines of an L1 that are held for the private page of a PTE. -/
def Core.pageLines (k : Core) (pte : Nat) : List (Nat × L1Line) := k.l1.filter fun e => e.2.via.priv && e.2.via.pte == pte

/-- No line of the page of a PTE is in a transient state, no access and no prefetch of it waits at any line, and no queued ACCRD or ACCSAVE and no late
write of a copy command goes to it: every access issued before is performed (R229 step 2). -/
def Core.pageQuiet (k : Core) (pte : Nat) : Bool :=
  ((k.pageLines pte).all fun e => e.2.st.stable)
    && (k.l1.all fun e => (e.2.waits.all fun w => !(w.via.priv && w.via.pte == pte)) && match e.2.pref with
      | some (v, _) => !(v.priv && v.pte == pte)
      | none => true)
    && (k.mq.all fun m => m.writes.all fun x => match x.2 with | .glob e _ => !(e.priv && e.pte == pte) | _ => true)
    && k.lateq.all fun x => match x.place with | some (.glob e _) => !(e.priv && e.pte == pte) | _ => true

/-- Write back every dirty line of a page at its home and invalidate every line of it (R229 step 3). -/
def State.flushPage (s : State) (c pte : Nat) : State :=
  let s := ((s.coreAt c).pageLines pte).foldl (fun s e =>
    if e.2.st == .mod || e.2.st == .own then s.setHomeLine e.2.via.asid e.1 e.2.lv else s) s
  s.modCore c fun k => { k with l1 := k.l1.filter fun e => !(e.2.via.priv && e.2.via.pte == pte) }

/-- The owner performs a reclassify: write-backs, PRIV cleared in the PTE, its own TLB entry removed (R229 steps 3, 4). A
page that is no longer private needs nothing. -/
def State.reclassify (s : State) (c asid pteOff : Nat) : State :=
  let p := (s.peekWord asid pteOff).1
  if !pteBit p 8 then s
  else
    let s := s.flushPage c pteOff
    let s := s.pokePte asid pteOff (p % 2 ^ 54 - 2 ^ 8)
    s.modCore c fun k => { k with tlb := k.tlb.filter fun e => e.pte != pteOff }

/-- The page of a PTE has no access of its owner in progress (R229 step 2), and the PTE can be written (R364). -/
def State.reclassReady (s : State) (c pteOff : Nat) : Bool := s.lineQuiet (pteOff / 64) && (s.coreAt c).pageQuiet pteOff

/-- The physical address that a walk gives a thread's address: for a command resumed from an image, and for what the debug unit
and reports name (R392, R401). -/
def State.resolve (s : State) (th : Thread) (va : Word) (n : Need) : Option Nat :=
  match s.walk th.asid.toNat th.ptbase va th.smode n with
  | .found level off p => some ((leafEntry th.asid.toNat va.toNat level off p false false).pa va.toNat)
  | .fail .. => none

end Sys2Proof.Machine
end

