-- ==== Sys2Proof/Machine/Access.lean ====
section
/-! DEFINITION. One access of a thread: the checks of R231 in their order, the waits of R202 and R206 to R211, the place
where it is performed (R197), and what is left outstanding. -/

namespace Sys2Proof.Machine

open Sys2Proof

/-- The line number of an access that touches no local line. -/
def noLine : Nat := 2 ^ 40

/-- The answer of the issue checks. -/
inductive Chk
  | trap (cause : Nat) (v1 v2 : Word)
  | walk (va : Word) (n : Need)
  | ok (p : Place)
  deriving DecidableEq, Repr

/-- The addressing context of a thread or engine command. -/
structure ACtx where
  core  : Nat
  asid  : Nat
  smode : Bool
  win   : Word
  deriving DecidableEq, Repr

/-- The performing thread's context. -/
def State.actx (s : State) : ACtx := ⟨s.cur.1, s.th.asid.toNat, s.th.smode, s.th.meshwin⟩

/-- The place of an address whose alignment is right: the mesh checks of R193, or translation (R231 steps 2 and 3). -/
def State.placeOf (s : State) (x : ACtx) (va : Word) (size : Nat) (n : Need) : Chk :=
  if isMesh va then
    match s.meshCheck x.core x.win va size with
    | none => .trap 0x08 va 0
    | some (dev, c, o) =>
      if dev != s.devnum then .ok (.podMesh dev c o) else if c = x.core then .ok (.own o) else .ok (.mesh c o)
  else
    match (s.coreAt x.core).translate x.asid x.smode va n with
    | .bad r l => .trap n.cause va (pfVal2 r l)
    | .miss => .walk va n
    | .ok e pa => .ok (.glob e pa)

/-- The checks of one access in the order of R231. -/
def State.check (s : State) (x : ACtx) (va : Word) (size align : Nat) (n : Need) : Chk :=
  if va.toNat % align != 0 then .trap 0x04 va 0 else s.placeOf x va size n

/-- The checks of several accesses in order; the first that fails decides (R235). -/
def State.checkAll (s : State) (x : ACtx) (size align : Nat) (n : Need) : List Word → Except Chk (List (Word × Place))
  | [] => .ok []
  | va :: r =>
    match s.check x va size align n with
    | .ok p => (State.checkAll s x size align n r).map fun l => (va, p) :: l
    | e => .error e

/-- The performing thread waits for a page walk (R366). -/
def State.startWalk (s : State) (va : Word) (n : Need) (len : Nat) (drop : Bool := false) : State :=
  s.modTh fun t => { t with life := .parked .walk, walk := some ⟨va, n.r, n.w, n.x, drop, len, none⟩ }

/-- What a failed check does to the performing thread. -/
def State.failChk (s : State) (c : Chk) (len : Nat) : State :=
  match c with
  | .trap cause v1 v2 => s.trap cause v1 v2 len
  | .walk va n => s.startWalk va n len
  | .ok _ => s

/-! ### Watchpoints on accesses (R398, R399) -/

/-- Trailing one bits of a number, counted up to a bound. -/
def trailingOnes : Nat → Nat → Nat
  | 0, _ => 0
  | f + 1, a => if a % 2 = 1 then trailingOnes f (a / 2) + 1 else 0

/-- The range of a watchpoint of kind 0 or 1: first byte and length (R398). -/
def watchRange (w : Word) : Nat × Nat :=
  let a := fld w 3 54
  let t := trailingOnes 54 a
  (a / 2 ^ (t + 1) * 2 ^ (t + 1) * 8, 2 ^ (t + 4))

/-- The first watchpoint of a kind that `n` bytes at an address match, with the first matching byte (R398). -/
def Thread.watchHit (t : Thread) (kind bit : Nat) (va : Word) (n : Nat) : Option (Nat × Nat) :=
  if isMesh va || t.fresh then none
  else (List.range 4).findSome? fun i =>
    let w := tget t.wch i 0
    let (b, len) := watchRange w
    if bitOf w 63 && fld w 61 2 == kind && bitOf w bit && decide (va.toNat < b + len ∧ b < va.toNat + n)
    then some (i, max b va.toNat) else none

/-- The WATCH trap of a match (R399). -/
def State.watchTrap (s : State) (kind i byte maj len : Nat) : State :=
  s.trap 0x10 (word byte) (word (maj * 2 ^ 8 + kind * 2 ^ 4 + i)) len

/-! ### Waits before an access -/

/-- The order fields of an access: ORD, its scope when the instruction names one (R47), WC. -/
structure AccOrder where
  ord : Order := .plain
  sc  : Option Scope := none
  wc  : Nat := 0
  deriving DecidableEq, Repr

/-- The access is a release (R208). -/
def AccOrder.rel (o : AccOrder) : Bool := o.ord == .rel || o.ord == .acqRel
/-- The access is an acquire (R208). -/
def AccOrder.acq (o : AccOrder) : Bool := o.ord == .acq || o.ord == .acqRel

/-- The place lies on another device. -/
def Place.remote (p : Place) (dev : Nat) : Bool :=
  match p with
  | .podMesh .. => true
  | .glob _ pa => paDev pa != dev
  | _ => false

/-- The device an access goes to. -/
def Place.device (p : Place) (dev : Nat) : Nat :=
  match p with
  | .podMesh d _ _ => d
  | .glob _ pa => paDev pa
  | _ => dev

/-- The scope an M-format access takes from its address (R47). -/
def Place.scope (p : Place) (dev : Nat) : Scope := if p.remote dev then .pod else .dev

/-- The local line an access touches. -/
def Place.line (p : Place) (dev : Nat) : Nat :=
  match p with
  | .glob _ pa => if paDev pa == dev then paOff pa / 64 else noLine
  | _ => noLine

/-- The access goes through the L1: local, cacheable, not SYNC, and not an atomic that its scope sends to the home
(R191, R197, R237). -/
def Place.cached (p : Place) (dev : Nat) (toHome : Bool) : Bool :=
  match p with
  | .glob e pa => paDev pa == dev && !e.sync && !e.nc && (!toHome || e.priv)
  | _ => false

/-- The access goes through the L1 of a core: a line that the L1 holds for a private page is out of reach of every other PTE and
ASID, whose accesses the home serves from its own copy (R230). -/
def State.viaL1 (s : State) (c : Nat) (p : Place) (toHome : Bool) : Bool :=
  p.cached s.devnum toHome &&
    match p, (s.coreAt c).lineAt (p.line s.devnum) with
    | .glob e _, some l => !l.via.priv || l.via == e.via e.asid
    | _, _ => true

/-- The access is performed at issue in the own L1 (R210). -/
def State.hits (s : State) (c : Nat) (p : Place) (a : Access) (asid : Nat) : Bool :=
  match p with
  | .glob e pa => match (s.coreAt c).lineAt (paOff pa / 64) with
    | some l => l.via == e.via asid && l.st.allows a && l.waits.isEmpty
    | none => false
  | _ => false

/-- The destination class that counts an access, 0 for none (R210). -/
def State.classOf (s : State) (c asid : Nat) (p : Place) (a : Access) (toHome : Bool) : Nat :=
  if !Access.writes a then 0
  else
    match p with
    | .own _ => 0
    | .mesh .. => 1
    | .podMesh .. => 3
    | .glob _ pa =>
      if paDev pa != s.devnum then 3
      else if s.viaL1 c p toHome && s.hits c p a asid then 0 else 2

/-- Another access of the core to the same line leaves by another path (R199). -/
def State.pathConflict (s : State) (c : Nat) (p : Place) (toHome : Bool) : Bool :=
  let l := p.line s.devnum
  l != noLine && (s.coreAt c).threads.any fun e => e.2.outs.any fun o =>
    o.line == l && (o.path == .l1) != s.viaL1 c p toHome

/-- Two places lie in one 64-byte piece of a scratchpad or of memory. -/
def Place.meets (p q : Place) : Bool :=
  match p, q with
  | .own a, .own b => a / 64 == b / 64
  | .glob _ a, .glob _ b => a / 64 == b / 64
  | _, _ => false

/-- The value of a word at its home as an ASID sees it. -/
def State.sspWord (s : State) (asid off : Nat) : Word := word (lineNum (s.homeLine asid (off / 64)).data (off % 64) 8)

/-- Words an object of a type with a value covers (R289); a queue whose size code is reserved is counted by its header. -/
def coveredWords (t : ObjType) (v : Word) : Nat :=
  match t with
  | .barrier => 2
  | .queue => if fld v 40 8 > 3 then 8 else 8 + fld v 48 16 * (8 * 2 ^ fld v 40 8) / 8
  | _ => 1

/-- Words from an offset to the end of its page. -/
def pageWords (off : Nat) : Nat := (4096 - off % 4096) / 8

/-- Words of the object that begins at a word; none for a word that begins no object (R290). -/
def State.objectWords (s : State) (asid off : Nat) : Option Nat :=
  match s.typeOf off with
  | 0 | 1 | 4 | 7 => some 1
  | 2 => some (min 2 (pageWords off))
  | 5 => some (min (coveredWords .queue (s.sspWord asid off)) (pageWords off))
  | _ => none

/-- The lines, in physical memory, of the words that a typed operation reads and changes: its operand's object, as far as the request
names it, and the lock of a CND.WAIT (R288 to R290). On another device the size of an object in memory is not known, and its page counts. -/
def State.typedLines (s : State) (asid : Nat) (k : TypedKind) (pa : Nat) (b : Word) (lockPa : Nat) : List Nat :=
  let off := paOff pa
  let held := if paDev pa = s.devnum then (s.objectWords asid off).getD 1 else pageWords off
  let n := match k with
    | .tinit t => min (coveredWords t b) (pageWords off)
    | .tclr | .qPut | .qGet | .barArr | .barArw => held
    | _ => 1
  let lines := (List.range ((pa % 64 + 8 * n + 63) / 64)).map fun i => pa / 64 + i
  if k = .cndWait then lines ++ [lockPa / 64] else lines

/-- A queued matrix command of the core that holds a typed operation back from the lines it touches, as `operandHold` does an
access. -/
def State.wordHold (s : State) (c : Nat) (lines : List Nat) : Option Nat :=
  ((s.coreAt c).mq.find? fun m => (lines.any fun l => m.lines.contains l) || m.writes.any fun x => match x.2 with
    | .glob _ q => lines.contains (q / 64)
    | _ => false).map (·.id)

/-- A queued matrix command of the core that holds an access back: one that reads bytes the access writes (R161), or one
whose own stores, issued before, have still to be sent (R166, R199). -/
def State.operandHold (s : State) (c : Nat) (ps : List Place) (a : Access) : Option Nat :=
  ((s.coreAt c).mq.find? fun m => ps.any fun p =>
    (m.writes.any fun x => x.2.meets p) || (Access.writes a && match p with
      | .own off => decide (m.own.1 < off + Access.bytes a ∧ off < m.own.1 + m.own.2)
      | .glob _ pa => m.lines.contains (pa / 64)
      | _ => false)).map (·.id)

/-- A page private to a core at which a reclassify of it has arrived: the accesses that the core issues from then on wait (R229
step 1). -/
def State.reclaimHold (s : State) (c : Nat) (ps : List Place) : Option Nat :=
  ps.findSome? fun p => match p with
    | .glob e _ => if e.priv && (s.coreAt c).reclaims.any fun x => x.2.1 == e.pte then some e.pte else none
    | _ => none

/-- Why an access must wait before it is sent (R161, R199, R202, R206, R207, R210, R211, R229); none when it may go. -/
def State.gate (s : State) (ps : List Place) (a : Access) (toHome : Bool) (o : AccOrder) : Option Park :=
  let t := s.th
  let sc := o.sc.getD (if ps.any fun p => p.remote s.devnum then .pod else .dev)
  let need (c : Nat) : Nat := (ps.filter fun p => s.classOf s.cur.1 t.asid.toNat p a toHome == c).length
  let full := [1, 2, 3].find? fun c => decide (4095 < t.wcnt c + need c)
  if o.wc != 0 && t.wcnt o.wc != 0 then some (.count (2 ^ (o.wc - 1)))
  else if o.rel && !relReady sc t.outs then some (.order sc)
  else if !t.acqReady then some .acquire
  else if Access.writes a && !valuesReady t.outs then some .values
  else
    match full, s.operandHold s.cur.1 ps a, s.reclaimHold s.cur.1 ps with
    | some c, _, _ => some (.room c (need c))
    | none, some id, _ => some (.operand id)
    | none, none, some pte => some (.reclaim pte)
    | none, none, none => (ps.find? fun p => s.pathConflict s.cur.1 p toHome).map fun p => .line (p.line s.devnum)

/-! ### Performing one access -/

/-- Record an outstanding access of a thread under the number just taken. -/
def State.addOutAt (s : State) (c t : Nat) (o : Out) : State := s.modThread c t fun t => { t with outs := t.outs ++ [o] }
/-- Record an outstanding access of the performing thread under the number just taken. -/
def State.addOut (s : State) (o : Out) : State := s.addOutAt s.cur.1 s.cur.2 o

/-- Perform or send one access of a thread under an ASID. A result means it is performed; otherwise it is outstanding under the
number `txn` of the state answered. -/
def State.performAt (s : State) (c t asid : Nat) (p : Place) (va : Word) (maj : Nat) (a : Access) (dst : Dest)
    (toHome : Bool) : State × Option Result :=
  let id := s.txn + 1
  let val := match a with | .store .. | .taint | .fetch => false | _ => true
  let out (path : Path) (cls : Nat) : Out := ⟨id, cls, val, va, maj, dst, p.line s.devnum, path, asid⟩
  let cls := s.classOf c asid p a toHome
  match p with
  | .own off =>
    let k := s.coreAt c
    let (m, b, r) := accCells k.spm k.spmBad off a
    (s.setCore c { k with spm := m, spmBad := b }, some r)
  | .mesh n off =>
    (((s.newId).addOutAt c t (out (.mesh n) cls)).send (.core c) (.core n) (.mesh ⟨s.devnum, c, t, id⟩ off a), none)
  | .podMesh d n off =>
    let s := (s.newId).addOutAt c t (out (.pod d) cls)
    ({ s with txn := s.txn + 1, podOut := s.podOut ++
        [⟨s.txn + 1, d, .request c t id asid none (.mesh (n % 32) (n / 32) off a), s.time.toNat, false⟩] }, none)
  | .glob e pa =>
    if paDev pa != s.devnum then
      let s := (s.newId).addOutAt c t (out (.pod (paDev pa)) cls)
      ({ s with txn := s.txn + 1, podOut := s.podOut ++
          [⟨s.txn + 1, paDev pa, .request c t id asid none (.access pa e.sync a), s.time.toNat, false⟩] }, none)
    else if s.viaL1 c p toHome then
      let (s', r) := (s.newId).l1Access c (paOff pa / 64) ⟨t, id, paOff pa % 64, a, e.via asid⟩
      match r with
      | some r => (s', some r)
      | none => (s'.addOutAt c t (out .l1 cls), none)
    else
      let r : HomeReq := ⟨⟨s.devnum, c, t, id⟩, asid, paOff pa / 64, false, e.sync, .access (paOff pa % 64) a⟩
      (((s.newId).addOutAt c t (out .home cls)).send (.core c) (.slice (homeSlice (paOff pa) e.sync)) (.home r), none)

/-- Perform or send one access of the performing thread. -/
def State.perform (s : State) (p : Place) (va : Word) (maj : Nat) (a : Access) (dst : Dest) (toHome : Bool) :
    State × Option Result :=
  s.performAt s.cur.1 s.cur.2 s.th.asid.toNat p va maj a dst toHome

/-- The 8-byte word of a line that a poisoned access names (R378). -/
def poisonAddr (va : Word) (off : Nat) : Word := word (va.toNat / 64 * 64 + off)

/-- UNCORR of a poisoned word met at issue (R378). -/
def State.poisonTrap (s : State) (va : Word) (off maj len : Nat) : State :=
  s.trap 0x12 (poisonAddr va off) (word (maj * 2 ^ 8 + 1)) len

/-- UNCORR of an access to a device known to be unreachable (R386). -/
def State.goneTrap (s : State) (va : Word) (maj len : Nat) : State :=
  s.trap 0x12 va (word (1 * 2 ^ 16 + maj * 2 ^ 8 + 5)) len

/-- The device of a place is unreachable (R386). -/
def State.gone (s : State) (p : Place) : Bool := s.podGone.contains (p.device s.devnum)

/-- A value is written to its destination in the performing thread (R234). -/
def Thread.deliver (t : Thread) (dst : Dest) (v : Line) : Thread :=
  match dst with
  | .g d size signed => t.putG d (extend v.toNat size signed)
  | .v d => t.putV d v
  | .xregs => (List.range 8).foldl (fun t i => t.putX i (lineWord v i)) t
  | _ => t

/-- A destination is emptied for a pending producer (R54). -/
def Thread.await (t : Thread) (dst : Dest) (id : Nat) (by_ : Producer) (va : Word) : Thread :=
  match dst with
  | .g d _ _ => t.markG d (.pending id by_ va)
  | .v d => t.markV d (.pending id by_ va)
  | _ => t

/-- After an acquire, the next access waits until it is performed (R207). An acquire that names no scope takes it from its address
(R47). -/
def State.noteAcq (s : State) (o : AccOrder) (p : Place) (id : Nat) : State :=
  if o.acq then s.modTh fun t => { t with acq := [(id, o.sc.getD (p.scope s.devnum))] } else s

/-- One access as an instruction makes it. -/
structure Acc where
  va    : Word
  size  : Nat
  align : Nat
  need  : Need
  a     : Access
  dst   : Dest := .none
  by_   : Producer := .load
  maj   : Nat
  ord   : AccOrder := {}
  toHome : Bool := false
  len   : Nat := 4
  kind  : Option WaitKind := none
  deriving DecidableEq, Repr

/-- The bit of a kind-0 watchpoint that governs an access (R398). -/
def watchBit (a : Access) : Nat := if Access.writes a then 60 else 59

/-- An instruction with one access (R231 to R237): checks, watchpoints, waits, then its performance. -/
def State.access (s : State) (x : Acc) : State :=
  match s.check s.actx x.va x.size x.align x.need with
  | .trap c v1 v2 => s.trap c v1 v2 x.len
  | .walk va n => s.startWalk va n x.len
  | .ok p =>
    match s.th.watchHit 0 (watchBit x.a) x.va x.size with
    | some (i, b) => s.watchTrap 0 i b x.maj x.len
    | none =>
      if s.gone p then s.goneTrap x.va x.maj x.len
      else
        match s.gate [p] x.a x.toHome x.ord with
        | some why => s.park why
        | none =>
          let (s', r) := s.perform p x.va x.maj x.a x.dst x.toHome
          match r with
          | some (.value v) => (s'.modTh fun t => t.deliver x.dst v).advance x.len
          | some (.poison off) => s.poisonTrap x.va off x.maj x.len
          | some _ => s'.advance x.len
          | none =>
            let s' := s'.noteAcq x.ord p (s.txn + 1)
            let parked (k : WaitKind) : State :=
              s'.awaitReply ⟨k, s.txn + 1, 1, x.maj, x.len, x.va, 0, x.dst, [], none⟩
            let sync := match p with | .glob e _ => e.sync && Access.writes x.a | _ => false
            if sync then State.modTh (parked .store) fun t => t.await x.dst (s.txn + 1) x.by_ x.va
            else
              match x.kind with
              | some k => parked k
              | none => (s'.modTh fun t => t.await x.dst (s.txn + 1) x.by_ x.va).advance x.len

/-! ### Replies to what a thread waits for -/

/-- An instruction that waited for its reply is complete. -/
def Thread.finish (t : Thread) (len : Nat) : Thread :=
  { t with wait := none, life := .runnable, pc := t.pc + word len }

/-- An instruction that waited ends without completing; the thread goes on at it. -/
def Thread.giveUp (t : Thread) : Thread := { t with wait := none, life := .runnable }

/-- Whether an access belongs to the instruction a thread waits for. -/
def Wait.owns (w : Wait) (o : Out) : Bool :=
  w.id == o.id || (match o.dst with | .elem g _ => w.id == g | _ => false)

/-- An answer belongs to an instruction that was set aside. -/
def Aside.takes (a : Aside) (id : Nat) (o : Option Out) : Bool :=
  a.wait.id == id || match o with
    | some o => a.wait.owns o
    | none => false

/-- An answer is kept with the instruction that was set aside. -/
def Thread.keepAnswer (t : Thread) (id : Nat) (o : Option Out) (r : Result) : Thread :=
  { t with aside := t.aside.map fun a => if a.takes id o then { a with got := a.got ++ [(o, r)] } else a }

/-- An answer that is no access's: of the dispatch unit to a TNEXT or a GRPSET (R306, R338, R342), or of a core's matrix unit
(R159). -/
def State.waitIn (s : State) (c t id : Nat) (r : Result) : State :=
  match (s.thread c t).wait with
  | none => s
  | some w =>
    if w.id != id then s
    else
      match r with
      | .value v => s.modThread c t fun th => (match w.dst with
          | .g d _ _ => (th.deliver w.dst v).transition .g d w.word (th.gs d) .full
          | _ => th).finish w.len
      | .trap cause v1 v2 => (s.modThread c t Thread.giveUp).trapAt c t cause v1 v2 w.len
      | _ => s.modThread c t fun th => th.finish w.len

/-- An answer that is no access's reaches the thread: its instruction, or one that was set aside. -/
def State.waitAnswered (s : State) (c t id : Nat) (r : Result) : State :=
  if (s.thread c t).aside.any fun a => a.takes id none then s.modThread c t fun th => th.keepAnswer id none r
  else s.waitIn c t id r

end Sys2Proof.Machine
end

