-- ==== Sys2Proof/Machine/LoadStore.lean ====
section
/-! DEFINITION. Loads, stores and the strided and indexed vector accesses (R234, R235). -/

namespace Sys2Proof.Machine

open Sys2Proof

/-- The low `n` bytes of a word as an access carries them. -/
def storeVal (w : Word) : Line := w.setWidth 512

/-- LD and LDN in every form: g[d] := mem[a, u] extended (R234). -/
def loadG (maj : Nat) (signed : Bool) (len : Nat) (o : BitVec 6) (z : Size) (e : Order) (w : Fin 4) (a d : GReg)
    (s : State) : State :=
  s.access { va := memAddr (s.rg a) o (sizeBytes z), size := sizeBytes z, align := sizeBytes z, need := { r := true },
             a := .load (sizeBytes z), dst := .g d (sizeBytes z) signed, maj := maj, ord := ⟨e, none, w⟩, len := len }

/-- ST: mem[a, u] := the low bytes of g[d] (R234). -/
def storeG (len : Nat) (o : BitVec 6) (z : Size) (e : Order) (w : Fin 4) (a d : GReg) (s : State) : State :=
  s.access { va := memAddr (s.rg a) o (sizeBytes z), size := sizeBytes z, align := sizeBytes z, need := { w := true },
             a := .store (sizeBytes z) (storeVal (s.rg d)), maj := 0x1A, ord := ⟨e, none, w⟩, len := len }

/-- LD (R234). -/
def execLd (o : BitVec 6) (z : Size) (e : Order) (w : Fin 4) (x : Bool) (a d : GReg) (s : State) : Out' :=
  issue { instr := .ld o z e w x a d, srcs := [gsrc a x], dsts := [gdst d] } (loadG 0x18 true 4 o z e w a d) s

/-- LDN (R234). -/
def execLdn (o : BitVec 6) (z : Size) (e : Order) (w : Fin 4) (x : Bool) (a d : GReg) (s : State) : Out' :=
  issue { instr := .ldn o z e w x a d, srcs := [gsrc a x], dsts := [gdst d] } (loadG 0x19 false 4 o z e w a d) s

/-- ST; the data register is a source without a test bit (R55, R234). -/
def execSt (o : BitVec 6) (z : Size) (e : Order) (w : Fin 4) (x : Bool) (a d : GReg) (s : State) : Out' :=
  issue { instr := .st o z e w x a d, srcs := [gsrc a x, gsrc d false] } (storeG 4 o z e w a d) s

/-- VLD (R234). -/
def execVld (o : BitVec 6) (e : Order) (w : Fin 4) (x : Bool) (a : GReg) (d : VReg) (s : State) : Out' :=
  issue { instr := .vld o e w x a d, srcs := [gsrc a x], dsts := [vdst d] } (fun s =>
    s.access { va := memAddr (s.rg a) o 64, size := 64, align := 64, need := { r := true }, a := .load 64, dst := .v d,
               maj := 0x1B, ord := ⟨e, none, w⟩ }) s

/-- VST (R234). -/
def execVst (o : BitVec 6) (e : Order) (w : Fin 4) (x : Bool) (a : GReg) (d : VReg) (s : State) : Out' :=
  issue { instr := .vst o e w x a d, srcs := [gsrc a x, vsrc d] } (fun s =>
    s.access { va := memAddr (s.rg a) o 64, size := 64, align := 64, need := { w := true }, a := .store 64 (s.rv d),
               maj := 0x1C, ord := ⟨e, none, w⟩ }) s

/-! ### VGX (R235) -/

/-- Element addresses of the strided forms. -/
def strided (base stride : Word) : List Word := (List.range 8).map fun i => base + word i * stride
/-- Element addresses of the indexed forms. -/
def indexed (base : Word) (offs : Line) : List Word := (List.range 8).map fun i => base + lineWord offs i

/-- What one element leaves: the place of its value, or that it is still outstanding. -/
inductive ElemRes
  | value (i : Nat) (w : Word)
  | poison (va : Word) (off : Nat)
  | done
  | sent (sync : Bool)
  deriving DecidableEq, Repr

/-- Perform the elements in order; element i carries access `acc i` (R235). An element of a store off SYNC pages is an access of
its own, which the instruction does not await. -/
def State.elements (gid maj : Nat) (acc : Nat → Access) : Nat → List (Word × Place) → State → State × List ElemRes
  | _, [], s => (s, [])
  | i, (va, p) :: r, s =>
    let sync := match p with | .glob e _ => e.sync | _ => false
    let own := sync || !Access.writes (acc i)
    let (s', res) := s.perform p va maj (acc i) (if own then .elem gid i else .none) false
    let e : ElemRes := match res with
      | some (.value v) => .value i (word v.toNat)
      | some (.poison off) => .poison va off
      | some _ => .done
      | none => .sent (sync && Access.writes (acc i))
    let (s'', l) := State.elements gid maj acc (i + 1) r s'
    (s'', e :: l)

/-- The lowest poisoned word that the elements met at issue (R378). -/
def lowestPoison (l : List ElemRes) : Option (Word × Nat) :=
  l.foldl (fun b e => match e with
    | .poison va off => match b with
      | some (va', off') => if (poisonAddr va off).toNat < (poisonAddr va' off').toNat then some (va, off) else b
      | none => some (va, off)
    | _ => b) none

/-- An instruction of several accesses has been performed, unless they have raised a class count past its bound: then its thread
parks in their place (R210). An element through one page can evict the line that the gate judged a later one to hit. -/
def State.orCount (after before : State) : State :=
  match [1, 2, 3].find? fun c => decide (4095 < after.th.wcnt c ∧ before.th.wcnt c < after.th.wcnt c) with
  | some c => before.park (Park.room c (after.th.wcnt c - before.th.wcnt c))
  | none => after

/-- The issue of a VGX: checks of every element in order, watchpoints, unreachable devices, and the wait of the first
element (R231, R235). -/
def State.vgxIssue (s : State) (es : List Word) (n : Need) (a : Access) (wc maj : Nat)
    (go : List (Word × Place) → State → State) : State :=
  match s.checkAll s.actx 8 8 n es with
  | .error c => s.failChk c 4
  | .ok ps =>
    match es.findSome? fun va => s.th.watchHit 0 (watchBit a) va 8 with
    | some (i, b) => s.watchTrap 0 i b maj 4
    | none =>
      match ps.find? fun p => s.gone p.2 with
      | some p => s.goneTrap p.1 maj 4
      | none =>
        match s.gate (ps.map (·.2)) a false ⟨.plain, none, wc⟩ with
        | some why => s.park why
        | none => (go ps s).orCount s

/-- VLDS and VGATH: v[d] is filled once, when every element has arrived (R235). -/
def vgxLoad (es : List Word) (w : Fin 4) (d : VReg) (s : State) : State :=
  s.vgxIssue es { r := true } (.load 8) w 0x1D fun ps s =>
    let gid := s.txn + 1
    let (s', l) := State.elements gid 0x1D (fun _ => .load 8) 0 ps s.newId
    match lowestPoison l with
    | some (va, off) => s.poisonTrap va off 0x1D 4
    | none =>
      let got := l.foldl (fun t e => match e with | .value i w => tset i w t | _ => t) []
      let left := (l.filter fun e => match e with | .sent _ => true | _ => false).length
      if left = 0 then
        (s'.wv d (lanesOf 64 8 fun i => (tget got i 0).toNat)).advance 4
      else
        (s'.modTh fun t => { (t.await (.v d) gid .load (es.headD 0)) with
          gathers := t.gathers ++ [⟨gid, d, 0x1D, left, got, none, false⟩] }).advance 4

/-- VSTS and VSCAT: element i of v[d] to address i, in the order of i. Elements on SYNC pages are checked there, and the
thread parks until every outcome is known (R233, R235). -/
def vgxStore (es : List Word) (w : Fin 4) (d : VReg) (s : State) : State :=
  let data := s.rv d
  s.vgxIssue es { w := true } (.store 8 0) w 0x1D fun ps s =>
    let gid := s.txn + 1
    let (s', l) := State.elements gid 0x1D (fun i => .store 8 (storeVal (lineWord data i))) 0 ps s.newId
    let left := (l.filter fun e => match e with | .sent true => true | _ => false).length
    if left = 0 then s'.advance 4
    else s'.awaitReply ⟨.store, gid, left, 0x1D, 4, 0, 0, .none, [], none⟩

/-- VLDS (R235). -/
def execVlds (w : Fin 4) (y x : Bool) (b a : GReg) (d : VReg) (s : State) : Out' :=
  issue { instr := .vlds w y x b a d, srcs := [gsrc a x, gsrc b y], dsts := [vdst d] }
    (fun s => vgxLoad (strided (s.rg a) (s.rg b)) w d s) s

/-- VSTS (R235). -/
def execVsts (w : Fin 4) (y x : Bool) (b a : GReg) (d : VReg) (s : State) : Out' :=
  issue { instr := .vsts w y x b a d, srcs := [gsrc a x, gsrc b y, vsrc d] }
    (fun s => vgxStore (strided (s.rg a) (s.rg b)) w d s) s

/-- VGATH (R235). -/
def execVgath (w : Fin 4) (x : Bool) (b : VReg) (a : GReg) (d : VReg) (s : State) : Out' :=
  issue { instr := .vgath w x b a d, srcs := [gsrc a x, vsrc b], dsts := [vdst d] }
    (fun s => vgxLoad (indexed (s.rg a) (s.rv b)) w d s) s

/-- VSCAT (R235). -/
def execVscat (w : Fin 4) (x : Bool) (b : VReg) (a : GReg) (d : VReg) (s : State) : Out' :=
  issue { instr := .vscat w x b a d, srcs := [gsrc a x, vsrc b, vsrc d] }
    (fun s => vgxStore (indexed (s.rg a) (s.rv b)) w d s) s

end Sys2Proof.Machine
end

