-- ==== Sys2Proof/Machine/Atomic.lean ====
section
/-! DEFINITION. ATOMA and ATOMB (R236, R237), and the MSYS instructions: fences, counts and lines (R238 to R243). -/

namespace Sys2Proof.Machine

open Sys2Proof

/-- Every atomic: one indivisible action on the 8-byte word where R237 places it; ACAS reads x0 at issue. -/
def atomic (maj : Nat) (op : AtomOp) (e : Order) (sc : Scope) (b a d : GReg) (s : State) : State :=
  s.access { va := s.rg a, size := 8, align := 8, need := { r := true, w := true },
             a := .atomic op (s.rg b) (s.th.xv 0), dst := .g d 8 false, by_ := .atomic, maj := maj,
             ord := ⟨e, some sc, 0⟩, toHome := sc != .core }

/-- AADD (R236). -/
def execAadd (e : Order) (sc : Scope) (t : Bool) (b a d : GReg) (s : State) : Out' :=
  issue { instr := .aadd e sc t b a d, srcs := [gsrc a t, gsrc b t], dsts := [gdst d] } (atomic 0x1E .add e sc b a d) s
/-- AAND (R236). -/
def execAand (e : Order) (sc : Scope) (t : Bool) (b a d : GReg) (s : State) : Out' :=
  issue { instr := .aand e sc t b a d, srcs := [gsrc a t, gsrc b t], dsts := [gdst d] } (atomic 0x1E .and e sc b a d) s
/-- AOR (R236). -/
def execAor (e : Order) (sc : Scope) (t : Bool) (b a d : GReg) (s : State) : Out' :=
  issue { instr := .aor e sc t b a d, srcs := [gsrc a t, gsrc b t], dsts := [gdst d] } (atomic 0x1E .or e sc b a d) s
/-- AXOR (R236). -/
def execAxor (e : Order) (sc : Scope) (t : Bool) (b a d : GReg) (s : State) : Out' :=
  issue { instr := .axor e sc t b a d, srcs := [gsrc a t, gsrc b t], dsts := [gdst d] } (atomic 0x1E .xor e sc b a d) s
/-- AMIN (R236). -/
def execAmin (e : Order) (sc : Scope) (t : Bool) (b a d : GReg) (s : State) : Out' :=
  issue { instr := .amin e sc t b a d, srcs := [gsrc a t, gsrc b t], dsts := [gdst d] } (atomic 0x1F .min e sc b a d) s
/-- AMAX (R236). -/
def execAmax (e : Order) (sc : Scope) (t : Bool) (b a d : GReg) (s : State) : Out' :=
  issue { instr := .amax e sc t b a d, srcs := [gsrc a t, gsrc b t], dsts := [gdst d] } (atomic 0x1F .max e sc b a d) s
/-- ASWAP (R236). -/
def execAswap (e : Order) (sc : Scope) (t : Bool) (b a d : GReg) (s : State) : Out' :=
  issue { instr := .aswap e sc t b a d, srcs := [gsrc a t, gsrc b t], dsts := [gdst d] } (atomic 0x1F .swap e sc b a d) s
/-- ACAS (R236). -/
def execAcas (e : Order) (sc : Scope) (t : Bool) (b a d : GReg) (s : State) : Out' :=
  issue { instr := .acas e sc t b a d, srcs := [gsrc a t, gsrc b t], dsts := [gdst d] } (atomic 0x1F .cas e sc b a d) s

/-! ### MSYS -/

/-- FENCE (R206, R207, R238). -/
def execFence (sc : Scope) (k : FenceKind) (s : State) : Out' :=
  issue { instr := .fence sc k } (fun s =>
    if k != .acq && !relReady sc s.th.outs then s.park (.order sc)
    else
      let s := if k == .rel then s
        else s.modTh fun t => { t with acq := t.acq ++ (t.outs.filter (·.value)).map fun o => (o.id, sc) }
      s.advance 4) s

/-- WAITC (R211, R238): the thread parks until every count its mask names is 0. -/
def execWaitc (m : Fin 8) (s : State) : Out' :=
  issue { instr := .waitc m } (fun s =>
    if (List.range 3).all fun i => !(m.val.testBit i) || s.th.wcnt (i + 1) == 0 then s.advance 4
    else s.park (.count m)) s

/-- An MSYS access to the line that holds an address: R231 without alignment, then watchpoints (R398). -/
def State.lineOp (s : State) (va : Word) (go : Place → State → State) : State :=
  match s.placeOf s.actx va 1 { r := true } with
  | .trap c v1 v2 => s.trap c v1 v2
  | .walk va n => s.startWalk va n 4
  | .ok p =>
    match s.th.watchHit 0 59 (word (va.toNat / 64 * 64)) 64 with
    | some (i, b) => s.watchTrap 0 i b 0x20 4
    | none => go p s

/-- Some L1 holds a line of a shared page, or a message of a request on it is on its way. -/
def State.lineAway (s : State) (line : Nat) : Bool :=
  (s.cores.any fun c => match c.2.lineAt line with | some l => !l.via.priv | none => false)
    || s.net.any fun m => m.body.concerns line

/-- CFLUSH (R239): a line that no L1 holds needs nothing. On a private page, a line that the L1 holds as a shared one's is evicted
and the CFLUSH waits for its acknowledgement; one held for another private page is not this page's (R230). -/
def execCflush (x : Bool) (a : GReg) (s : State) : Out' :=
  issue { instr := .cflush x a, srcs := [gsrc a x] } (fun s =>
    s.lineOp (s.rg a) fun p s =>
      if !p.cached s.devnum false then s.advance 4
      else
        let c := s.cur.1
        let line := p.line s.devnum
        match s.gate [p] (.load 1) true {} with
        | some why => s.park why
        | none =>
          match p with
          | .glob e _ =>
            if e.priv then
              match (s.coreAt c).lineAt line with
              | none => s.advance 4
              | some l =>
                if l.via != e.via s.th.asid.toNat then
                  if l.via.priv then s.advance 4 else (s.evictLine c line).park (.line line)
                else
                match l.st with
                | .mod | .own => ((s.setHomeLine l.via.asid line l.lv).dropLine c line).advance 4
                | .exc | .shr => (s.dropLine c line).advance 4
                | _ => s.park (.line line)
            else if !s.lineAway line then s.advance 4
            else if s.th.wcnt 2 ≥ 4095 then s.park (.room 2 1)
            else
              let id := s.txn + 1
              let s := s.newId.addOut ⟨id, 2, false, s.rg a, 0x20, .none, line, .home, s.th.asid.toNat⟩
              (s.askHome c line s.th.asid.toNat false .flush s.cur.2 id).advance 4
          | _ => s.advance 4) s

/-- CINV (R240). -/
def execCinv (x : Bool) (a : GReg) (s : State) : Out' :=
  issue { instr := .cinv x a, srcs := [gsrc a x] } (fun s =>
    s.lineOp (s.rg a) fun p s =>
      if p.cached s.devnum false then (s.cinvLine s.cur.1 (p.line s.devnum)).advance 4 else s.advance 4) s

/-- PREF (R241): it needs R, whatever its intent (R231); one that would fault, or that names a mesh, NC, SYNC or remote
address, is dropped; one whose walk has failed
does no more; so is one through another page for a line that the L1 holds for a private one (R230; log entry 90). -/
def execPref (x : Bool) (a : GReg) (w : Bool) (s : State) : Out' :=
  issue { instr := .pref x a w, srcs := [gsrc a x] } (fun s =>
    if s.th.dropped = some s.th.pc then (s.modTh fun t => { t with dropped := none }).advance 4 else
    match s.placeOf s.actx (s.rg a) 1 { r := true } with
    | .trap .. => s.advance 4
    | .walk va n => s.startWalk va n 4 true
    | .ok p =>
      match p with
      | .glob e _ =>
        match s.reclaimHold s.cur.1 [p] with
        | some pte => s.park (.reclaim pte)
        | none =>
        if s.viaL1 s.cur.1 p false then (s.prefetch s.cur.1 (p.line s.devnum) (e.via s.th.asid.toNat) w).advance 4
        else s.advance 4
      | _ => s.advance 4) s

/-- SPCFG (R243): the core enters stop bath; SPCFG_APPLY completes the change. A flight of the core keeps it parked. -/
def execSpcfg (x : Bool) (a : GReg) (s : State) : Out' :=
  issue { instr := .spcfg x a, srcs := [gsrc a x], priv := true } (fun s =>
    if 6 < (s.rg a).toNat then s.illegal (wordOf (.spcfg x a)) 4
    else if s.co.spcfg.isSome || s.co.flight.isSome then s.park .bath
    else (s.park .drain).modCo fun k => { k with spcfg := some (s.cur.2, (s.rg a).toNat) }) s

/-- CZERO: a 64-byte store of zeros, at the home for a shared cacheable line (R242). -/
def execCzero (x : Bool) (a : GReg) (s : State) : Out' :=
  issue { instr := .czero x a, srcs := [gsrc a x] } (fun s =>
    s.access { va := s.rg a, size := 64, align := 64, need := { w := true }, a := .store 64 0, maj := 0x20,
               toHome := true }) s

/-! ### PST (R215, R244 to R246) -/

/-- PST: a 64-byte store at the line's home that offers copies; a plain store on a remote, NC or SYNC page; a private page
is first reclassified by its owner, whose PST translates again then (R229, R244). -/
def execPst (m : Bool) (e : Order) (sc : Scope) (t : Bool) (b a : GReg) (d : VReg) (s : State) : Out' :=
  issue { instr := .pst m e sc t b a d, srcs := [gsrc a t, gsrc b t, vsrc d] } (fun s =>
    let va := s.rg a
    if va.toNat % 64 != 0 then s.trap 0x04 va 0
    else if isMesh va then s.trap 0x08 va 0
    else
      match s.placeOf s.actx va 64 { w := true } with
      | .trap c v1 v2 => s.trap c v1 v2
      | .walk va n => s.startWalk va n 4
      | .ok p =>
        let x : Acc := { va := va, size := 64, align := 64, need := { w := true }, a := .store 64 (s.rv d), maj := 0x21,
                         ord := ⟨e, some sc, 0⟩, toHome := true }
        match p with
        | .glob ent pa =>
          if !p.cached s.devnum false then s.access x
          else if ent.priv then
            if s.reclassReady s.cur.1 ent.pte then
              (s.reclassify s.cur.1 s.th.asid.toNat ent.pte).startWalk va { w := true } 4
            else s.park (.line (p.line s.devnum))
          else
            match s.th.watchHit 0 60 va 64 with
            | some (i, b) => s.watchTrap 0 i b 0x21 4
            | none =>
              match s.gate [p] x.a true x.ord with
              | some why => s.park why
              | none =>
                let id := s.txn + 1
                let line := paOff pa / 64
                let s := s.newId.addOut ⟨id, 2, false, va, 0x21, .none, line, .home, s.th.asid.toNat⟩
                ((s.askHome s.cur.1 line s.th.asid.toNat false (.push m (s.rg b) (s.rv d)) s.cur.2 id).noteAcq x.ord
                  p id).advance 4
        | _ => s) s

end Sys2Proof.Machine
end

