-- ==== Sys2Proof/Machine/Numbers.lean ====
section
/-! DEFINITION. Values to the bit (R109 to R122): the floating formats, exact dyadic values, rounding, the arithmetic of the
vector lanes, narrowing conversions, and the functions of VUN. -/

namespace Sys2Proof.Machine

open Sys2Proof

/-! ### Formats and values (R110 to R112) -/

/-- A floating format (R110): exponent and fraction bits, bias, magnitude code of the largest finite value, of infinity,
and of the canonical NaN (R111). A magnitude code above the largest finite one that is not infinity is NaN. -/
structure Fmt where
  e    : Nat
  m    : Nat
  bias : Nat
  maxf : Nat
  inf  : Option Nat
  nan  : Option Nat
  deriving DecidableEq, Repr

/-- binary32 (R110). -/
def Fmt.f32 : Fmt := ⟨8, 23, 127, 0x7F7FFFFF, some 0x7F800000, some 0x7FC00000⟩
/-- bf16, the high half of binary32 (R110). -/
def Fmt.bf16 : Fmt := ⟨8, 7, 127, 0x7F7F, some 0x7F80, some 0x7FC0⟩
/-- binary16 (R110). -/
def Fmt.f16 : Fmt := ⟨5, 10, 15, 0x7BFF, some 0x7C00, some 0x7E00⟩
/-- OFP8 e4m3 (R110). -/
def Fmt.e4m3 : Fmt := ⟨4, 3, 7, 0x7E, none, some 0x7F⟩
/-- OFP8 e5m2 (R110). -/
def Fmt.e5m2 : Fmt := ⟨5, 2, 15, 0x7B, some 0x7C, some 0x7E⟩
/-- MX e3m2 (R110). -/
def Fmt.e3m2 : Fmt := ⟨3, 2, 3, 0x1F, none, none⟩
/-- MX e2m3 (R110). -/
def Fmt.e2m3 : Fmt := ⟨2, 3, 1, 0x1F, none, none⟩
/-- MX e2m1 (R110). -/
def Fmt.e2m1 : Fmt := ⟨2, 1, 1, 0x7, none, none⟩

/-- Bits of a value of a format. -/
def Fmt.width (f : Fmt) : Nat := 1 + f.e + f.m
/-- The exponent of the smallest subnormal (R110). -/
def Fmt.low (f : Fmt) : Int := 1 - (f.bias : Int) - (f.m : Int)
/-- The canonical NaN, or zero for a type without one (R111, R119). -/
def Fmt.canon (f : Fmt) : Nat := f.nan.getD 0

/-- A value: NaN, a signed infinity, or (−1)^neg × m × 2^e exactly. -/
inductive FVal
  | nan
  | inf (neg : Bool)
  | fin (neg : Bool) (m : Nat) (e : Int)
  deriving DecidableEq, Repr

/-- The value of a code of a format (R110). -/
def Fmt.val (f : Fmt) (code : Nat) : FVal :=
  let neg := code / 2 ^ (f.e + f.m) % 2 == 1
  let mag := code % 2 ^ (f.e + f.m)
  if f.inf == some mag then .inf neg
  else if mag > f.maxf then .nan
  else if mag / 2 ^ f.m = 0 then .fin neg mag f.low
  else .fin neg (2 ^ f.m + mag % 2 ^ f.m) (f.low + (mag / 2 ^ f.m : Nat) - 1)

/-- A code from its sign and magnitude. -/
def Fmt.code (f : Fmt) (neg : Bool) (mag : Nat) : Nat := mag + b2n neg * 2 ^ (f.e + f.m)

/-- A value times a power of two, exactly. -/
def FVal.scale (v : FVal) (k : Int) : FVal :=
  match v with
  | .fin n m e => .fin n m (e + k)
  | v => v

/-! ### The flags (R120) -/

/-- Flags raised: bit 0 INVALID, 1 OVERFLOW, 2 UNDERFLOW, 3 INEXACT, 4 SATURATED. -/
abbrev Flags := BitVec 5

/-- INVALID. -/
def Flags.invalid : Flags := 1
/-- OVERFLOW. -/
def Flags.overflow : Flags := 2
/-- UNDERFLOW. -/
def Flags.underflow : Flags := 4
/-- INEXACT. -/
def Flags.inexact : Flags := 8
/-- SATURATED. -/
def Flags.saturated : Flags := 16
/-- A flag when a condition holds. -/
def flagIf (c : Bool) (f : Flags) : Flags := if c then f else 0

/-! ### Rounding (R115) -/

/-- m × 2^(−d) rounded to an integer in a mode, with whether it was inexact. -/
def roundNat (rm : Rounding) (neg : Bool) (m d : Nat) : Nat × Bool :=
  let q := m / 2 ^ d
  let r := m % 2 ^ d
  let up := match rm with
    | .rne => decide (2 * r > 2 ^ d) || (decide (2 * r = 2 ^ d) && q % 2 == 1)
    | .rz => false
    | .ru => r != 0 && !neg
    | .rd => r != 0 && neg
  (if up then q + 1 else q, r != 0)

/-- m × 2^e rounded to a multiple of 2^q: the multiple, and whether it was inexact. -/
def roundTo (rm : Rounding) (neg : Bool) (m : Nat) (e q : Int) : Nat × Bool :=
  if e ≥ q then (m * 2 ^ (e - q).toNat, false) else roundNat rm neg m (q - e).toNat

/-- rnd to a floating format with the exponent unbounded above (R115): a magnitude code that may exceed the format's, and
whether it was inexact. Codes are consecutive in value, so a carry needs no case of its own. -/
def Fmt.rndMag (f : Fmt) (rm : Rounding) (neg : Bool) (m : Nat) (e : Int) : Nat × Bool :=
  if m = 0 then (0, false)
  else
    let q := max ((Nat.log2 m : Int) + e - f.m) f.low
    let (y, inexact) := roundTo rm neg m e q
    (y + (q - f.low).toNat * 2 ^ f.m, inexact)

/-- |m × 2^e| is below the smallest normal of a format. -/
def Fmt.tiny (f : Fmt) (m : Nat) (e : Int) : Bool := decide ((Nat.log2 m : Int) + e < f.low + f.m)

/-- The result of a floating operation (R117): rounded once, with overflow, underflow and inexact. -/
def Fmt.round (f : Fmt) (rm : Rounding) (v : FVal) : Nat × Flags :=
  match v with
  | .nan => (f.canon, 0)
  | .inf n => (f.code n (f.inf.getD f.maxf), 0)
  | .fin n m e =>
    let (mag, inexact) := f.rndMag rm n m e
    if mag > f.maxf then
      let big := match rm with
        | .rne => true
        | .rz => false
        | .ru => !n
        | .rd => n
      (f.code n (if big then f.inf.getD f.maxf else f.maxf), Flags.overflow ||| Flags.inexact)
    else
      (f.code n mag, flagIf inexact Flags.inexact ||| flagIf (inexact && m != 0 && f.tiny m e) Flags.underflow)

/-! ### Narrowing conversions (R118, R119) -/

/-- CVT to a floating format (R119). -/
def Fmt.cvt (f : Fmt) (rm : Rounding) (v : FVal) : Nat × Flags :=
  match v with
  | .nan => match f.nan with
    | some c => (c, 0)
    | none => (0, Flags.invalid)
  | .inf n => (f.code n f.maxf, Flags.saturated)
  | .fin n m e =>
    let (mag, inexact) := f.rndMag rm n m e
    let fl := flagIf inexact Flags.inexact
    if mag > f.maxf then (f.code n f.maxf, fl ||| Flags.saturated)
    else (f.code n mag, fl ||| flagIf (inexact && m != 0 && f.tiny m e) Flags.underflow)

/-- CVT to a signed integer of w bits (R119): the value and the flags. -/
def cvtInt (w : Nat) (rm : Rounding) (v : FVal) : Int × Flags :=
  let lo : Int := -(2 ^ (w - 1) : Nat)
  let hi : Int := (2 ^ (w - 1) : Nat) - 1
  match v with
  | .nan => (0, Flags.invalid)
  | .inf n => (if n then lo else hi, Flags.saturated)
  | .fin n m e =>
    let (y, inexact) := roundTo rm n m e 0
    let i : Int := if n then -(y : Int) else y
    let fl := flagIf inexact Flags.inexact
    if i < lo then (lo, fl ||| Flags.saturated) else if i > hi then (hi, fl ||| Flags.saturated) else (i, fl)

/-- A widening conversion (R118): exact, infinities and zero signs kept, NaN canonical, no flag. -/
def Fmt.widen (f : Fmt) (v : FVal) : Nat := (f.round .rne v).1

/-! ### Exact arithmetic (R117, R145) -/

/-- The sign of an exact sum that is zero (R117). -/
def zeroSign (rm : Rounding) (n1 n2 : Bool) : Bool := if n1 = n2 then n1 else rm == .rd

/-- An exact sum; none is an invalid operation. -/
def FVal.add (rm : Rounding) (a b : FVal) : Option FVal :=
  match a, b with
  | .nan, _ | _, .nan => some .nan
  | .inf n, .inf n' => if n = n' then some (.inf n) else none
  | .inf n, _ | _, .inf n => some (.inf n)
  | .fin n1 m1 e1, .fin n2 m2 e2 =>
    let e := min e1 e2
    let i1 : Int := (m1 * 2 ^ (e1 - e).toNat : Nat)
    let i2 : Int := (m2 * 2 ^ (e2 - e).toNat : Nat)
    let t := (if n1 then -i1 else i1) + (if n2 then -i2 else i2)
    if t = 0 then some (.fin (zeroSign rm n1 n2) 0 e) else some (.fin (decide (t < 0)) t.natAbs e)

/-- A value with its sign changed. -/
def FVal.neg : FVal → FVal
  | .nan => .nan
  | .inf n => .inf !n
  | .fin n m e => .fin (!n) m e

/-- An exact product; none is an invalid operation. -/
def FVal.mul (a b : FVal) : Option FVal :=
  match a, b with
  | .nan, _ | _, .nan => some .nan
  | .inf n, .inf n' => some (.inf (n != n'))
  | .inf n, .fin n' m _ | .fin n' m _, .inf n => if m = 0 then none else some (.inf (n != n'))
  | .fin n1 m1 e1, .fin n2 m2 e2 => some (.fin (n1 != n2) (m1 * m2) (e1 + e2))

/-- The rounded result, or the canonical NaN with INVALID. -/
def Fmt.finish (f : Fmt) (rm : Rounding) (r : Option FVal) : Nat × Flags :=
  match r with
  | some v => f.round rm v
  | none => (f.canon, Flags.invalid)

/-- a × b + c in one rounding; 0 × infinity is invalid whatever the addend (R145). -/
def FVal.fma (rm : Rounding) (a b c : FVal) : Option FVal := (a.mul b).bind fun p => p.add rm c

/-- Order of two values that are not NaN, −0 equal to +0. -/
def FVal.cmp (a b : FVal) : Ordering :=
  let key (v : FVal) (e : Int) : Int := match v with
    | .fin n m e' => let i : Int := (m * 2 ^ (e' - e).toNat : Nat); if n then -i else i
    | _ => 0
  match a, b with
  | .inf n, .inf n' => if n = n' then .eq else if n then .lt else .gt
  | .inf n, _ => if n then .lt else .gt
  | _, .inf n => if n then .gt else .lt
  | .fin _ _ e1, .fin _ _ e2 => compare (key a (min e1 e2)) (key b (min e1 e2))
  | _, _ => .eq

/-- The sign bit of a value. -/
def FVal.isNeg : FVal → Bool
  | .nan => false
  | .inf n => n
  | .fin n _ _ => n

/-- minimumNumber and maximumNumber of two codes (R117, R145): −0 is less than +0. -/
def Fmt.minmax (f : Fmt) (wantMax : Bool) (a b : Nat) : Nat :=
  match f.val a, f.val b with
  | .nan, .nan => f.canon
  | .nan, _ => b
  | _, .nan => a
  | x, y =>
    let less := match x.cmp y with
      | .lt => true
      | .gt => false
      | .eq => x.isNeg
    if less = wantMax then b else a

/-! ### The functions of VUN (R146) -/

/-- The integer square root, one bit at a time from bit `i` − 1 down. -/
def isqrt (n : Nat) : Nat → Nat → Nat
  | 0, r => r
  | i + 1, r => isqrt n i (if (r + 2 ^ i) * (r + 2 ^ i) ≤ n then r + 2 ^ i else r)

/-- A positive real from the integer part of its multiple of 2^(−e) and whether more follows: the last bit of the dyadic
value stands for the part that is cut off, which changes no rounding to fewer bits. -/
def jam (n : Nat) (more : Bool) (e : Int) : FVal := .fin false (2 * n + b2n more) (e - 1)

/-- 1 / (m × 2^e). -/
def rcpOf (m : Nat) (e : Int) : FVal :=
  let k := Nat.log2 m + 20
  jam (2 ^ k / m) (2 ^ k % m != 0) (-(k : Int) - e)

/-- sqrt(m × 2^e). -/
def sqrtOf (m : Nat) (e : Int) : FVal :=
  let (m, e) := if e % 2 = 0 then (m, e) else (2 * m, e - 1)
  let n := m * 2 ^ 40
  let r := isqrt n 40 0
  jam r (r * r != n) (e / 2 - 20)

/-- 1 / sqrt(m × 2^e). -/
def rsqOf (m : Nat) (e : Int) : FVal :=
  let (m, e) := if e % 2 = 0 then (m, e) else (2 * m, e - 1)
  let n := 2 ^ 80
  let r := isqrt (n / m) 41 0
  jam r (r * r * m != n) (-(e / 2) - 40)

/-- Working precision of the transcendental functions, in bits (log entry 9). -/
def workBits : Nat := 128

/-- 2^(f / 2^n) × acc, bit by bit of f from the highest: `c` is the root of two for the bit in turn. -/
def exp2Frac (f : Nat) : Nat → Nat → Nat → Nat
  | 0, _, acc => acc
  | n + 1, c, acc =>
    let root := isqrt (c * 2 ^ workBits) (workBits + 1) 0
    exp2Frac f n root (if f.testBit n then acc * root / 2 ^ workBits else acc)

/-- 2^x for x = ± m × 2^e not 0. Beyond the range of bf16 a power outside it stands for the value. -/
def exp2Of (neg : Bool) (m : Nat) (e : Int) : FVal :=
  if (Nat.log2 m : Int) + e ≥ 9 then (if neg then jam 1 true (-400) else jam 1 true 400)
  else
    let whole := if e ≥ 0 then m * 2 ^ e.toNat else m / 2 ^ (-e).toNat
    let d := (-e).toNat
    let frac := if e ≥ 0 then 0 else m % 2 ^ d
    if frac = 0 then .fin false 1 (if neg then -(whole : Int) else whole)
    else
      let (whole, frac) := if neg then (-(whole : Int) - 1, 2 ^ d - frac) else ((whole : Int), frac)
      let bits := 100
      let f := if d ≤ bits then frac * 2 ^ (bits - d) else frac / 2 ^ (d - bits)
      jam (exp2Frac f bits (2 * 2 ^ workBits) (2 ^ workBits)) true (whole - workBits)

/-- The first bits of log2 u for u in [1, 2), by squaring; `u` has 2 × workBits fraction bits. -/
def log2Frac : Nat → Nat → Nat → Nat
  | 0, _, acc => acc
  | n + 1, u, acc =>
    let v := u * u / 2 ^ (2 * workBits)
    if v ≥ 2 * 2 ^ (2 * workBits) then log2Frac n (v / 2) (2 * acc + 1) else log2Frac n v (2 * acc)

/-- log2 of m × 2^e. -/
def log2Of (m : Nat) (e : Int) : FVal :=
  let l := Nat.log2 m
  let k := (l : Int) + e
  if m = 2 ^ l then .fin (decide (k < 0)) k.natAbs 0
  else
    let bits := 100
    let fr := log2Frac bits (m * 2 ^ (2 * workBits) / 2 ^ l) 0
    if k ≥ 0 then jam (k.toNat * 2 ^ bits + fr) true (-(bits : Int))
    else (jam (k.natAbs * 2 ^ bits - fr - 1) true (-(bits : Int))).neg

/-- The sum of y^i / i! for i up to `n`, in Horner form, all numbers with workBits fraction bits. -/
def expSeries (y : Nat) : Nat → Nat → Nat
  | 0, acc => acc
  | n + 1, acc => expSeries y n (2 ^ workBits + y * acc / (2 ^ workBits * (n + 1)))

/-- A fixed-point number squared `n` times. -/
def squared : Nat → Nat → Nat
  | 0, v => v
  | n + 1, v => squared n (v * v / 2 ^ workBits)

/-- tanh of ± m × 2^e not 0: near 0 the value is just below the operand, far out just below 1. -/
def tanhOf (neg : Bool) (m : Nat) (e : Int) : FVal :=
  let k := (Nat.log2 m : Int) + e
  let mag :=
    if k ≥ 3 then jam (2 ^ 40 - 1) true (-40)
    else if k < -20 then jam (m * 2 ^ 30 - 1) true (e - 30)
    else
      let y := if e + workBits + 1 ≥ 6 then m * 2 ^ (e + workBits + 1 - 6).toNat else 0
      let ex := squared 6 (expSeries y 40 (2 ^ workBits))
      jam ((ex - 2 ^ workBits) * 2 ^ workBits / (ex + 2 ^ workBits)) true (-(workBits : Int))
  if neg then mag.neg else mag

/-- EXP2, LOG2, RCP, RSQ, SQRT and TANH before rounding, with the special operands of R146 and R117; none is invalid. -/
def vunVal (f : VFn) (v : FVal) : Option FVal :=
  match f, v with
  | _, .nan => some .nan
  | .abs, v | .neg, v => some v
  | .exp2, .inf n => some (if n then .fin false 0 0 else .inf false)
  | .exp2, .fin n m e => some (if m = 0 then .fin false 1 0 else exp2Of n m e)
  | .rcp, .inf n => some (.fin n 0 0)
  | .rcp, .fin n m e => some (if m = 0 then .inf n else if n then (rcpOf m e).neg else rcpOf m e)
  | .tanh, .inf n => some (.fin n 1 0)
  | .tanh, .fin n m e => some (if m = 0 then .fin n 0 0 else tanhOf n m e)
  | .log2, .inf n | .sqrt, .inf n => if n then none else some (.inf false)
  | .rsq, .inf n => if n then none else some (.fin false 0 0)
  | .log2, .fin n m e => if m = 0 then some (.inf true) else if n then none else some (log2Of m e)
  | .sqrt, .fin n m e => if m = 0 then some (.fin n 0 0) else if n then none else some (sqrtOf m e)
  | .rsq, .fin n m e => if m = 0 then some (.inf n) else if n then none else some (rsqOf m e)

/-- VUN of one lane of format `t` (R146): ABS and NEG on the bits, the others rounded to bf16 and then written in `t`. DEDUCED (log
entry 135): a value between half of bf16's smallest subnormal and that subnormal is rounded to nearest, up to it. -/
def vunLane (t : Fmt) (f : VFn) (code : Nat) : Nat × Flags :=
  let v := t.val code
  let sign := 2 ^ (t.e + t.m)
  match f with
  | .abs => if v = .nan then (t.canon, 0) else (code % sign, 0)
  | .neg => if v = .nan then (t.canon, 0) else ((code + sign) % (2 * sign), 0)
  | f =>
    let (y, fl) := Fmt.bf16.finish .rne (vunVal f v)
    if t = Fmt.bf16 then (y, fl)
    else
      let (z, fl') := t.round .rne (Fmt.bf16.val y)
      (z, fl ||| fl')

/-! ### Types by code (R81) -/

/-- The format of a floating type code; none for the others. -/
def TyCode.fmt : TyCode → Option Fmt
  | .f32 => some .f32
  | .bf16 => some .bf16
  | .f16 => some .f16
  | .e4m3 => some .e4m3
  | .e5m2 => some .e5m2
  | _ => none

/-- The width of an integer type code. -/
def TyCode.intWidth : TyCode → Nat
  | .i8 => 8
  | .i16 => 16
  | _ => 32

/-- The format of a floating vector major (R50). -/
def FType.fmt : FType → Fmt
  | .f32 => .f32
  | .bf16 => .bf16
  | .f16 => .f16

/-- Whether a conversion between two formats is widening, or to the same type (R118). -/
def exactPair (a b : Fmt) : Bool :=
  a == b || ((a == Fmt.bf16 || a == Fmt.f16) && b == Fmt.f32)
    || ((a == Fmt.e4m3 || a == Fmt.e5m2) && (b == Fmt.f16 || b == Fmt.bf16 || b == Fmt.f32))

/-- CVT of a code of format `a` to a type code (R118, R119): the bits and the flags. A conversion to the same type keeps
the bits. -/
def cvtCode (a : Fmt) (t : TyCode) (rm : Rounding) (code : Nat) : Nat × Flags :=
  match TyCode.fmt t with
  | some b =>
    if a = b then (if a.val code = .nan then b.canon else code, 0)
    else if exactPair a b then (b.widen (a.val code), 0)
    else b.cvt rm (a.val code)
  | none =>
    let w := TyCode.intWidth t
    let (i, fl) := cvtInt w rm (a.val code)
    (fld (wordI i) 0 w, fl)

end Sys2Proof.Machine
end

