-- ==== Sys2Proof/Machine/Flags.lean ====
section
/-! DEFINITION. Flag computations: FPFLAGS (R116, R120) and the conditions of CMP, CMPI and VCMP (R136, R147, R152). -/

namespace Sys2Proof.Machine

open Sys2Proof

/-- The bits of FPFLAGS that hold a value: RM and the five flags (R120). -/
def fpMask : Word := 0x31F

/-- FPFLAGS.RM of a thread (R116, R120). -/
def Thread.rm (t : Thread) : Rounding :=
  match fld t.fpflags 8 2 with
  | 0 => .rne
  | 1 => .rz
  | 2 => .ru
  | _ => .rd

/-- Set the flags an instruction raised; they are sticky (R120). -/
def Thread.raise (t : Thread) (fl : Flags) : Thread := { t with fpflags := t.fpflags ||| fl.setWidth 64 }

/-- A condition of R136 on two strings of `w` bits. -/
def condHolds (c : Cond) (w x y : Nat) : Bool :=
  match c with
  | .eq => x == y
  | .ne => x != y
  | .lt => decide (signedOf w x < signedOf w y)
  | .ge => decide (signedOf w x ≥ signedOf w y)
  | .ltn => decide (x < y)
  | .gen => decide (x ≥ y)
  | .tst => x &&& y != 0

/-- A condition of R147 on two floating values. -/
def fcondHolds (c : FCond) (a b : FVal) : Bool :=
  let un := a == .nan || b == .nan
  let o := a.cmp b
  match c with
  | .eq => !un && o == .eq
  | .ne => un || o != .eq
  | .lt => !un && o == .lt
  | .ge => !un && o != .lt
  | .le => !un && o != .gt
  | .gt => !un && o == .gt
  | .un => un

end Sys2Proof.Machine
end

