-- ==== Sys2Proof/Machine/Scalar.lean ====
section
/-! DEFINITION. The IALU, the immediates, shifts and upper parts, comparisons, predicates and selection, the
operand-extension registers but XLD, and MADR (R128 to R142). -/

namespace Sys2Proof.Machine

open Sys2Proof

/-! ### The results of R131 -/

/-- floor(sext(a) / 2^n). -/
def shaW (a : Word) (n : Nat) : Word := wordI (signedOf 64 a.toNat / (2 ^ n : Nat))
/-- Rotate right by n (R131). -/
def rotW (a : Word) (n : Nat) : Word := word (a.toNat / 2 ^ n + a.toNat % 2 ^ n * 2 ^ (64 - n))
/-- za × 2^n. -/
def shlW (a : Word) (n : Nat) : Word := word (a.toNat * 2 ^ n)
/-- floor(za / 2^n). -/
def shrW (a : Word) (n : Nat) : Word := word (a.toNat / 2 ^ n)
/-- A shift amount: the low six bits (R131). -/
def amount (b : Word) : Nat := b.toNat % 64
/-- DIV: −1 for a zero divisor; −2^63 / −1 wraps to itself (R131). -/
def divW (a b : Word) : Word :=
  if b = 0 then wordI (-1) else wordI ((signedOf 64 a.toNat).tdiv (signedOf 64 b.toNat))
/-- REM: the dividend for a zero divisor (R131). -/
def remW (a b : Word) : Word :=
  if b = 0 then a else wordI ((signedOf 64 a.toNat).tmod (signedOf 64 b.toNat))
/-- DIVN (R131). -/
def divnW (a b : Word) : Word := if b = 0 then word (2 ^ 64 - 1) else word (a.toNat / b.toNat)
/-- REMN (R131). -/
def remnW (a b : Word) : Word := if b = 0 then a else word (a.toNat % b.toNat)
/-- MULH (R131). -/
def mulhW (a b : Word) : Word := wordI (signedOf 64 a.toNat * signedOf 64 b.toNat / (2 ^ 64 : Nat))
/-- MULHN (R131). -/
def mulhnW (a b : Word) : Word := word (a.toNat * b.toNat / 2 ^ 64)
/-- Leading zero bits; 64 for 0 (R131). -/
def clzW (a : Word) : Word := if a = 0 then 64 else word (63 - Nat.log2 a.toNat)
/-- One bits (R131). -/
def popcW (a : Word) : Word := word ((List.range 64).filter fun i => bitOf a i).length

/-! ### IALU (R62, R131) -/

/-- A two-operand IALU instruction: g[d] := f of g[a] and g[b]. -/
def ialu (i : Instr) (y x : Bool) (b a d : GReg) (f : Word → Word → Word) (s : State) : Out' :=
  issue { instr := i, srcs := [gsrc a x, gsrc b y], dsts := [gdst d] }
    (fun s => (s.wg d (f (s.rg a) (s.rg b))).advance 4) s

/-- A one-operand instruction: g[d] := f of g[a]. -/
def unary (i : Instr) (x : Bool) (a d : GReg) (f : Word → Word) (s : State) : Out' :=
  issue { instr := i, srcs := [gsrc a x], dsts := [gdst d] } (fun s => (s.wg d (f (s.rg a))).advance 4) s

/-- ADD. -/
def execAdd (y x : Bool) (b a d : GReg) (s : State) : Out' := ialu (.add y x b a d) y x b a d (· + ·) s
/-- SUB. -/
def execSub (y x : Bool) (b a d : GReg) (s : State) : Out' := ialu (.sub y x b a d) y x b a d (· - ·) s
/-- AND. -/
def execAnd (y x : Bool) (b a d : GReg) (s : State) : Out' := ialu (.and y x b a d) y x b a d (· &&& ·) s
/-- OR. -/
def execOr (y x : Bool) (b a d : GReg) (s : State) : Out' := ialu (.or y x b a d) y x b a d (· ||| ·) s
/-- XOR. -/
def execXor (y x : Bool) (b a d : GReg) (s : State) : Out' := ialu (.xor y x b a d) y x b a d (· ^^^ ·) s
/-- ANDN. -/
def execAndn (y x : Bool) (b a d : GReg) (s : State) : Out' :=
  ialu (.andn y x b a d) y x b a d (fun p q => p &&& ~~~q) s
/-- SHL. -/
def execShl (y x : Bool) (b a d : GReg) (s : State) : Out' :=
  ialu (.shl y x b a d) y x b a d (fun p q => shlW p (amount q)) s
/-- SHR. -/
def execShr (y x : Bool) (b a d : GReg) (s : State) : Out' :=
  ialu (.shr y x b a d) y x b a d (fun p q => shrW p (amount q)) s
/-- SHA. -/
def execSha (y x : Bool) (b a d : GReg) (s : State) : Out' :=
  ialu (.sha y x b a d) y x b a d (fun p q => shaW p (amount q)) s
/-- ROT. -/
def execRot (y x : Bool) (b a d : GReg) (s : State) : Out' :=
  ialu (.rot y x b a d) y x b a d (fun p q => rotW p (amount q)) s
/-- MIN. -/
def execMin (y x : Bool) (b a d : GReg) (s : State) : Out' :=
  ialu (.min y x b a d) y x b a d (fun p q => if p.slt q then p else q) s
/-- MAX. -/
def execMax (y x : Bool) (b a d : GReg) (s : State) : Out' :=
  ialu (.max y x b a d) y x b a d (fun p q => if q.slt p then p else q) s
/-- MINN. -/
def execMinn (y x : Bool) (b a d : GReg) (s : State) : Out' :=
  ialu (.minn y x b a d) y x b a d (fun p q => if p.toNat < q.toNat then p else q) s
/-- MAXN. -/
def execMaxn (y x : Bool) (b a d : GReg) (s : State) : Out' :=
  ialu (.maxn y x b a d) y x b a d (fun p q => if p.toNat > q.toNat then p else q) s
/-- MUL. -/
def execMul (y x : Bool) (b a d : GReg) (s : State) : Out' := ialu (.mul y x b a d) y x b a d (· * ·) s
/-- MULH. -/
def execMulh (y x : Bool) (b a d : GReg) (s : State) : Out' := ialu (.mulh y x b a d) y x b a d mulhW s
/-- MULHN. -/
def execMulhn (y x : Bool) (b a d : GReg) (s : State) : Out' := ialu (.mulhn y x b a d) y x b a d mulhnW s
/-- DIV. -/
def execDiv (y x : Bool) (b a d : GReg) (s : State) : Out' := ialu (.div y x b a d) y x b a d divW s
/-- DIVN. -/
def execDivn (y x : Bool) (b a d : GReg) (s : State) : Out' := ialu (.divn y x b a d) y x b a d divnW s
/-- REM. -/
def execRem (y x : Bool) (b a d : GReg) (s : State) : Out' := ialu (.rem y x b a d) y x b a d remW s
/-- REMN. -/
def execRemn (y x : Bool) (b a d : GReg) (s : State) : Out' := ialu (.remn y x b a d) y x b a d remnW s
/-- CLZ. -/
def execClz (x : Bool) (a d : GReg) (s : State) : Out' := unary (.clz x a d) x a d clzW s
/-- POPC. -/
def execPopc (x : Bool) (a d : GReg) (s : State) : Out' := unary (.popc x a d) x a d popcW s
/-- SEXT: bits n:0 of a, n the low six bits of b. -/
def execSext (y x : Bool) (b a d : GReg) (s : State) : Out' :=
  ialu (.sext y x b a d) y x b a d (fun p q => sextLow p (amount q + 1)) s
/-- ADDW. -/
def execAddw (y x : Bool) (b a d : GReg) (s : State) : Out' :=
  ialu (.addw y x b a d) y x b a d (fun p q => sextLow (p + q) 32) s
/-- SUBW. -/
def execSubw (y x : Bool) (b a d : GReg) (s : State) : Out' :=
  ialu (.subw y x b a d) y x b a d (fun p q => sextLow (p - q) 32) s

/-! ### Immediates, shifts, upper parts (R133 to R135) -/

/-- ADDI. -/
def execAddi (i : BitVec 12) (x : Bool) (a d : GReg) (s : State) : Out' := unary (.addi i x a d) x a d (· + sx i) s
/-- ANDI. -/
def execAndi (i : BitVec 12) (x : Bool) (a d : GReg) (s : State) : Out' := unary (.andi i x a d) x a d (· &&& sx i) s
/-- ORI. -/
def execOri (i : BitVec 12) (x : Bool) (a d : GReg) (s : State) : Out' := unary (.ori i x a d) x a d (· ||| sx i) s
/-- XORI. -/
def execXori (i : BitVec 12) (x : Bool) (a d : GReg) (s : State) : Out' := unary (.xori i x a d) x a d (· ^^^ sx i) s
/-- SHLI. -/
def execShli (n : Fin 64) (x : Bool) (a d : GReg) (s : State) : Out' := unary (.shli n x a d) x a d (shlW · n) s
/-- SHRI. -/
def execShri (n : Fin 64) (x : Bool) (a d : GReg) (s : State) : Out' := unary (.shri n x a d) x a d (shrW · n) s
/-- SHAI. -/
def execShai (n : Fin 64) (x : Bool) (a d : GReg) (s : State) : Out' := unary (.shai n x a d) x a d (shaW · n) s
/-- ROTI. -/
def execRoti (n : Fin 64) (x : Bool) (a d : GReg) (s : State) : Out' := unary (.roti n x a d) x a d (rotW · n) s
/-- LUI (R135). -/
def execLui (i : BitVec 19) (d : GReg) (s : State) : Out' :=
  issue { instr := .lui i d, dsts := [gdst d] } (fun s => (s.wg d (sx i <<< 12)).advance 4) s
/-- ADDPC (R135): relative to its own address. -/
def execAddpc (i : BitVec 19) (d : GReg) (s : State) : Out' :=
  issue { instr := .addpc i d, dsts := [gdst d] } (fun s => (s.wg d (s.th.pc + sx i <<< 12)).advance 4) s

/-! ### Comparisons, selection, predicates (R136 to R138) -/

/-- CMP on 64 bits (R136). -/
def execCmp (y x : Bool) (b a : GReg) (c : Cond) (p : Reg8) (s : State) : Out' :=
  issue { instr := .cmp y x b a c p, srcs := [gsrc a x, gsrc b y] } (fun s =>
    (s.modTh fun t => t.putP p (condHolds c 64 (t.gv a).toNat (t.gv b).toNat)).advance 4) s
/-- CMP on the low 32 bits (R136). -/
def execCmpW (y x : Bool) (b a : GReg) (c : Cond) (p : Reg8) (s : State) : Out' :=
  issue { instr := .cmpW y x b a c p, srcs := [gsrc a x, gsrc b y] } (fun s =>
    (s.modTh fun t => t.putP p (condHolds c 32 ((t.gv a).toNat % 2 ^ 32) ((t.gv b).toNat % 2 ^ 32))).advance 4) s
/-- CMPI (R136). -/
def execCmpi (i : BitVec 12) (x : Bool) (a : GReg) (c : Cond) (p : Reg8) (s : State) : Out' :=
  issue { instr := .cmpi i x a c p, srcs := [gsrc a x] } (fun s =>
    (s.modTh fun t => t.putP p (condHolds c 64 (t.gv a).toNat (sx i).toNat)).advance 4) s
/-- SEL (R137). -/
def execSel (n : Bool) (p : Reg8) (y x : Bool) (b a d : GReg) (s : State) : Out' :=
  issue { instr := .sel n p y x b a d, srcs := [gsrc a x, gsrc b y], dsts := [gdst d] }
    (fun s => (s.wg d (if s.th.pv p != n then s.rg a else s.rg b)).advance 4) s

/-- A two-operand predicate operation: p[d] := f of p[a] and p[b]. -/
def plog (i : Instr) (b a d : Reg8) (f : Bool → Bool → Bool) (s : State) : Out' :=
  issue { instr := i } (fun s => (s.modTh fun t => t.putP d (f (t.pv a) (t.pv b))).advance 4) s

/-- PAND. -/
def execPand (b a d : Reg8) (s : State) : Out' := plog (.pand b a d) b a d (· && ·) s
/-- POR. -/
def execPor (b a d : Reg8) (s : State) : Out' := plog (.por b a d) b a d (· || ·) s
/-- PXOR. -/
def execPxor (b a d : Reg8) (s : State) : Out' := plog (.pxor b a d) b a d (· != ·) s
/-- PANDN. -/
def execPandn (b a d : Reg8) (s : State) : Out' := plog (.pandn b a d) b a d (fun p q => p && !q) s
/-- PFROMG. -/
def execPfromg (x : Bool) (a : GReg) (d : Reg8) (s : State) : Out' :=
  issue { instr := .pfromg x a d, srcs := [gsrc a x] }
    (fun s => (s.modTh fun t => t.putP d (t.gv a != 0)).advance 4) s
/-- PTOG. -/
def execPtog (a : Reg8) (d : GReg) (s : State) : Out' :=
  issue { instr := .ptog a d, dsts := [gdst d] } (fun s => (s.wg d (word (b2n (s.th.pv a)))).advance 4) s

/-! ### XSET, XGET, MADR (R139, R142) -/

/-- XSET. -/
def execXset (x : Bool) (a : GReg) (d : Reg8) (s : State) : Out' :=
  issue { instr := .xset x a d, srcs := [gsrc a x] } (fun s => (s.modTh fun t => t.putX d (t.gv a)).advance 4) s
/-- XGET. -/
def execXget (a : Reg8) (d : GReg) (s : State) : Out' :=
  issue { instr := .xget a d, dsts := [gdst d] } (fun s => (s.wg d (s.th.xv a)).advance 4) s

/-- The address MADR forms (R142). -/
def madrW (a : Word) (h v : BitVec 6) : Word :=
  if bitOf a 63 then setFld (setFld a 40 6 (fld a 40 6 + h.toNat)) 34 6 (fld a 34 6 + v.toNat)
  else word (2 ^ 63 + 2 ^ 62 + h.toNat * 2 ^ 40 + v.toNat * 2 ^ 34 + fld a 0 21)

/-- MADR. -/
def execMadr (h v : BitVec 6) (x : Bool) (a d : GReg) (s : State) : Out' :=
  unary (.madr h v x a d) x a d (madrW · h v) s

end Sys2Proof.Machine
end

