-- ==== Sys2Proof/Machine/Rput.lean ====
section
/-! DEFINITION. Remote register writes (R67, R248 to R250, R317). -/

namespace Sys2Proof.Machine

open Sys2Proof

/-- The step of the receiver after which a delivery inside a flight is written (R317); none outside one. -/
def State.putStep (s : State) (r : Dir) (dest_ : Nat) : Option Nat :=
  match s.stream, s.co.flight with
  | some _, some l =>
    match tget? s.flights l with
    | some f =>
      if (s.coreAt dest_).flight == some l && !f.left.contains dest_ then
        let i := tget f.steps s.cur.1 0
        some (match r with | .e | .s => i | .w | .n => i + 2)
      else none
    | none => none
  | _, _ => none

/-- Send one register value (R248): the waits of R202, R207 and R210, then the delivery on its way. -/
def State.sendPut (s : State) (dev core slot : Nat) (va : Word) (vec : Bool) (num : Nat) (val : Line)
    (step : Option Nat) : State :=
  let t := s.th
  let cls := if dev = s.devnum then 1 else 3
  if !t.acqReady then s.park .acquire
  else if !valuesReady t.outs then s.park .values
  else if t.wcnt cls ≥ 4095 then s.park (.room cls 1)
  else
    let id := s.txn + 1
    let path : Path := if dev = s.devnum then .mesh core else .pod dev
    let s := s.newId.addOut ⟨id, cls, false, va, 0x16, .none, noLine, path, t.asid.toNat⟩
    if dev = s.devnum then
      (s.send (.core s.cur.1) (.core core) (.rput ⟨dev, s.cur.1, s.cur.2, id⟩ slot vec num val step)).advance 4
    else
      let m : PodMsg := ⟨s.txn + 1, dev,
        .request s.cur.1 s.cur.2 id t.asid.toNat none (.rput (core % 32) (core / 32) slot vec num val), s.time.toNat, false⟩
      let s : State := { s with txn := s.txn + 1, podOut := s.podOut ++ [m] }
      s.advance 4

/-- The value and source of a sending form (R67). -/
def putSrc (c : Bool) (b : Fin 64) (y : Bool) : Src := if c then vsrc b else gsrc b y
/-- The value of a sending form. -/
def State.putVal (s : State) (c : Bool) (b : Fin 64) : Line := if c then s.rv b else (s.rg b).setWidth 512

/-- RPUT, neighbour form (R248). A neighbour beyond the edge, dead, or outside the window traps here. -/
def execRput (c : Bool) (r : Dir) (y : Bool) (b d : Fin 64) (s : State) : Out' :=
  issue { instr := .rput c r y b d, srcs := [putSrc c b y] } (fun s =>
    let va := neighbourAddr r s.cur.2
    match neighbour s.cur.1 r with
    | none => s.trap 0x08 va 0
    | some n =>
      if !s.present n || !inWindow s.th.meshwin s.devnum s.devnum (n % 32) (n / 32) then s.trap 0x08 va 0
      else
        let slot := s.cur.2
        s.sendPut s.devnum n slot va c d (s.putVal c b) (if slot = 0 then s.putStep r n else none)) s

/-- RPUT, mesh form (R248). -/
def execRputM (c y x : Bool) (b : Fin 64) (a : GReg) (d : Fin 64) (s : State) : Out' :=
  issue { instr := .rputM c y x b a d, srcs := [gsrc a x, putSrc c b y] } (fun s =>
    let va := s.rg a
    match meshTarget s.devnum s.cur.1 va with
    | none => s.trap 0x08 va 0
    | some (dev, cx, cy, off) =>
      let n := cy * 32 + cx
      if !isMesh va || off ≥ 16 || !inWindow s.th.meshwin dev s.devnum cx cy
          || (dev == s.devnum && !s.routeOk s.cur.1 n) then s.trap 0x08 va 0
      else if s.podGone.contains dev then s.goneTrap va 0x16 4
      else s.sendPut dev n off va c d (s.putVal c b) none) s

/-- RPUT, arm form (R249): the own register is empty until a delivery fills it. -/
def execRputArm (c : Bool) (d : Fin 64) (s : State) : Out' :=
  issue { instr := .rputArm c d, dsts := [if c then vdst d else gdst d] } (fun s =>
    (s.modTh fun t => if c then t.markV d .armed else t.markG d .armed).advance 4) s

/-- A delivery is written into the receiver's register (R250). -/
def State.putWrite (s : State) (core slot : Nat) (vec : Bool) (num : Nat) (val : Line) : State :=
  s.modThread core slot fun t =>
    if vec then t.fillV num val else t.fillG num (val.setWidth 64)

/-- A delivery cannot be written yet: its step in a flight has not issued (R317), or a producer of its register is pending
(R250). -/
def State.putHeld (s : State) (core : Nat) (p : InPut) : Bool :=
  let t := s.thread core p.slot
  let early := match p.step, (s.coreAt core).flight with
    | some n, some l => match tget? s.flights l with
      | some f => decide (tget f.steps core 0 ≤ n)
      | none => false
    | _, _ => false
  early || (if p.vec then t.vs p.num else t.gs p.num).isPending

/-- A delivery is performed: written, or rejected when its receiver is no longer live; its sender is answered (R232, R250). -/
def State.putPerform (s : State) (core : Nat) (p : InPut) : State :=
  if s.liveCore core && (s.thread core p.slot).live then
    (s.putWrite core p.slot p.vec p.num p.val).answer (.core core) p.who .done
  else s.answer (.core core) p.who (.reject 1)

/-- Two deliveries of one sender to one receiver (R250). -/
def InPut.follows (p q : InPut) : Bool := p.slot == q.slot && p.who.dev == q.who.dev && p.who.core == q.who.core
  && p.who.slot == q.who.slot

/-- Deliveries in a network interface are performed in order, each as soon as nothing holds it; a sender's deliveries to one
receiver keep their order (R250). -/
def State.settleFrom (s : State) (core : Nat) (kept : List InPut) : List InPut → State
  | [] => s.modCore core fun k => { k with inbox := kept }
  | p :: r =>
    if kept.any p.follows || ((s.thread core p.slot).live && s.putHeld core p) then State.settleFrom s core (kept ++ [p]) r
    else State.settleFrom (s.putPerform core p) core kept r

/-- The network interface of a core performs what it can. -/
def State.settlePuts (s : State) (core : Nat) : State :=
  if (s.coreAt core).inbox.isEmpty then s else s.settleFrom core [] (s.coreAt core).inbox

/-- A delivery arrives (R250): rejected for a dead or idle target or a register outside the partition; else it is performed, or
waits in the interface. -/
def State.putArrive (s : State) (core : Nat) (p : InPut) : State :=
  if !s.liveCore core || !(s.thread core p.slot).live then s.answer (.core core) p.who (.reject 1)
  else if !inPart (s.coreAt core).part (if p.vec then .v else .g) p.num then s.answer (.core core) p.who (.reject 3)
  else (s.modCore core fun k => { k with inbox := k.inbox ++ [p] }).settlePuts core

end Sys2Proof.Machine
end

