-- ==== Sys2Proof/Machine/Typed.lean ====
section
/-! DEFINITION. Typed operations and NBAR as the issuing core performs them (R267, R268, R271, R294). -/

namespace Sys2Proof.Machine

open Sys2Proof

/-- TYPEFAULT of an address that is not on a SYNC page (R268, R270). -/
def State.typeFault59 (s : State) (va : Word) (maj : Nat) : State := s.trap 0x09 va (word (2 ^ 59 + maj))

/-- The checks of R268 on one address, with the answer's physical address. -/
def State.typedCheck (s : State) (va : Word) (maj : Nat) : Except State Nat :=
  if va.toNat % 8 != 0 then .error (s.trap 0x04 va 0)
  else if isMesh va then .error (s.typeFault59 va maj)
  else
    match s.placeOf s.actx va 8 { r := true, w := true } with
    | .trap c v1 v2 => .error (s.trap c v1 v2)
    | .walk va n => .error (s.startWalk va n 4)
    | .ok (.glob e pa) => if e.sync then .ok pa else .error (s.typeFault59 va maj)
    | .ok _ => .error (s.typeFault59 va maj)

/-- Send a typed request to its SSP, or through the port to its home device (R268, R272). -/
def State.sendTyped (s : State) (src : Node) (r : TypedReq) : State :=
  if paDev r.pa = s.devnum then s.send src (.slice (homeSlice (paOff r.pa) true)) (.typed r)
  else
    let (c, t, id) := match r.who with
      | .thread w => (w.core, w.slot, w.id)
      | .sig _ c t _ => (c, t, 0)
    { s with txn := s.txn + 1, podOut := s.podOut ++ [⟨s.txn + 1, paDev r.pa,
        .request c t id r.asid none (.typed r.k r.maj r.pa r.va r.b r.lockPa r.lockOk r.data r.lim), s.time.toNat, false⟩] }

/-- The lock of a CND.WAIT lies on the 4 KiB page of its condition word, or elsewhere (R288; log entry 98). -/
def lockPlace (va : Word) (pa : Nat) (lock : Option Word) : Nat × Bool :=
  match lock with
  | none => (0, true)
  | some l =>
    if l.toNat / 4096 = va.toNat / 4096 then (pa / 4096 * 4096 + l.toNat % 4096, true) else (0, false)

/-- A typed operation at issue (R268, R271): checks, the release at .pod, the accesses that the core's matrix queue has still to
make to the words it changes (R161, R199), then the request; the thread parks for its reply. `wb` is the watchpoint bit of operations that can wait, or of the others. DESIGN CHOICE
(log entry 98): the lock address of a CND.WAIT is tested for alignment after the checks of the condition word. -/
def typedOp (wd wb : Nat) (k : TypedKind) (lim : Lim) (va : Word) (b : Word) (lock : Option Word) (dst : Dest)
    (data : Line) (s : State) (len : Nat := 4) : State :=
  let maj := wd / 2 % 64
  match s.typedCheck va maj with
  | .error s' => s'
  | .ok pa =>
    if (lock.getD 0).toNat % 8 != 0 then s.trap 0x04 (lock.getD 0) 0
    else
      let (lockPa, lockOk) := lockPlace va pa lock
      match s.th.watchHit 1 wb va 8 with
      | some (i, byte) => s.watchTrap 1 i byte maj 4
      | none =>
        if s.podGone.contains (paDev pa) then s.goneTrap va maj 4
        else if !relReady .pod s.th.outs then s.park (.order .pod)
        else if !s.th.acqReady then s.park .acquire
        else if let some id := s.wordHold s.cur.1 (s.typedLines s.th.asid.toNat k pa b lockPa) then s.park (.operand id)
        else
          let id := s.txn + 1
          let cls := if paDev pa = s.devnum then 2 else 3
          let path : Path := if paDev pa = s.devnum then .home else .pod (paDev pa)
          let asid := s.th.asid.toNat
          let who : Who := ⟨s.devnum, s.cur.1, s.cur.2, id⟩
          let s := s.newId.addOut ⟨id, cls, true, va, maj, dst, noLine, path, s.th.asid.toNat⟩
          let s := s.sendTyped (.core s.cur.1) ⟨.thread who, k, maj, pa, va, b, lockPa, lockOk, lim, data, asid⟩
          let s := s.modTh fun t => { (t.await dst id .typed va) with putBuf := data }
          s.awaitReply ⟨.typed, id, 1, wd, len, va, b, dst, [], none⟩

/-- A g destination of a typed operation: the whole 64-bit reply. -/
def gval (d : GReg) : Dest := .g d 8 false

/-- LDSY (R267, R278). -/
def execLdsy (l : Lim) (t : Bool) (a d : GReg) (s : State) : Out' :=
  issue { instr := .ldsy l t a d, srcs := [gsrc a t], dsts := [gdst d] }
    (fun s => typedOp (wordOf (.ldsy l t a d)) 59 .ldsy l (s.rg a) 0 none (gval d) 0 s) s
/-- STSY (R267, R278). -/
def execStsy (l : Lim) (t : Bool) (b a : GReg) (s : State) : Out' :=
  issue { instr := .stsy l t b a, srcs := [gsrc a t, gsrc b t] }
    (fun s => typedOp (wordOf (.stsy l t b a)) 59 .stsy l (s.rg a) (s.rg b) none .none 0 s) s
/-- CNT.ADD (R279). -/
def execCntAdd (t : Bool) (b a : GReg) (s : State) : Out' :=
  issue { instr := .cntAdd t b a, srcs := [gsrc a t, gsrc b t] }
    (fun s => typedOp (wordOf (.cntAdd t b a)) 60 .cntAdd (.wait 0) (s.rg a) (s.rg b) none .none 0 s) s
/-- CNT.FADD (R279). -/
def execCntFadd (t : Bool) (b a d : GReg) (s : State) : Out' :=
  issue { instr := .cntFadd t b a d, srcs := [gsrc a t, gsrc b t], dsts := [gdst d] }
    (fun s => typedOp (wordOf (.cntFadd t b a d)) 60 .cntFadd (.wait 0) (s.rg a) (s.rg b) none (gval d) 0 s) s
/-- CNT.WAIT (R279). -/
def execCntWait (l : Lim) (t : Bool) (b a d : GReg) (s : State) : Out' :=
  issue { instr := .cntWait l t b a d, srcs := [gsrc a t, gsrc b t], dsts := [gdst d] }
    (fun s => typedOp (wordOf (.cntWait l t b a d)) 59 .cntWait l (s.rg a) (s.rg b) none (gval d) 0 s) s
/-- BAR.ARR (R280). -/
def execBarArr (t : Bool) (a d : GReg) (s : State) : Out' :=
  issue { instr := .barArr t a d, srcs := [gsrc a t], dsts := [gdst d] }
    (fun s => typedOp (wordOf (.barArr t a d)) 60 .barArr (.wait 0) (s.rg a) 0 none (gval d) 0 s) s
/-- BAR.WAIT (R280). -/
def execBarWait (l : Lim) (t : Bool) (b a d : GReg) (s : State) : Out' :=
  issue { instr := .barWait l t b a d, srcs := [gsrc a t, gsrc b t], dsts := [gdst d] }
    (fun s => typedOp (wordOf (.barWait l t b a d)) 59 .barWait l (s.rg a) (s.rg b) none (gval d) 0 s) s
/-- BAR.ARW (R280). -/
def execBarArw (l : Lim) (t : Bool) (a d : GReg) (s : State) : Out' :=
  issue { instr := .barArw l t a d, srcs := [gsrc a t], dsts := [gdst d] }
    (fun s => typedOp (wordOf (.barArw l t a d)) 59 .barArw l (s.rg a) 0 none (gval d) 0 s) s
/-- LCK.ACQ (R283). -/
def execLckAcq (l : Lim) (t : Bool) (a : GReg) (s : State) : Out' :=
  issue { instr := .lckAcq l t a, srcs := [gsrc a t] } (fun s => typedOp (wordOf (.lckAcq l t a)) 59 .lckAcq l (s.rg a) 0 none .none 0 s) s
/-- LCK.REL (R283). -/
def execLckRel (t : Bool) (a : GReg) (s : State) : Out' :=
  issue { instr := .lckRel t a, srcs := [gsrc a t] } (fun s => typedOp (wordOf (.lckRel t a)) 60 .lckRel (.wait 0) (s.rg a) 0 none .none 0 s) s
/-- Q.PUT: the data goes into the thread's put buffer (R286, R287). -/
def execQPut (l : Lim) (t : Bool) (b : VReg) (a : GReg) (s : State) : Out' :=
  issue { instr := .qPut l t b a, srcs := [gsrc a t, vsrc b] }
    (fun s => typedOp (wordOf (.qPut l t b a)) 59 .qPut l (s.rg a) 0 none .none (s.rv b) s) s
/-- Q.GET (R286). -/
def execQGet (l : Lim) (t : Bool) (a : GReg) (d : VReg) (s : State) : Out' :=
  issue { instr := .qGet l t a d, srcs := [gsrc a t], dsts := [vdst d] }
    (fun s => typedOp (wordOf (.qGet l t a d)) 59 .qGet l (s.rg a) 0 none (.v d) 0 s) s
/-- CND.WAIT: g[b] is the address of its lock (R288). -/
def execCndWait (l : Lim) (t : Bool) (b a : GReg) (s : State) : Out' :=
  issue { instr := .cndWait l t b a, srcs := [gsrc a t, gsrc b t] }
    (fun s => typedOp (wordOf (.cndWait l t b a)) 59 .cndWait l (s.rg a) (s.rg b) (some (s.rg b)) .none 0 s) s
/-- CND.SIG (R288). -/
def execCndSig (t : Bool) (a : GReg) (k : Bool) (s : State) : Out' :=
  issue { instr := .cndSig t a k, srcs := [gsrc a t] }
    (fun s => typedOp (wordOf (.cndSig t a k)) 60 (if k then .cndSigAll else .cndSigOne) (.wait 0) (s.rg a) 0 none .none 0 s) s
/-- TINIT (R289). -/
def execTinit (y x : Bool) (b a : GReg) (k : ObjType) (s : State) : Out' :=
  issue { instr := .tinit y x b a k, srcs := [gsrc a x, gsrc b y] }
    (fun s => typedOp (wordOf (.tinit y x b a k)) 60 (.tinit k) (.wait 0) (s.rg a) (s.rg b) none .none 0 s) s
/-- TRAW; privileged (R291). -/
def execTraw (y x : Bool) (b a : GReg) (k : Fin 16) (s : State) : Out' :=
  issue { instr := .traw y x b a k, srcs := [gsrc a x, gsrc b y], priv := true }
    (fun s => typedOp (wordOf (.traw y x b a k)) 60 (.traw k) (.wait 0) (s.rg a) (s.rg b) none .none 0 s) s
/-- TCLR (R290). -/
def execTclr (x : Bool) (a : GReg) (s : State) : Out' :=
  issue { instr := .tclr x a, srcs := [gsrc a x] } (fun s => typedOp (wordOf (.tclr x a)) 60 .tclr (.wait 0) (s.rg a) 0 none .none 0 s) s

/-! ### NBAR (R294 to R296) -/

/-- The live members of a group in increasing core number (R294). -/
def State.members (s : State) (grp : Nat) : List Nat :=
  (List.range 768).filter fun c => bitOf (tget s.groups grp 0) c && s.liveCore c

/-- Rounds of an episode of n members: ceil(log2 n) (R295). -/
def nbRounds (n : Nat) : Nat := clog2 n

/-- The result of an NBAR (R295): the core and rank awaited longest, and the wait. -/
def nbResult (members : List Nat) (rank wait : Nat) : Word :=
  word (members.getD rank 0 * 2 ^ 54 + rank * 2 ^ 44 + min wait (2 ^ 44 - 1))

/-- NBAR state of a core for a group. -/
def State.nbAt (s : State) (c grp : Nat) : NbGroup := tget (s.coreAt c).nb grp {}
/-- NBAR state replaced. -/
def State.setNb (s : State) (c grp : Nat) (n : NbGroup) : State := s.modCore c fun k => { k with nb := tset grp n k.nb }

/-- The notification of a round goes to rank (r + 2^k) mod n (R295). -/
def State.nbNotify (s : State) (c grp : Nat) (cur : NbCur) (parity : Nat) : State :=
  let n := cur.members.length
  let dest_ := cur.members.getD ((cur.rank + 2 ^ cur.round) % n) 0
  s.send (.core c) (.core dest_) (.nbar grp cur.rank cur.round parity)

/-- Advance an episode through the rounds whose notifications have arrived; `fuel` bounds the rounds (R295). The thread's
reply is sent after the last round. -/
def State.nbAdvance (s : State) (c grp : Nat) : Nat → State
  | 0 => s
  | f + 1 =>
    let nb := s.nbAt c grp
    match nb.cur with
    | none => s
    | some cur =>
      let n := cur.members.length
      let awaited := (cur.rank + n - 2 ^ cur.round % n) % n
      if cur.round ≥ nbRounds n then
        let (rank, wait) := cur.best.getD (cur.rank, 0)
        let s := s.setNb c grp { nb with cur := none, parity := 1 - nb.parity }
        s.send (.core c) (.core c) (.reply cur.slot cur.id (.value ((nbResult cur.members rank wait).setWidth 512)))
      else
        match nb.kept.find? fun k => k.1 == nb.parity && k.2.1 == cur.round with
        | none => s
        | some k =>
          let wait := k.2.2.2 - cur.start
          let best := match cur.best with
            | none => some (awaited, wait)
            | some (_, b) => if wait > b then some (awaited, wait) else cur.best
          let cur' := { cur with round := cur.round + 1, start := s.time.toNat, best := best }
          let s := s.setNb c grp { nb with cur := some cur', kept := nb.kept.erase k }
          let s := if cur'.round < nbRounds n then s.nbNotify c grp cur' nb.parity else s
          State.nbAdvance s c grp f

/-- The next NBAR of a group enters its episode when none is in progress and its release holds (R295). -/
def State.nbEnter (s : State) (c grp : Nat) : State :=
  let nb := s.nbAt c grp
  match nb.cur, nb.queue with
  | none, q :: rest =>
    if relReady .dev ((s.thread c q.slot).outs.filter fun o => o.id != q.id) then
      let members := s.members grp
      let rank := members.findIdx (· == c)
      let cur : NbCur := ⟨q.slot, q.id, 0, rank, members, s.time.toNat, none, if q.lim = 0 then 0 else s.time.toNat + 2 ^ q.lim⟩
      let s := s.setNb c grp { nb with cur := some cur, queue := rest }
      let s := if nbRounds members.length = 0 then s else s.nbNotify c grp cur nb.parity
      s.nbAdvance c grp 11
    else s
  | _, _ => s

/-- NBAR at issue (R294, R296): OBJFAULT for a group beyond 255 or a core that is no live member; a try with other members
traps before anything else. The NBAR joins those of its group at the core in issue order, and its release is the first part of its
episode (R295). -/
def nbarOp (wd : Nat) (l : Lim) (g : Word) (d : GReg) (s : State) (len : Nat := 4) : State :=
    let c := s.cur.1
    if g.toNat > 255 || !(s.members g.toNat).contains c then s.trap 0x0B g 8
    else
      let grp := g.toNat
      let members := s.members grp
      let n := members.length
      let rank := members.findIdx (· == c)
      if l = .try && n > 1 then s.trap 0x0A g (word ((rank + n - 1) % n * 2 ^ 16))
      else
        let id := s.txn + 1
        let lim := match l with | .wait n => n.val | .try => 0
        let s := s.newId.addOut ⟨id, 0, true, g, 0x31, gval d, noLine, .home, s.th.asid.toNat⟩
        let s := s.modTh fun t => t.await (gval d) id .nbar g
        let s := s.awaitReply ⟨.nbar, id, 1, wd, len, g, 0, gval d, [], none⟩
        let nb := s.nbAt c grp
        (s.setNb c grp { nb with queue := nb.queue ++ [⟨s.cur.2, id, lim⟩] }).nbEnter c grp

/-- NBAR. -/
def execNbar (l : Lim) (t : Bool) (a d : GReg) (s : State) : Out' :=
  issue { instr := .nbar l t a d, srcs := [gsrc a t], dsts := [gdst d] } (fun s => nbarOp (wordOf (.nbar l t a d)) l (s.rg a) d s) s

end Sys2Proof.Machine
end

