-- ==== Sys2Proof/Machine/Control.lean ====
section
/-! DEFINITION. Branches and jumps (R303, R315), the 16-bit forms (R84, R85), and XLD (R140). -/

namespace Sys2Proof.Machine

open Sys2Proof

/-! ### Branches and jumps (R303) -/

/-- The address a control transfer goes to: the leader of a stream decides for every core (R315). -/
def State.decided (s : State) (own : Word) : Word :=
  match s.stream with
  | some next => if s.co.flight == some s.cur.1 then own else next
  | none => own

/-- Continue at an address (R43). -/
def State.goto (s : State) (target : Word) : State := s.modTh fun t => t.jump (s.decided target)

/-- A branch by an offset when its condition holds; it advances by its length otherwise. -/
def branch (taken : Bool) (off : Word) (len : Nat) (s : State) : State :=
  let next := s.th.pc + word len
  let t := s.decided (if taken then s.th.pc + off else next)
  if !taken && t = next then s.advance len else s.modTh fun th => th.jump t

/-- JALR g[d], g[a], imm: a target with bit 0 set traps before the link is written (R41, R303). -/
def jumpReg (i : BitVec 12) (a d : GReg) (len : Nat) (s : State) : State :=
  let t := s.rg a + sx i
  if bitOf (s.decided t) 0 then s.trap 0x04 t 0 len
  else (s.wg d (s.th.pc + word len)).goto t

/-- BR. -/
def execBr (i : BitVec 25) (s : State) : Out' :=
  issue { instr := .br i } (fun s => s.goto (s.th.pc + off2 i)) s
/-- JAL: the link is g1. -/
def execJal (i : BitVec 25) (s : State) : Out' :=
  issue { instr := .jal i, dsts := [gdst 1] } (fun s => (s.wg 1 (s.th.pc + 4)).goto (s.th.pc + off2 i)) s
/-- BRP. -/
def execBrp (i : BitVec 19) (n : Bool) (p : Reg8) (s : State) : Out' :=
  issue { instr := .brp i n p } (fun s => branch (s.th.pv p != n) (off2 i) 4 s) s
/-- JALR. DESIGN CHOICE (log entry 127): in a stream every core tests its own g[a], though the leader's value alone decides (R315). -/
def execJalr (i : BitVec 12) (x : Bool) (a d : GReg) (s : State) : Out' :=
  issue { instr := .jalr i x a d, srcs := [gsrc a x], dsts := [gdst d] } (jumpReg i a d 4) s

/-! ### The 16-bit forms (R84) -/

/-- A register field of five bits. -/
def g32 (x : Fin 32) : GReg := ⟨x.val, by omega⟩
/-- The base register of C.LD and C.ST. -/
def gBase (b : Fin 8) : GReg := ⟨8 + b.val, by omega⟩

/-- A two-operand 16-bit form: g[x] := f of g[x] and g[y]. -/
def compact2 (i : Instr) (y x : Fin 32) (f : Word → Word → Word) (s : State) : Out' :=
  issue { instr := i, srcs := [gsrc (g32 x) false, gsrc (g32 y) false], dsts := [gdst (g32 x)] }
    (fun s => (s.wg (g32 x) (f (s.rg (g32 x)) (s.rg (g32 y)))).advance 2) s

/-- A one-operand 16-bit form: g[x] := f of g[x]. -/
def compact1 (i : Instr) (x : Fin 32) (f : Word → Word) (s : State) : Out' :=
  issue { instr := i, srcs := [gsrc (g32 x) false], dsts := [gdst (g32 x)] }
    (fun s => (s.wg (g32 x) (f (s.rg (g32 x)))).advance 2) s

/-- C.MOV: OR g[x], g[y], g0. -/
def execCMov (y x : Fin 32) (s : State) : Out' :=
  issue { instr := .cMov y x, srcs := [gsrc (g32 y) false], dsts := [gdst (g32 x)] }
    (fun s => (s.wg (g32 x) (s.rg (g32 y) ||| s.rg 0)).advance 2) s
/-- C.ADD. -/
def execCAdd (y x : Fin 32) (s : State) : Out' := compact2 (.cAdd y x) y x (· + ·) s
/-- C.SUB. -/
def execCSub (y x : Fin 32) (s : State) : Out' := compact2 (.cSub y x) y x (· - ·) s
/-- C.AND. -/
def execCAnd (y x : Fin 32) (s : State) : Out' := compact2 (.cAnd y x) y x (· &&& ·) s
/-- C.OR. -/
def execCOr (y x : Fin 32) (s : State) : Out' := compact2 (.cOr y x) y x (· ||| ·) s
/-- C.XOR. -/
def execCXor (y x : Fin 32) (s : State) : Out' := compact2 (.cXor y x) y x (· ^^^ ·) s
/-- C.ADDI. -/
def execCAddi (i : BitVec 6) (x : Fin 32) (s : State) : Out' := compact1 (.cAddi i x) x (· + sx i) s
/-- C.LI: ADDI g[x], g0. -/
def execCLi (i : BitVec 6) (x : Fin 32) (s : State) : Out' :=
  issue { instr := .cLi i x, dsts := [gdst (g32 x)] } (fun s => (s.wg (g32 x) (s.rg 0 + sx i)).advance 2) s
/-- C.SHLI. -/
def execCShli (n : Fin 64) (x : Fin 32) (s : State) : Out' := compact1 (.cShli n x) x (shlW · n) s
/-- C.SHRI. -/
def execCShri (n : Fin 64) (x : Fin 32) (s : State) : Out' := compact1 (.cShri n x) x (shrW · n) s
/-- C.LD: an 8-byte LD. -/
def execCLd (o : Fin 8) (b : Fin 8) (x : Fin 32) (s : State) : Out' :=
  issue { instr := .cLd o b x, srcs := [gsrc (gBase b) false], dsts := [gdst (g32 x)] }
    (loadG 0x18 true 2 (BitVec.ofNat 6 o) .d .plain 0 (gBase b) (g32 x)) s
/-- C.ST: an 8-byte ST. -/
def execCSt (o : Fin 8) (b : Fin 8) (x : Fin 32) (s : State) : Out' :=
  issue { instr := .cSt o b x, srcs := [gsrc (gBase b) false, gsrc (g32 x) false] }
    (storeG 2 (BitVec.ofNat 6 o) .d .plain 0 (gBase b) (g32 x)) s
/-- C.BR. -/
def execCBr (i : BitVec 11) (s : State) : Out' :=
  issue { instr := .cBr i } (fun s => s.goto (s.th.pc + off2 i)) s
/-- C.BRP: BRP with S = 0. -/
def execCBrp (i : BitVec 8) (p : Reg8) (s : State) : Out' :=
  issue { instr := .cBrp i p } (fun s => branch (s.th.pv p) (off2 i) 2 s) s
/-- C.MISC NOP. -/
def execCMiscNop (s : State) : Out' := issue { instr := .cMiscNop } (fun s => s.advance 2) s
/-- C.RET: JALR g0, g1, 0. -/
def execCRet (s : State) : Out' := issue { instr := .cRet, srcs := [gsrc 1 false] } (jumpReg 0 1 0 2) s

/-! ### XLD (R140) -/

/-- XLD: the eight x registers are written together when the line has arrived; the thread parks until then. -/
def execXld (x : Bool) (a : GReg) (s : State) : Out' :=
  issue { instr := .xld x a, srcs := [gsrc a x] } (fun s =>
    s.access { va := s.rg a, size := 64, align := 64, need := { r := true }, a := .load 64, dst := .xregs, maj := 0x0D,
               kind := some .xld }) s

end Sys2Proof.Machine
end

