-- ==== Sys2Proof/Machine/Sheets.lean ====
section
/-! DEFINITION. Contact sheets (R402, R403): their layout, and how a sheet takes a sample. -/

namespace Sys2Proof.Machine

open Sys2Proof

/-- The words of a sheet as a table: 0 control, 1 samples, 2 least, 3 greatest, 4 to 19 the bins. -/
abbrev Sheet := Tab Nat

/-- A sheet after its control word is written (R402). -/
def newSheet (control : Word) : Sheet := [(0, control.toNat), (1, 0), (2, 2 ^ 64 - 1), (3, 0)]

/-- A control word a sheet takes: zero bits zero, a source of R403, no filter on a slice. -/
def controlOk (core : Bool) (w : Word) : Bool :=
  fld w 56 7 == 0 && fld w 45 3 == 0 && fld w 16 24 == 0
    && (fld w 48 8 == 0 && !bitOf w 63 || (decide (1 ≤ fld w 48 8) && decide (fld w 48 8 ≤ if core then 8 else 7)))
    && (core || fld w 0 16 == 0)

/-- A sheet of a core or slice. -/
def State.sheetAt (s : State) (p : SheetPlace) (i : Nat) : Sheet :=
  match p with
  | .core n => tget (s.coreAt n).sheets i []
  | .slice n => tget s.sliceSheets (n * 8 + i) []

/-- A sheet replaced. -/
def State.setSheet (s : State) (p : SheetPlace) (i : Nat) (t : Sheet) : State :=
  match p with
  | .core n => s.modCore n fun k => { k with sheets := tset i t k.sheets }
  | .slice n => { s with sliceSheets := tset (n * 8 + i) t s.sliceSheets }

/-- The 96 bytes of a sheet (R402). -/
def sheetBytes (t : Sheet) : List Byte :=
  ((List.range 4).flatMap fun i => leBytes 8 (tget t i 0)) ++ ((List.range 16).flatMap fun i => leBytes 4 (tget t (4 + i) 0))

/-- The bin of a sample (R402). -/
def binOf (shift v : Nat) : Nat :=
  let u := v / 2 ^ shift
  if u < 2 then 0 else min 15 (Nat.log2 u)

/-- A sheet takes a sample (R402). -/
def sheetSample (t : Sheet) (v : Nat) : Sheet :=
  let b := 4 + binOf (fld (word (tget t 0 0)) 40 5) v
  let t := tset 1 ((tget t 1 0 + 1) % 2 ^ 64) t
  let t := tset 2 (min (tget t 2 0) v) t
  let t := tset 3 (max (tget t 3 0) v) t
  tset b (min (2 ^ 32 - 1) (tget t b 0 + 1)) t

/-- A source of a core sheet that measures one thread: FILTER names the slots whose samples count (R402, R403). -/
def slotSource (source : Nat) : Bool := source != 5 && source != 6 && source != 7

/-- A sheet counts a sample: it is enabled, and the filter of a core sheet admits the slot it comes from. -/
def State.sheetTakes (s : State) (p : SheetPlace) (i slot : Nat) : Bool :=
  let w := word (tget (s.sheetAt p i) 0 0)
  bitOf w 63 && match p with
    | .core _ => !slotSource (fld w 48 8) || (fld w 0 16).testBit slot
    | .slice _ => true

/-- The sources whose samples the model takes as they arise: the gap between a thread's issues, and the interval of a barrier that
completes (R403). -/
def ownSource (p : SheetPlace) (source : Nat) : Bool :=
  match p with
  | .core _ => source == 8
  | .slice _ => source == 4

/-- The numbers of the sheets that have been configured at a core or slice. -/
def State.sheetsOf (s : State) (p : SheetPlace) : List Nat :=
  match p with
  | .core n => tkeys (s.coreAt n).sheets
  | .slice n => (tkeys s.sliceSheets).filterMap fun i => if i / 8 = n then some (i % 8) else none

/-- Every enabled sheet of a source takes a sample of it, which a thread slot may have caused (R402). -/
def State.sample (s : State) (p : SheetPlace) (source slot v : Nat) : State :=
  (s.sheetsOf p).foldl (fun s i =>
    if fld (word (tget (s.sheetAt p i) 0 0)) 48 8 == source && s.sheetTakes p i slot && decide (v < 2 ^ 64)
    then s.setSheet p i (sheetSample (s.sheetAt p i) v) else s) s

end Sys2Proof.Machine
end

