-- ==== Sys2Proof/Machine/Threads.lean ====
section
/-! DEFINITION. Threads (R301, R304 to R307), core-shared registers (R302), and streams as the issuing thread sees them
(R308 to R323). -/

namespace Sys2Proof.Machine

open Sys2Proof

/-! ### Waiting (R301) -/

/-- A slot takes part in the rotation: within the partition, not slot 0 of a core in a flight, and with something to issue or a
trap to take (R297, R298). -/
def State.inTurn (s : State) (c t : Nat) : Bool :=
  let k := s.coreAt c
  let th := s.thread c t
  decide (t < Part.slots k.part) && !(t = 0 && k.flight.isSome)
    && (s.ready c t || (th.owed.isSome && th.wait.isNone && !th.held))

/-- YIELD: the thread is passed over until every other runnable slot has been offered a cycle. -/
def yieldTurn (len : Nat) (s : State) : State :=
  let (c, t) := s.cur
  let others := (List.range 16).filter fun u => u != t && s.inTurn c u
  (s.modTh fun th => { th with yielded := some (s.co.cycle.toNat, others) }).advance len

/-- YIELD. -/
def execYield (s : State) : Out' := issue { instr := .yield } (yieldTurn 4) s
/-- C.MISC YIELD. -/
def execCMiscYield (s : State) : Out' := issue { instr := .cMiscYield } (yieldTurn 2) s

/-- WAITG, WAITV, WAITK: park until a register is full. -/
def waitReg (i : Instr) (c : RegClass) (n : Nat) (s : State) : Out' :=
  issue { instr := i, names := [(c, n)] }
    (fun s => if s.regSt c n = .full then s.advance 4 else s.park (.awaitReg c n)) s

/-- WAITG. -/
def execWaitg (a : GReg) (s : State) : Out' := waitReg (.waitg a) .g a s
/-- WAITV. -/
def execWaitv (a : VReg) (s : State) : Out' := waitReg (.waitv a) .v a s
/-- WAITK. -/
def execWaitk (a : Reg8) (s : State) : Out' := waitReg (.waitk a) .k a s

/-! ### Core-shared registers (R302) -/

/-- KPUT: it waits while k[d] is empty; then k[d] is emptied at issue and written at write-back, a free number of cycles later
(log entry 10). -/
def execKput (x : Bool) (a : GReg) (d : Reg8) (s : State) : Out' :=
  issue { instr := .kput x a d, srcs := [gsrc a x], dsts := [(.k, d.val)], reads := [(.k, d.val)] } (fun s =>
    let id := s.txn + 1
    let w : KWrite := ⟨d.val, s.cur.2, s.rg a, 1 + Config.kputDelay id⟩
    (s.newId.modCo fun k => { k with kst := tset d.val (.pending id .kwrite 0) k.kst, kw := k.kw ++ [w] }).advance 4) s

/-- A thread that was parked on a core-shared register which has been filled: it is runnable, past a WAITK (R297, R301), whatever
another KPUT does to the register before its turn (R57). -/
def Thread.wakeK (n : Nat) (t : Thread) : Thread :=
  match t.life with
  | .parked (.source .k m) | .parked (.destFull .k m) | .parked (.dest .k m) => if m = n then { t with life := .runnable } else t
  | .parked (.awaitReg .k m) => if m = n then { t with life := .runnable, pc := t.pc + 4 } else t
  | _ => t

/-- The write-back of a KPUT (R302): the register is full, which wakes the threads that wait for it and which the watchpoints of
its thread see (R399). -/
def State.kPerform (s : State) (c : Nat) (w : KWrite) : State :=
  (s.modCore c fun k => { k.putK w.num w.val with threads := k.threads.map fun e => (e.1, e.2.wakeK w.num) }).modThread c w.slot
    fun t => t.transition .k w.num 0 .empty .full

/-- A core cycle of the KPUTs of a core passes: those that are due are written back. -/
def State.writeBack (s : State) (c : Nat) : State :=
  let k := s.coreAt c
  if k.kw.isEmpty then s
  else
    let left := k.kw.map fun w => { w with left := w.left - 1 }
    (left.filter fun w => w.left == 0).foldl (fun s w => s.kPerform c w)
      (s.setCore c { k with kw := left.filter fun w => w.left != 0 })

/-- KGET. -/
def execKget (x : Bool) (a : Reg8) (d : GReg) (s : State) : Out' :=
  issue { instr := .kget x a d, srcs := [⟨.k, a, x⟩], dsts := [gdst d] }
    (fun s => (s.wg d (s.co.kv a)).advance 4) s

/-! ### Ending a thread (R305) -/

/-- A thread whose slot is no longer live: what was in flight for it is discarded with the slot. -/
def Thread.ended (t : Thread) : Thread :=
  { t with life := .notLive, held := false, outs := [], acq := [], gathers := [], deferred := [], owed := none, walk := none,
           wait := none, fb := none, half := none, fetched := none, stepping := false, stepped := none, yielded := none,
           reissue := none, aside := [], dropped := none }

/-- A thread ends with a STATE and CAUSE for its bind record (R305, R334). -/
def State.endThread (s : State) (c t state cause : Nat) : State :=
  (s.noteEnd c t state cause).modThread c t Thread.ended

/-- TEXIT: a release at .pod, then the slot is not live. -/
def exitThread (s : State) : State :=
  if relReady .pod s.th.outs then s.endThread s.cur.1 s.cur.2 2 0 else s.park (.order .pod)

/-- TEXIT. -/
def execTexit (s : State) : Out' := issue { instr := .texit } exitThread s
/-- C.MISC TEXIT. -/
def execCMiscTexit (s : State) : Out' := issue { instr := .cMiscTexit } exitThread s

/-! ### TSPAWN (R304) -/

/-- The exit address of every launch (R336). -/
def exitAddr : Word := 0x01FFFFFFFFFFF000

/-- The core is in stop bath (R243, R307). -/
def Core.bath (k : Core) : Bool := k.spcfg.isSome || k.repart.isSome

/-- The lowest slot of the partition that is not live; slot 0 of a core in a flight is never free (R304). -/
def Core.freeSlot (k : Core) : Option Nat :=
  (List.range (Part.slots k.part)).find? fun t => !(t = 0 && k.flight.isSome) && !(tget k.threads t {}).live

/-- The thread TSPAWN starts in slot `n` (R304). -/
def Thread.spawned (p : Thread) (n : Nat) (pc arg : Word) : Thread :=
  { life := .runnable, pc := pc,
    g := [(1, exitAddr), (2, arg), (3, word n), (4, p.rank), (5, p.count)],
    status := if p.smode then 1 else 0, asid := p.asid, ptbase := p.ptbase, meshwin := p.meshwin, trapvec := p.trapvec,
    intmask := p.intmask, fpflags := p.fpflags &&& 0x300, launch := p.launch, rank := p.rank, count := p.count }

/-- TSPAWN. -/
def execTspawn (y x : Bool) (b a d : GReg) (s : State) : Out' :=
  issue { instr := .tspawn y x b a d, srcs := [gsrc a x, gsrc b y], dsts := [gdst d] } (fun s =>
    let pc := s.rg a
    if bitOf pc 0 then s.trap 0x04 pc 0
    else
      match (if s.co.bath then none else s.co.freeSlot) with
      | none => (s.wg d (wordI (-1))).advance 4
      | some n =>
        let new := s.th.spawned n pc (s.rg b)
        ((s.wg d (word n)).advance 4).setThread s.cur.1 n new) s

/-! ### TNEXT (R306, R338) -/

/-- TNEXT: the request goes to the distributor and the thread parks for its answer. A thread of no launch has no range
(log entry 11). -/
def execTnext (d : GReg) (s : State) : Out' :=
  issue { instr := .tnext d, dsts := [gdst d] } (fun s =>
    match s.th.launch with
    | none => (s.wg d (wordI (-1))).advance 4
    | some l =>
      let id := s.txn + 1
      let s := (s.newId).send (.core s.cur.1) .dispatch (.tnext ⟨s.devnum, s.cur.1, s.cur.2, id⟩ l)
      s.awaitReply ⟨.tnext, id, 1, 0x14, 4, 0, 0, gval d, [], none⟩) s

/-! ### REPART (R307) -/

/-- REPART: the core enters stop bath; REPART_APPLY completes the change when the core is quiet. -/
def execRepart (p : Part) (s : State) : Out' :=
  issue { instr := .repart p, priv := true } (fun s =>
    if s.co.bath then s.park .repart
    else (s.park .drain).modCo fun k => { k with repart := some (s.cur.2, p) }) s

/-! ### Streams (R308 to R323) -/

/-- STREAMFAULT of the performing thread (R320). -/
def State.streamTrap (s : State) (reason : Nat) (v : Word) : State := s.trap 0x13 v (word reason)

/-- The shape a STRM.LEAD operand gives: width, height and limit, when it is well formed and inside the leader's die
(R309, R310). -/
def flightShape (c : Nat) (w : Word) : Option (Nat × Nat × Nat) :=
  let width := fld w 0 5
  let height := fld w 8 4
  let lim := fld w 16 6
  if fld w 5 3 != 0 || fld w 12 4 != 0 || fld w 22 42 != 0 || width < 2 || width > 16 || height < 1 || height > 12
      || lim > 40 || c % 16 + width > 16 || c / 32 % 12 + height > 12 then none
  else some (width, height, lim)

/-- A core whose slot 0 waits in STRM.JOIN accepts a leader's request (R310). -/
def State.acceptJoin (s : State) (c leader : Nat) : State :=
  match tget? s.flights leader with
  | none => s
  | some f =>
    { s with flights := tset leader { f with
        accepted := insertNat c f.accepted,
        resume := tset c ((s.thread c 0).pc + 4) f.resume } s.flights }

/-- A core refuses a request: dead, in a flight, or its slot 0 live under another ASID (R310). -/
def State.refuses (s : State) (c leader : Nat) : Bool :=
  let t := s.thread c 0
  !s.liveCore c || (s.coreAt c).flight.isSome || (t.live && t.asid != (s.thread leader 0).asid)

/-- A core in STRM.JOIN that is not accepted by any forming flight accepts the oldest request that waits at it and that it does
not refuse. -/
def State.acceptNext (s : State) (c : Nat) : State :=
  match (s.coreAt c).joins.find? fun l => !s.refuses c l with
  | some l => (s.modCore c fun k => { k with joins := k.joins.filter (· != l) }).acceptJoin c l
  | none => s

/-- A forming flight is given up: its requests vanish, and every core that had accepted waits in its STRM.JOIN again
(R310). -/
def State.dropForming (s : State) (leader : Nat) : State :=
  match tget? s.flights leader with
  | none => s
  | some f =>
    if f.formed then s
    else
      let s : State := { s with
        flights := tdel leader s.flights,
        net := s.net.filter (fun m => m.body != .join leader),
        cores := s.cores.map fun e => (e.1, { e.2 with joins := e.2.joins.filter (· != leader) }) }
      (f.accepted.filter (· != leader)).foldl (fun s c => s.acceptNext c) s

/-- A core leaves its STRM.JOIN for a trap: the request it had accepted waits at it again. -/
def State.leaveJoin (s : State) (c : Nat) : State :=
  match s.flights.find? fun f => !f.2.formed && f.1 != c && f.2.accepted.contains c with
  | some (l, f) =>
    ({ s with flights := tset l { f with accepted := f.accepted.filter (· != c) } s.flights }).modCore c
      fun k => { k with joins := l :: k.joins }
  | none => s

/-- STRM.LEAD (R308 to R310). -/
def execStrmLead (x : Bool) (a : GReg) (s : State) : Out' :=
  issue { instr := .strmLead x a, srcs := [gsrc a x] } (fun s =>
    let c := s.cur.1
    if s.cur.2 != 0 then s.streamTrap 1 0
    else
      match flightShape c (s.rg a) with
      | none => s.streamTrap 2 (s.rg a)
      | some (w, h, lim) =>
        let s := s.dropForming c
        let f : Flight := { w := w, h := h, accepted := [c], deadline := if lim = 0 then 0 else s.time.toNat + 2 ^ lim }
        let s := { s with flights := tset c f s.flights }
        let s := ((f.cores c).filter (· != c)).foldl (fun s n => s.send (.core c) (.core n) (.join c)) s
        s.park .lead) s

/-- The core has accepted a request of a flight that has not formed. -/
def State.hasAccepted (s : State) (c : Nat) : Bool :=
  s.flights.any fun f => !f.2.formed && f.1 != c && f.2.accepted.contains c

/-- STRM.JOIN (R310): accepts the first request that waits at the core, or parks until one arrives. -/
def execStrmJoin (s : State) : Out' :=
  issue { instr := .strmJoin } (fun s =>
    if s.cur.2 != 0 then s.streamTrap 1 0
    else
      let c := s.cur.1
      (s.park .join).acceptNext c) s

/-- INTPEND.FREQ in every live thread of the cores named whose frequency differs from before (R31, R311, R351). -/
def State.noteFreq (before after : State) (l : List Nat) : State :=
  l.foldl (fun s c =>
    if before.mhz c = after.mhz c then s
    else s.modCore c fun k => { k with threads := k.threads.map fun e =>
      (e.1, if e.2.live then { e.2 with intpend := setBit e.2.intpend 1 true } else e.2) }) after

/-- A core leaves its flight (R319, R321): STREAMPOS.ACTIVE falls, and its own clock returns. -/
def State.leaveFlight (s : State) (leader c : Nat) : State :=
  match tget? s.flights leader with
  | none => s
  | some f =>
    let s' := { s with flights := tset leader { f with left := insertNat c f.left } s.flights }
    State.noteFreq s (s'.modCore c fun k => { k with
      flight := none, spos := setBit k.spos 63 false, inbox := k.inbox.map fun p => { p with step := none } }) (f.cores leader)

/-- STRM.END (R321): a joiner runs on from its resume address; the leader parks until every core has ended. -/
def execStrmEnd (s : State) : Out' :=
  issue { instr := .strmEnd } (fun s =>
    let c := s.cur.1
    match s.stream, s.co.flight with
    | some _, some l =>
      let resume := match tget? s.flights l with | some f => tget f.resume c 0 | none => 0
      let s := s.leaveFlight l c
      if l = c then (s.advance 4).park .streamEnd else s.modTh fun t => t.jump resume
    | _, _ => s.streamTrap 8 0) s

/-- What STRM.POS writes (R323). -/
def Core.posWord (k : Core) : Word :=
  if bitOf k.spos 63 then
    let dx := fld k.spos 36 4
    let dy := fld k.spos 40 4
    word (dx + dy * 2 ^ 8 + (dx + dy) * 2 ^ 16 + fld k.spos 48 5 * 2 ^ 24 + fld k.spos 44 4 * 2 ^ 32)
  else 0

/-- STRM.POS; the width tag is 00 (R323). -/
def execStrmPos (d : GReg) (s : State) : Out' :=
  issue { instr := .strmPos d, dsts := [gdst d] } (fun s =>
    ((s.wg d s.co.posWord).modTh fun t => t.setTag00 d).advance 4) s

end Sys2Proof.Machine
end

