-- ==== Sys2Proof/Machine/Sys.lean ====
section
/-! DEFINITION. The system instructions and registers (R79, R82, R342, R350, R351, R356 to R361, R400). -/

namespace Sys2Proof.Machine

open Sys2Proof

/-! ### System registers (R350) -/

/-- GROUPS of a core: its groups in increasing number (R341). -/
def State.groupsReg (s : State) (c : Nat) : Word :=
  let l := ((List.range 256).filter fun g => bitOf (tget s.groups g 0) c).take 4
  word ((List.range l.length).foldl (fun acc i => acc + (2 ^ 15 + l.getD i 0) * 2 ^ (16 * i)) 0)

/-- FREQ of a core (R31). -/
def State.freqReg (s : State) (c : Nat) : Word := word (s.mhz c + b2n (decide (s.mhz c < s.tested c)) * 2 ^ 16)

/-- What SRD of a register reads in the performing thread. -/
def State.sysRead (s : State) (n : Nat) : Word :=
  let t := s.th
  let k := s.co
  let c := s.cur.1
  match n with
  | 0x000 => word s.cur.2
  | 0x001 => word c
  | 0x002 => word s.devnum
  | 0x003 => word (Part.code k.part)
  | 0x004 => t.status
  | 0x005 => t.asid.setWidth 64
  | 0x006 => t.ptbase
  | 0x007 => t.meshwin
  | 0x008 => word k.ways
  | 0x009 => s.groupsReg c
  | 0x00A => k.spos
  | 0x010 => t.trapvec
  | 0x011 => t.trappc
  | 0x012 => t.trapcause
  | 0x013 => t.trapval
  | 0x014 => t.trapval2
  | 0x015 => t.trapsave
  | 0x016 => t.intpend
  | 0x017 => t.intmask
  | 0x018 => t.fpflags
  | 0x020 => s.time
  | 0x021 => k.cycle
  | 0x022 => (s.speedAt c).setWidth 64
  | 0x023 => s.freqReg c
  | 0x030 => word k.quota
  | 0x031 => word (k.refused * 2 ^ 32 + k.pmCount)
  | 0x041 => word (t.wcnt 1)
  | 0x042 => word (t.wcnt 2)
  | 0x043 => word (t.wcnt 3)
  | 0x050 => k.merrlog
  | 0x060 => tget t.brk 0 0
  | 0x061 => tget t.brk 1 0
  | 0x062 => tget t.brk 2 0
  | 0x063 => tget t.brk 3 0
  | 0x064 => tget t.wch 0 0
  | 0x065 => tget t.wch 1 0
  | 0x066 => tget t.wch 2 0
  | 0x067 => tget t.wch 3 0
  | _ => 0

/-- The bits of a register that hold a field; every other bit is reserved (R7, R120, R247, R350, R351, R362, R367, R376,
R397, R398). -/
def sysMask (n : Nat) : Word :=
  match n with
  | 0x004 => 0x7
  | 0x005 => 0xFFFF
  | 0x006 => 0x003FFFFFFFFE0000
  | 0x007 => 0x800000001F1F1F1F
  | 0x010 => 0x01FFFFFFFFFFFFFE
  | 0x011 => 0xFFFFFFFFFFFFFFFE
  | 0x012 => 0x3FF
  | 0x016 | 0x017 => 0x7
  | 0x018 => fpMask
  | 0x030 => 0x3FFF
  | 0x031 => 0x0000FFFF00003FFF
  | 0x050 => 0xFC00FFFF001FFFFF
  | 0x060 | 0x061 | 0x062 | 0x063 => 0xC1FFFFFFFFFFFFFF
  | 0x064 | 0x065 | 0x066 | 0x067 => 0xF9FFFFFFFFFFFFF8
  | _ => BitVec.allOnes 64

/-- No value beyond a field's range (R247, R356, R367, R397, R398). DESIGN CHOICE (log entry 126): TRAPCAUSE takes every CODE. -/
def sysRange (n : Nat) (v : Word) : Bool :=
  match n with
  | 0x007 => decide (fld v 24 5 ≤ 23)
  | 0x030 => decide (v.toNat ≤ 8192)
  | 0x060 | 0x061 | 0x062 | 0x063 => fld v 62 2 != 3
  | 0x064 | 0x065 | 0x066 | 0x067 =>
    fld v 61 2 != 3 && (fld v 61 2 != 2 || (fld v 9 2 != 3 && fld v 11 46 == 0))
  | _ => true

/-- SWR may write a value: no reserved bit set, every field in its range (R7, R356). -/
def sysLegal (n : Nat) (v : Word) : Bool := (v &&& ~~~(sysMask n)) == 0 && sysRange n v

/-- The effect of SWR on the performing thread and its core: RW fields written, W1C bits cleared, RO fields kept. -/
def State.sysWrite (s : State) (n : Nat) (v : Word) : State :=
  match n with
  | 0x004 => s.modTh fun t =>
    { t with status := (v &&& 6) ||| (t.status &&& 1), late := if t.intrap && !bitOf v 2 then t.deferred.length else t.late }
  | 0x005 => s.modTh fun t => { t with asid := v.setWidth 16 }
  | 0x006 => s.modTh fun t => { t with ptbase := v }
  | 0x007 => s.modTh fun t => { t with meshwin := v }
  | 0x010 => s.modTh fun t => { t with trapvec := v }
  | 0x011 => s.modTh fun t => { t with trappc := v }
  | 0x012 => s.modTh fun t => { t with trapcause := v }
  | 0x013 => s.modTh fun t => { t with trapval := v }
  | 0x014 => s.modTh fun t => { t with trapval2 := v }
  | 0x015 => s.modTh fun t => { t with trapsave := v }
  | 0x016 => s.modTh fun t => { t with intpend := t.intpend &&& ~~~v }
  | 0x017 => s.modTh fun t => { t with intmask := v }
  | 0x018 => s.modTh fun t => { t with fpflags := v }
  | 0x030 => s.modCo fun k => { k with quota := v.toNat }
  | 0x031 => s.modCo fun k => { k with refused := fld v 32 16 }
  | 0x050 => s.modCo fun k => { k with merrlog := v }
  | 0x060 | 0x061 | 0x062 | 0x063 => s.modTh fun t => { t with brk := tset (n - 0x060) v t.brk }
  | 0x064 | 0x065 | 0x066 | 0x067 => s.modTh fun t => { t with wch := tset (n - 0x064) v t.wch }
  | _ => s

/-- The read needs S mode (R350). -/
def readPriv (n : Nat) : Bool := sysAccess n == some .priv
/-- The write needs S mode (R350). -/
def writePriv (n : Nat) : Bool := sysAccess n == some .priv || sysAccess n == some .roRw

/-- SRD. -/
def execSrd (h l : Fin 64) (d : GReg) (s : State) : Out' :=
  let n := num12 h l
  issue { instr := .srd h l d, dsts := [gdst d], priv := readPriv n } (fun s => (s.wg d (s.sysRead n)).advance 4) s

/-- SWR in every form: a reserved bit or a value out of range traps with ILLEGAL (R356). -/
def swr (i : Instr) (n : Nat) (d : GReg) (s : State) : Out' :=
  issue { instr := i, srcs := [gsrc d false], priv := writePriv n } (fun s =>
    let v := s.rg d
    if !sysLegal n v then s.illegal (wordOf i) 4 else (s.sysWrite n v).advance 4) s

/-- SWR. -/
def execSwr (h l : Fin 64) (d : GReg) (s : State) : Out' := swr (.swr h l d) (num12 h l) d s
/-- SWR INTPEND: W1C. -/
def execSwrIntpend (d : GReg) (s : State) : Out' := swr (.swrIntpend d) 0x016 d s
/-- SWR MERRLOG. -/
def execSwrMerrlog (d : GReg) (s : State) : Out' := swr (.swrMerrlog d) 0x050 d s
/-- SWR PSHQ. -/
def execSwrPshq (d : GReg) (s : State) : Out' := swr (.swrPshq d) 0x030 d s
/-- SWR PSHCNT. -/
def execSwrPshcnt (d : GReg) (s : State) : Out' := swr (.swrPshcnt d) 0x031 d s

/-! ### Calls, returns and waits (R357 to R360, R400) -/

/-- ECALL. -/
def execEcall (s : State) : Out' := issue { instr := .ecall } (fun s => s.trap 0x0D 0 0) s
/-- ERET. -/
def execEret (s : State) : Out' := issue { instr := .eret, priv := true } (fun s => s.modTh Thread.eret) s
/-- TRAPI. -/
def execTrapi (h l : Fin 64) (s : State) : Out' :=
  issue { instr := .trapi h l } (fun s => s.trap 0x0E (word (num12 h l)) 0) s
/-- BRK. -/
def execBrk (h l : Fin 64) (s : State) : Out' :=
  issue { instr := .brk h l } (fun s => s.trap 0x0F (word (num12 h l)) 0) s
/-- WFI. -/
def execWfi (s : State) : Out' :=
  issue { instr := .wfi, priv := true } (fun s =>
    if (s.th.intpend &&& s.th.intmask) != 0 then s.advance 4 else s.park .wfi) s
/-- SPEEDRD. -/
def execSpeedrd (x : Bool) (a d : GReg) (s : State) : Out' :=
  issue { instr := .speedrd x a d, srcs := [gsrc a x], dsts := [gdst d] } (fun s =>
    let i := (s.rg a).toNat
    (s.wg d (if i ≤ 768 then (s.speedAt i).setWidth 64 else 0)).advance 4) s

/-! ### TLBINV (R361) -/

/-- A TLB entry that a TLBINV removes. -/
def TlbEnt.matched (e : TlbEnt) (k : TlbKind) (asid : Nat) (va : Word) : Bool :=
  match k with
  | .all => true
  | .asid => e.asid == asid
  | .page => !isMesh va && e.maps asid va.toNat

/-- A TLBINV removes a pointer entry of the walk cache (R361). -/
def PtrEnt.matched (e : PtrEnt) (k : TlbKind) (asid : Nat) (va : Word) : Bool :=
  match k with
  | .all => true
  | .asid => e.asid == asid
  | .page => !isMesh va && e.serves asid va.toNat

/-- An access under an ASID at an address was issued under an entry of a core that a TLBINV removes. -/
def Core.removed (c : Core) (k : TlbKind) (asid : Nat) (va : Word) (a : Nat) (at_ : Word) : Bool :=
  !isMesh at_ && c.tlb.any fun e => e.matched k asid va && e.maps a at_.toNat

/-- The accesses in flight under entries a TLBINV removes, as request numbers with their cores: those of threads, queued
stores of ACCRD and ACCSAVE and those they have sent, those that an engine awaits under an ASID of the kind, and the additions to
counters that commands with SIG make (R417). -/
def State.underRemoved (s : State) (k : TlbKind) (asid : Nat) (va : Word) : Tab Word :=
  s.cores.flatMap fun c =>
    let threads := c.2.threads.flatMap fun t => (t.2.outs.filter fun o => c.2.removed k asid va o.asid o.va).map (·.id)
    let same (x : Ctx) : Bool := (match k with | .all => true | _ => x.asid.toNat == asid)
    let threads := threads ++ c.2.threads.flatMap fun t => t.2.outs.filterMap fun o => match o.dst with
      | .matrix i => if c.2.removed k asid va o.asid o.va then some i else none
      | _ => none
    let matrix := (c.2.mq.filter fun m => m.writes.any fun x => c.2.removed k asid va m.ctx.asid.toNat x.1).map (·.id)
    let reads := c.2.mq.flatMap fun m => if same m.ctx then tkeys m.got else []
    let copy := c.2.cq.flatMap fun m => if same m.ctx then (m.run.bind (·.await)).toList else []
    let adds := (c.2.mq.map (fun m => (m.id, m.ctx)) ++ c.2.cq.map fun m => (m.id, m.ctx)).filterMap fun m =>
      if m.2.sig && c.2.removed k asid va m.2.asid.toNat m.2.sigVa then some m.1 else none
    let sent := s.net.filterMap fun m => match m.body with
      | .typed r => match r.who with
        | .sig dev core _ cmd =>
          if dev == s.devnum && core == c.1 && c.2.removed k asid va r.asid r.va then some cmd else none
        | .thread _ => none
      | _ => none
    let late := (c.2.lateq.filter fun x => c.2.removed k asid va x.ctx.asid.toNat x.va).filterMap fun x =>
      if x.place.isSome then some x.cmd else x.id
    (threads ++ matrix ++ reads ++ copy ++ adds ++ sent ++ late).map fun id => (id, word c.1)

/-- TLBINV: the entries are removed in every core, and the thread parks until the accesses issued under them are performed
(TLBINV_COMPLETE). -/
def execTlbinv (y x : Bool) (b a : GReg) (k : TlbKind) (s : State) : Out' :=
  issue { instr := .tlbinv y x b a k, srcs := [gsrc a x, gsrc b y], priv := true } (fun s =>
    if !relReady .dev s.th.outs then s.park (.order .dev)
    else
      let asid := fld (s.rg b) 0 16
      let va := s.rg a
      let under := s.underRemoved k asid va
      let drop (c : Nat × Core) : Nat × Core :=
        (c.1, { c.2 with tlb := c.2.tlb.filter (fun e => !e.matched k asid va),
                         ptrs := c.2.ptrs.filter fun e => !e.matched k asid va })
      let s : State := { s with cores := s.cores.map drop }
      let id := s.txn + 1
      s.newId.awaitReply ⟨.tlbinv, id, 1, 0x3F, 4, 0, 0, .none, under, none⟩) s

/-! ### GRPSET (R342) -/

/-- The map of a GRPSET has been read: the first word that was rejected or poisoned traps, then a group beyond 255; then
the request goes to the dispatch unit. -/
def State.mapRead (s : State) : State :=
  match s.th.wait with
  | none => s
  | some w =>
    match w.bad with
    | some (_, cause, v1, v2) =>
      (s.modTh fun t => { t with wait := none, life := .runnable }).trapAt s.cur.1 s.cur.2 cause v1 v2 4
    | none =>
      if w.a.toNat > 255 then
        (s.modTh fun t => { t with wait := none, life := .runnable }).trapAt s.cur.1 s.cur.2 0x0B w.a 9 4
      else
        s.send (.core s.cur.1) .dispatch (.grpset ⟨s.devnum, s.cur.1, s.cur.2, w.id⟩ w.a.toNat
          ((List.range 12).map fun i => tget w.got i 0))

/-- The results of the map words performed at issue, in the thread's wait: index, result, and the word's address. -/
def Wait.noteMap (w : Wait) (i : Nat) (va : Word) (r : Result) : Wait :=
  let worse (c : Nat) (v1 v2 : Word) : Wait :=
    match w.bad with
    | some (j, _) => if j < i then w else { w with bad := some (i, c, v1, v2) }
    | none => { w with bad := some (i, c, v1, v2) }
  match r with
  | .value v => { w with got := tset i (v.setWidth 64) w.got }
  | .reject reason => worse 0x08 va (BitVec.ofNat 64 reason)
  | .poison off => worse 0x12 (poisonAddr va off) (BitVec.ofNat 64 (0x3F * 2 ^ 8 + 1))
  | .trap c a b => worse c a b
  | _ => w

/-- Read the words of the map in order. -/
def State.readMap : Nat → List (Word × Place) → Wait → State → State × Wait
  | _, [], w, s => (s, w)
  | i, (va, p) :: r, w, s =>
    let (s', res) := s.perform p va 0x3F (.load 8) (.map i) false
    match res with
    | some res => State.readMap (i + 1) r (w.noteMap i va res) s'
    | none => State.readMap (i + 1) r { w with left := w.left + 1 } s'

/-- GRPSET. -/
def execGrpset (y x : Bool) (b a : GReg) (s : State) : Out' :=
  issue { instr := .grpset y x b a, srcs := [gsrc a x, gsrc b y], priv := true } (fun s =>
    let base := s.rg b
    let es := (List.range 12).map fun i => base + word (8 * i)
    match s.checkAll s.actx 8 8 { r := true } es with
    | .error c => s.failChk c 4
    | .ok ps =>
      match es.findSome? fun va => s.th.watchHit 0 59 va 8 with
      | some (i, byte) => s.watchTrap 0 i byte 0x3F 4
      | none =>
        match ps.find? fun p => s.gone p.2 with
        | some p => s.goneTrap p.1 0x3F 4
        | none =>
          match s.gate (ps.map (·.2)) (.load 8) false {} with
          | some why => s.park why
          | none =>
            if !relReady .dev s.th.outs then s.park (.order .dev)
            else
              let id := s.txn + 1
              let w : Wait := ⟨.grpset, id, 0, 0x3F, 4, s.rg a, base, .none, [], none⟩
              let (s, w) := State.readMap 0 ps w s.newId
              let s := s.awaitReply w
              if w.left = 0 then s.mapRead else s) s

end Sys2Proof.Machine
end

