-- ==== Sys2Proof/Machine/Engine.lean ====
section
/-! DEFINITION. What the matrix unit and the copy engine share: the context of a command (R162, R213, R214, R417), and
their accesses to scratchpads and memory (R166, R194, R197, R228, R254, R260). An access to a line is made when nothing that
the home has ordered for the line is in progress, and takes the place in the home's order that a request of the core's L1
would (log entry 12). -/

namespace Sys2Proof.Machine

open Sys2Proof

/-! ### Commands -/

/-- The context of a C-format command of the performing thread. -/
def State.mkCtx (s : State) (acq rel sig : Bool) (sc : Scope) (sigPa : Nat) : Ctx :=
  let t := s.th
  { slot := s.cur.2, smode := t.smode, asid := t.asid, ptbase := t.ptbase, meshwin := t.meshwin, launch := t.launch,
    acq := acq, rel := rel, sig := sig, sc := sc, sigVa := t.xv 3, sigPa := sigPa, before := t.outs.map (·.id) }

/-- The checks of R417 on the counter address, as those of a typed operation; 0 without SIG. -/
def State.sigCheck (s : State) (sig : Bool) (maj : Nat) : Except State Nat :=
  if sig then s.typedCheck (s.th.xv 3) maj else .ok 0

/-- The issuing thread's accesses before the command satisfy R205 at its scope (R213, R214). -/
def State.beforeDone (s : State) (c : Nat) (x : Ctx) : Bool :=
  relReady x.sc ((s.thread c x.slot).outs.filter fun o => x.before.contains o.id)

/-- CNT.ADD of 1 on the counter of a command whose MAJ and number are named (R214, R270, R417); a counter on a device known to be
unreachable leaves the thread a deferred UNCORR of kind 5. -/
def State.signal (s : State) (c maj cmd : Nat) (x : Ctx) : State :=
  if !x.sig then s
  else if s.podGone.contains (paDev x.sigPa) then
    s.defer c x.slot ⟨0x12, x.sigVa, word (2 ^ 63 + 1 * 2 ^ 16 + maj * 2 ^ 8 + 5)⟩
  else
    s.sendTyped (.core c) ⟨.sig s.devnum c x.slot cmd, .cntAdd, maj, x.sigPa, x.sigVa, 1, 0, true, .wait 0, 0, x.asid.toNat⟩

/-- The addressing context of a command. -/
def Ctx.actx (x : Ctx) (c : Nat) : ACtx := ⟨c, x.asid.toNat, x.smode, x.meshwin⟩

/-! ### Places of an engine access -/

/-- Where an engine access is performed: the own scratchpad, another core's, local memory, or another device. -/
inductive EPlace
  | spm (off : Nat)
  | mesh (core off : Nat)
  | mem (e : TlbEnt) (off : Nat)
  | podSpm (dev core off : Nat)
  | podMem (dev pa : Nat) (sync : Bool)
  deriving DecidableEq, Repr

/-- Why an engine access cannot be performed: a translation failure, a rejection, departing ways, an unreachable device, or
a page or line that a request in progress holds at the moment. -/
inductive EFault
  | page (cause : Nat) (v2 : Word)
  | reject
  | ways
  | gone
  | busy
  deriving DecidableEq, Repr

/-- Bytes of a core's scratchpad lie in ways that an SPCFG is to take away, or has still to add (R243). -/
def Core.leaving (k : Core) (off n : Nat) : Bool :=
  match k.spcfg with
  | some (_, w) => w != k.ways && decide (min w k.ways * 131072 < off + n)
  | none => false

/-- A mesh place as an engine reaches it (R193, R243, R260): another core judges its own dead position and scratch size. DESIGN
CHOICE (log entry 116): a later byte outside MESHWIN, of a malformed mesh address or without a usable route stops the engine with
reason 18, as a rejection. -/
def State.engMesh (s : State) (c : Nat) (x : Ctx) (va : Word) (size : Nat) : Except EFault EPlace :=
  match meshTarget s.devnum c va with
  | none => .error .reject
  | some (dev, cx, cy, off) =>
    let n := cy * 32 + cx
    if !inWindow x.meshwin dev s.devnum cx cy then .error .reject
    else if dev != s.devnum then (if s.podGone.contains dev then .error .gone else .ok (.podSpm dev n off))
    else if n != c then (if s.routeOk c n then .ok (.mesh n off) else .error .reject)
    else if (s.coreAt c).leaving off size then .error .ways
    else if off + size > (s.coreAt c).scratch then .error .reject
    else .ok (.spm off)

/-- How an engine access to a local line stands: it can be made, it must wait, or the own L1 holds the line for another page and
gives it up first. -/
inductive EngTurn
  | now | wait | evict
  deriving DecidableEq, Repr

/-- An access of a core's engine to a local line (R197, R221, R228, R230, R372): in the own L1 when it holds the line through this
page; at the home, when nothing is in progress there, past the L1 or where the L1 must obtain the line. -/
def State.engTurn (s : State) (c asid : Nat) (e : TlbEnt) (line : Nat) (write : Bool) : EngTurn :=
  let home : EngTurn := if s.lineQuiet line then .now else .wait
  if e.nc || e.sync then home
  else
    match (s.coreAt c).lineAt line with
    | none => if e.priv then .now else home
    | some l =>
      if l.via == e.via asid then
        if !(l.st.stable && l.waits.isEmpty) then .wait
        else if e.priv || !write || l.st == .mod || l.st == .exc then .now
        else home
      else if l.via.priv then home
      else .evict

/-- A page private to another core is reclassified by its owner before the engine reaches it (R227, R229). -/
def State.engOwn (s : State) (c : Nat) (x : Ctx) (va : Word) (n : Need) (owner level off : Nat) : State × Option TlbEnt :=
  let asid := x.asid.toNat
  if s.reclassReady owner off then
    let s := s.reclassify owner asid off
    let q := (s.peekWord asid off).1
    let (s, _) := s.fill c asid va n.w 0 level off q
    (s, (s.coreAt c).tlb.find? fun e => e.maps asid va.toNat)
  else (s, none)

/-- A place of local memory that an engine is to access. -/
def State.engLocal (s : State) (c asid : Nat) (e : TlbEnt) (off : Nat) (write : Bool) : State × Except EFault EPlace :=
  match s.engTurn c asid e (off / 64) write with
  | .now => (s, .ok (.mem e off))
  | .wait => (s, .error .busy)
  | .evict => (s.evictLine c (off / 64), .error .busy)

/-- Translate as the engine does: the TLB, then a walk that fills it (R166, R227, R260). -/
def State.engReach (s : State) (c : Nat) (x : Ctx) (va : Word) (size : Nat) (n : Need) : State × Except EFault EPlace :=
  if isMesh va then (s, s.engMesh c x va size)
  else
    let asid := x.asid.toNat
    let place (s : State) (e : TlbEnt) : State × Except EFault EPlace :=
      let pa := e.pa va.toNat
      if paDev pa != s.devnum then
        (s, if s.podGone.contains (paDev pa) then .error .gone else .ok (.podMem (paDev pa) pa e.sync))
      else s.engLocal c asid e (paOff pa) n.w
    match (s.coreAt c).translate asid x.smode va n with
    | .ok e _ => place s e
    | .bad r l => (s, .error (.page n.cause (pfVal2 r l)))
    | .miss =>
      let w := s.walkWith (s.coreAt c).ptrs asid x.ptbase va x.smode n
      if !w.lines.all s.lineQuiet then (s, .error .busy)
      else
        let s := s.walkTrace c w
        match w.leaf with
        | .fail r l => (s, .error (.page n.cause (pfVal2 r l)))
        | .found level off p =>
          let (s, other) := s.fill c asid va n.w 0 level off p
          match other with
          | none =>
            match (s.coreAt c).tlb.find? fun e => e.maps asid va.toNat with
            | some e => place s e
            | none => (s, .error .busy)
          | some owner =>
            match s.engOwn c x va n owner level off with
            | (s, some e) => place s e
            | (s, none) => (s, .error .busy)

/-- The place of an engine access. At a page private to the core whose reclassify has arrived it waits (R229 step 1). -/
def State.engPlace (s : State) (c : Nat) (x : Ctx) (va : Word) (size : Nat) (n : Need) : State × Except EFault EPlace :=
  match s.engReach c x va size n with
  | (s, .ok (.mem e off)) => if (s.reclaimHold c [.glob e off]).isSome then (s, .error .busy) else (s, .ok (.mem e off))
  | r => r

/-- A line of a shared page comes into a core's L1 for a read (R221, R224): from its owner, which keeps it in O or S, or from its home,
exclusively while nobody shares it. Under another ASID every copy is recalled first (R372); one with the initial mark reads zero
beside them (R371). -/
def State.shareLine (s : State) (c asid line : Nat) (via : Via) : State × LineVal :=
  let s := s.recallAlien asid line
  let d := s.dirAt line
  let alone := d.owner.isNone && d.sharers.isEmpty
  let lv := s.peekLine asid line
  let st : L1St := if alone then .exc else .shr
  let d' : DirEnt :=
    if alone then { d with owner := some c, asid := asid }
    else if d.asid != asid then { d with sharers := insertNat c d.sharers }
    else
      match d.owner.bind fun o => ((s.coreAt o).lineAt line).map fun l => (o, l.st) with
      | some (o, L1St.exc) => { d with owner := none, sharers := insertNat c (insertNat o d.sharers) }
      | _ => { d with sharers := insertNat c d.sharers }
  let s := match d.owner.bind fun o => ((s.coreAt o).lineAt line).map fun l => (o, l) with
    | some (o, l) =>
      if d.asid != asid then s
      else s.setLine o line { l with st := match l.st with | .mod => .own | .exc => .shr | x => x }
    | none => s
  ((s.setDir line d').useLine c line { freshLine st via with lv := lv }, lv)

/-- A read at the home (R191, R197): every copy is recalled, but for a line with the initial mark under another ASID (R371). -/
def State.readHome (s : State) (asid line : Nat) : State × LineVal :=
  let s := if (s.dirAt line).asid != asid && s.marked line then s else s.recall line
  (s, s.peekLine asid line)

/-- The line of a cacheable local page as the engine of a core reads it: through the L1 (R166, R197, R215, R228), or at the home past
a line that the L1 holds for another private page (R230) and where its set has no place (log entry 90). -/
def State.engLine (s : State) (c asid : Nat) (e : TlbEnt) (line : Nat) : State × LineVal :=
  match (s.coreAt c).lineAt line with
  | some l =>
    if l.via == e.via asid then (s.useLine c line { l with pm := false }, l.lv)
    else s.readHome asid line
  | none =>
    let s := s.makeRoom c line none
    if (s.coreAt c).setFull line then let s := s.recallAlien asid line; (s, s.peekLine asid line)
    else if e.priv then
      let lv := s.homeLine asid line
      (s.useLine c line { freshLine .exc (e.via asid) with lv := lv }, lv)
    else s.shareLine c asid line (e.via asid)

/-- The 8-byte word at a local place with its poison; at an NC or SYNC page the home reads its own copy (R191, R197). -/
def State.engWord (s : State) (c asid : Nat) (p : EPlace) : State × Nat × Bool :=
  match p with
  | .spm off => (s, mnum (s.coreAt c).spm (off / 8 * 8) 8, (s.coreAt c).spmBad.contains (off / 8))
  | .mem e off =>
    let (s, lv) := if e.nc || e.sync then s.readHome asid (off / 64) else s.engLine c asid e (off / 64)
    (s, lineNum lv.data (off % 64 / 8 * 8) 8, bitOf lv.bad (off % 64 / 8))
  | _ => (s, 0, true)

/-- A change of a line of a cacheable page by a core's engine: in its L1, which holds the line in M then, every other copy of a shared
page's line having gone to its home (R197, R228); or at the home, past a line that the L1 holds for another private page (R230) and
where its set has no place (log entry 90). -/
def State.engLineWrite (s : State) (c asid : Nat) (e : TlbEnt) (line : Nat) (f : LineVal → LineVal × Result) : State × Result :=
  let inL1 (s : State) (l : L1Line) : State × Result :=
    let (lv, r) := f l.lv
    (s.useLine c line { l with st := .mod, pm := false, lv := lv }, r)
  let atHome (s : State) : State × Result :=
    let (lv, r) := f (s.homeLine asid line)
    (s.setHomeLine asid line lv, r)
  match (s.coreAt c).lineAt line with
  | some l =>
    if l.via != e.via asid then atHome (s.recall line)
    else if e.priv || l.st == .mod || l.st == .exc then inL1 s l
    else
      let s := s.recall line
      inL1 (s.setDir line { s.dirAt line with owner := some c, sharers := [], asid := asid })
        { l with lv := s.homeLine asid line }
  | none =>
    let s := (if e.priv then s else s.recall line).makeRoom c line none
    if (s.coreAt c).setFull line then atHome s
    else
      let l := { freshLine .mod (e.via asid) with lv := s.homeLine asid line }
      inL1 (if e.priv then s else s.setDir line { s.dirAt line with owner := some c, sharers := [], asid := asid }) l

/-- A write at a local place. A typed word on a SYNC page refuses it (R233). -/
def State.engWrite (s : State) (c asid : Nat) (p : EPlace) (a : Access) : State × Result :=
  match p with
  | .spm off =>
    let k := s.coreAt c
    let (m, b, r) := accCells k.spm k.spmBad off a
    (s.setCore c { k with spm := m, spmBad := b }, r)
  | .mem e off =>
    if e.nc || e.sync then (s.recall (off / 64)).homePerform asid off e.sync a
    else s.engLineWrite c asid e (off / 64) fun lv => accLine lv (off % 64) a
  | _ => (s, .done)

/-- The address of an item as its home names it: an absolute mesh address, or the physical address a walk gives; 0 where there is
none. -/
def State.itemAddr (s : State) (c : Nat) (x : Ctx) (va : Word) : Word :=
  if isMesh va then
    match meshTarget s.devnum c va with
    | some (dev, cx, cy, off) => meshWord dev cx cy off
    | none => 0
  else
    match s.walk x.asid.toNat x.ptbase va x.smode { w := true } with
    | .found level off p => word ((leafEntry x.asid.toNat va.toNat level off p false false).pa va.toNat)
    | .fail .. => 0

/-- Ask another core or device for an access of an engine: the request's number is `txn` of the state answered. -/
def State.engAsk (s : State) (c : Nat) (x : Ctx) (p : EPlace) (a : Access)
    (cmd : Option (Nat × Option Word) := none) : State :=
  let id := s.txn + 1
  match p with
  | .mesh n off => ({ s with txn := id } : State).send (.core c) (.core n) (.mesh ⟨s.devnum, c, x.slot, id⟩ off a)
  | .podSpm d n off =>
    let m : PodMsg := ⟨id, d, .request c x.slot id x.asid.toNat cmd (.mesh (n % 32) (n / 32) off a), s.time.toNat, false⟩
    { s with txn := id, podOut := s.podOut ++ [m] }
  | .podMem d pa sync =>
    let m : PodMsg := ⟨id, d, .request c x.slot id x.asid.toNat cmd (.access pa sync a), s.time.toNat, false⟩
    { s with txn := id, podOut := s.podOut ++ [m] }
  | _ => { s with txn := id }

/-- The place lies at another core or on another device. -/
def EPlace.remote : EPlace → Bool
  | .mesh .. | .podSpm .. | .podMem .. => true
  | .spm _ | .mem .. => false

end Sys2Proof.Machine
end

