-- ==== Sys2Proof/Machine/Matrix.lean ====
section
/-! DEFINITION. The matrix array and the accumulator tiles (R123 to R127, R154 to R187): issue of MWL, MMA and the ACC
instructions, and the performance of a queue entry. -/

namespace Sys2Proof.Machine

open Sys2Proof

/-! ### Formats and layouts (R112 to R114, R155 to R157) -/

/-- Element width in bits of an operand format; an LC2 weight takes two (R155, R156). -/
def opWidth (f : TyCode) : Nat :=
  match f with
  | .bf16 | .f16 => 16
  | .mxf6e3m2 | .mxf6e2m3 => 6
  | .mxf4 => 4
  | .lc2 => 2
  | _ => 8

/-- Depth K of a weight tile (R155). -/
def tileDepth (f : TyCode) : Nat :=
  match f with
  | .bf16 | .f16 => 64
  | .mxf4 | .lc2 => 512
  | _ => 128

/-- A format with block scales (R112, R114, R156). -/
def scaledFmt (f : TyCode) : Bool :=
  match f with
  | .mxf8e4m3 | .mxf8e5m2 | .mxf6e3m2 | .mxf6e2m3 | .mxf4 | .mxi8 | .lc2 => true
  | _ => false

/-- Element format of a floating operand format (R112). -/
def elemFmt (f : TyCode) : Fmt :=
  match f with
  | .bf16 => .bf16
  | .f16 => .f16
  | .e5m2 | .mxf8e5m2 => .e5m2
  | .mxf6e3m2 => .e3m2
  | .mxf6e2m3 => .e2m3
  | .mxf4 => .e2m1
  | _ => .e4m3

/-- Bytes of one column of a weight tile (R156). -/
def colBytes (f : TyCode) : Nat := tileDepth f * opWidth f / 8

/-- Bytes of a weight tile (R156). -/
def tileBytes (f : TyCode) : Nat := 64 * colBytes f + (if scaledFmt f then 64 * (tileDepth f / 32) else 0)

/-- Bytes of an activation row that are read, and its stride RS (R157). -/
def rowUsed (f : TyCode) (k : Nat) : Nat := k * opWidth f / 8 + (if scaledFmt f then k / 32 else 0)
/-- RS (R157). -/
def rowStride (f : TyCode) (k : Nat) : Nat := (rowUsed f k + 15) / 16 * 16

/-- The eight coordinates of an LC2 word as sign × 8 + twice the magnitude (R114). -/
def lc2Coord (c j : Nat) : Nat :=
  let mag := if c.testBit (7 + j) then (if c.testBit 15 then 5 else 3) else 1
  let neg := if j < 7 then b2n (c.testBit j) else ((List.range 7).foldl (fun a i => a + b2n (c.testBit i)) 0) % 2
  neg * 8 + mag

/-- Element `k` of a bit string of a format held in a number, as the latch keeps it (R113, R114). -/
def elemCode (f : TyCode) (bits k : Nat) : Nat :=
  match f with
  | .lc2 => lc2Coord (bits / 2 ^ (16 * (k / 8)) % 2 ^ 16) (k % 8)
  | _ => bits / 2 ^ (opWidth f * k) % 2 ^ opWidth f

/-- The value of an element code of a format before its scale (R110, R112, R114). -/
def elemVal (f : TyCode) (code : Nat) : FVal :=
  match f with
  | .lc2 => .fin (code / 8 == 1) (code % 8) (-1)
  | .mxi8 => let i := signedOf 8 code; .fin (decide (i < 0)) i.natAbs (-6)
  | f => (elemFmt f).val code

/-- A prepared operand (R124): its finite value, and whether it was NaN or infinite. -/
structure Prep where
  neg  : Bool
  m    : Nat
  e    : Int
  nan  : Bool
  inf  : Bool
  deriving DecidableEq, Repr

/-- Prepare an operand under its scale byte; 127 stands for an unscaled format (R112, R124). -/
def prep (f : TyCode) (code scale : Nat) : Prep :=
  let up : Int := (scale : Int) - 127
  if scale = 255 then ⟨false, 0, 0, true, false⟩
  else
    match elemVal f code with
    | .nan => ⟨false, 0, 0, true, false⟩
    | .inf n =>
      match (elemFmt f).val (elemFmt f).maxf with
      | .fin _ m e => ⟨n, m, e + up, false, true⟩
      | _ => ⟨n, 0, 0, false, true⟩
    | .fin n m e => ⟨n, m, e + up, false, false⟩

/-! ### Tiles -/

/-- A tile of a core. -/
def Core.tile (k : Core) (t : Nat) : Tile := tget k.tiles t {}
/-- A tile replaced. -/
def State.setTile (s : State) (c t : Nat) (x : Tile) : State := s.modCore c fun k => { k with tiles := tset t x k.tiles }
/-- An element of a tile. -/
def Tile.at (t : Tile) (i : Nat) : Elem := tget t.n i 0
/-- Set an element; a zero is not listed. -/
def putElem (i : Nat) (v : Elem) (n : Tab Elem) : Tab Elem := if v = 0 then tdel i n else tset i v n
/-- The anchor as an integer (R123). -/
def Tile.e (t : Tile) : Int := t.anchor.toInt
/-- The holder becomes a thread while there is none (R164). -/
def Tile.hold (t : Tile) (slot : Nat) : Tile := if t.holder.isSome then t else { t with holder := some slot }

/-- Tile status (R165). -/
def Tile.status (t : Tile) : Word :=
  word (t.anchor.toNat + b2n t.live * 2 ^ 16 + b2n t.prange * 2 ^ 17 + b2n t.pinv * 2 ^ 18 + b2n t.psat * 2 ^ 19
    + b2n t.err * 2 ^ 20 + t.holder.getD 0 * 2 ^ 36 + b2n t.holder.isSome * 2 ^ 40)

/-- The matrix state of a core as the first thread of a launch finds it (R163). DESIGN CHOICE (log entry 136): WERR, the source
address and the holder of the latch are 0, as after reset. -/
def Core.matrixReset (k : Core) : Core :=
  { k with tiles := [], active := {}, shadow := none, mlog := [], mlogOver := false, mlogErr := 0 }

/-! ### What queued entries will leave (R160) -/

/-- LIVE and anchor of the four tiles after one more entry. -/
def tilesAfter (l : List (Bool × BitVec 10)) (op : MatOp) : List (Bool × BitVec 10) :=
  let at_ (t : Nat) : Bool × BitVec 10 := l.getD t (false, 0)
  match op with
  | .mma _ d _ _ => l.set d (true, (at_ d).2)
  | .acccfg d e _ => l.set d (false, e)
  | .acczero d => l.set d (false, (at_ d).2)
  | .accadd d x => l.set d ((at_ d).1 || (at_ x).1, (at_ d).2)
  | _ => l

/-- LIVE and anchor of tile `t` after the queue. -/
def Core.tileAfter (k : Core) (t : Nat) : Bool × BitVec 10 :=
  (k.mq.foldl (fun l m => tilesAfter l m.op)
    ((List.range 4).map fun i => ((k.tile i).live, (k.tile i).anchor))).getD t (false, 0)

/-- Depth K of the weight latch after the queue. -/
def Core.depthAfter (k : Core) : Nat :=
  k.mq.foldl (fun d m => match m.op with | .mwl f _ => tileDepth f | _ => d) (k.shadow.getD k.active).k

/-- An ACCLOAD waits in the queue (R160). -/
def Core.loading (k : Core) : Bool := k.mq.any fun m => match m.op with | .accload .. => true | _ => false

/-! ### Issue (R158 to R166) -/

/-- The bytes of an operand range: the part in the own scratchpad and the physical lines; and the 64-byte pieces that are
written, with their places. -/
structure OpRange where
  own    : Nat × Nat := (0, 0)
  lines  : List Nat := []
  writes : List (Word × Place) := []
  deriving DecidableEq, Repr

/-- Translate the pages of a global range in order, 64 bytes at a time; `done` bytes of the range are checked (R166 step 3). -/
def State.rangePages (s : State) (x : ACtx) (va : Word) (len : Nat) (n : Need) :
    Nat → Nat → List (Word × Place) → Except Chk (List (Word × Place))
  | 0, _, l => .ok l
  | f + 1, done, l =>
    if len ≤ done then .ok l
    else
      let a := va + word done
      match s.placeOf x a 1 n with
      | .ok (.glob e pa) => State.rangePages s x va len n f (done + 64) (l ++ [(a, .glob e pa)])
      | .ok _ => .error (.trap 0x08 va 0)
      | .trap 0x08 _ v2 => .error (.trap 0x08 va v2)
      | e => .error e

/-- The 64-byte pieces of an operand range that passes the checks of R166, in order. -/
def State.rangePieces (s : State) (va : Word) (len : Nat) (n : Need) (global : Bool) : Except Chk (List (Word × Place)) :=
  let x := s.actx
  if va.toNat % 64 != 0 then .error (.trap 0x04 va 0)
  else if isMesh va then
    match meshTarget s.devnum x.core va with
    | some (dev, cx, cy, off) =>
      if dev = s.devnum && cy * 32 + cx = x.core && inWindow x.win dev s.devnum cx cy && off + len ≤ s.co.scratch then
        .ok ((List.range ((len + 63) / 64)).map fun i => (va + word (64 * i), .own (off + 64 * i)))
      else .error (.trap 0x08 va 0)
    | none => .error (.trap 0x08 va 0)
  else if !global then .error (.trap 0x08 va 0)
  else s.rangePages x va len n (len / 64 + 2) 0 []

/-- The checks of R166 on an operand range that is read. -/
def State.matrixRange (s : State) (va : Word) (len : Nat) (n : Need) (global : Bool) : Except Chk OpRange :=
  (s.rangePieces va len n global).map fun l =>
    match l with
    | (_, .own off) :: _ => { own := (off, len) }
    | l => { lines := l.filterMap fun x => match x.2 with | .glob _ pa => some (pa / 64) | _ => none }

/-- The class that counts a store of ACCRD or ACCSAVE from its issue on, wherever it will be performed (R166, R210). -/
def Place.storeClass (p : Place) (dev : Nat) : Nat :=
  match p with
  | .own _ => 0
  | p => if p.remote dev then 3 else 2

/-- The stores of a queued ACCRD or ACCSAVE as its thread counts them until the entry is performed, under the entry's number. -/
def State.storeOuts (s : State) (id : Nat) (ps : List (Word × Place)) : List Out :=
  ps.map fun p => ⟨id, p.2.storeClass s.devnum, false, p.1, 0x36, .none, noLine, .l1, s.th.asid.toNat⟩

/-- A matrix instruction enters the queue; `park` says whether its thread waits for the entry (R158, R159). -/
def State.enqueue (s : State) (i : Instr) (ctx : Ctx) (op : MatOp) (r : OpRange) (park : Bool) : State :=
  if s.co.mq.length ≥ 16 then s.park .matrixFull
  else
    let id := s.txn + 1
    let s := s.newId.modTh fun t => { t with outs := t.outs ++ s.storeOuts id r.writes }
    let s := s.modCo fun k => { k with mq := k.mq ++ [⟨id, wordOf i, ctx, op, r.own, r.lines, r.writes, false, []⟩] }
    let dst : Dest := match op with | .mstat _ _ d => .g d 8 false | _ => .none
    if park then s.awaitReply ⟨.matrix, id, 1, majOf i, 4, 0, 0, dst, [], none⟩ else s.advance 4

/-- A matrix instruction: it parks behind an ACCLOAD, is checked, and enters the queue (R158, R160). -/
def State.matrix (s : State) (i : Instr) (ctx : Ctx) (op : MatOp) (chk : Except Chk OpRange) (park : Bool) : State :=
  if s.co.loading then s.park .accload
  else
    match chk with
    | .error c => s.failChk c 4
    | .ok r => s.enqueue i ctx op r park

/-- MWL (R167). DESIGN CHOICE (log entry 117): the operand range is tested before the counter of SIG (R166, R417). -/
def execMwl (g : Bool) (sc : Scope) (r q t : Bool) (a : GReg) (f : TyCode) (s : State) : Out' :=
  issue { instr := .mwl g sc r q t a f, srcs := [gsrc a t] } (fun s =>
    if s.co.loading then s.park .accload
    else
      match s.matrixRange (s.rg a) (tileBytes f) { r := true } true with
      | .error c => s.failChk c 4
      | .ok rng =>
        match s.sigCheck g 0x34 with
        | .error s' => s'
        | .ok pa => s.enqueue (.mwl g sc r q t a f) (s.mkCtx q r g sc pa) (.mwl f (s.rg a)) rng false) s

/-- MMA (R169), with the order of checks of MWL (log entry 117). -/
def execMma (g : Bool) (sc : Scope) (r q t : Bool) (b a : GReg) (f : TyCode) (n : TileNo) (s : State) : Out' :=
  issue { instr := .mma g sc r q t b a f n, srcs := [gsrc a t, gsrc b t] } (fun s =>
    let rows := (s.rg b).toNat
    if rows = 0 || rows > 64 then s.illegal (wordOf (.mma g sc r q t b a f n)) 4
    else if s.co.loading then s.park .accload
    else
      match s.matrixRange (s.rg a) (rows * rowStride f s.co.depthAfter) { r := true } false with
      | .error c => s.failChk c 4
      | .ok rng =>
        match s.sigCheck g 0x35 with
        | .error s' => s'
        | .ok pa => s.enqueue (.mma g sc r q t b a f n) (s.mkCtx q r g sc pa) (.mma f n (s.rg a) rows) rng false) s

/-- The context of an ACC instruction, which has no ordering fields. -/
def State.plainCtx (s : State) : Ctx := s.mkCtx false false false .core 0

/-- ACCLIVE (R175). -/
def accLive (t reason : Nat) (src e : BitVec 10) : Chk :=
  .trap 0x0C (word t) (word (reason * 2 ^ 56 + src.toNat * 2 ^ 16 + e.toNat))

/-- ACCCFG (R170). -/
def execAcccfg (x : Bool) (a : GReg) (k : Bool) (n : TileNo) (s : State) : Out' :=
  issue { instr := .acccfg x a k n, srcs := [gsrc a x] } (fun s =>
    let (live, e) := s.co.tileAfter n
    s.matrix (.acccfg x a k n) s.plainCtx (.acccfg n ((s.rg a).setWidth 10) k)
      (if live && !k then .error (accLive n 0 0 e) else .ok {}) false) s

/-- ACCZERO (R171). -/
def execAcczero (n : TileNo) (s : State) : Out' :=
  issue { instr := .acczero n } (fun s => s.matrix (.acczero n) s.plainCtx (.acczero n) (.ok {}) false) s

/-- ACCADD (R172). -/
def execAccadd (x n : TileNo) (s : State) : Out' :=
  issue { instr := .accadd x n } (fun s =>
    let d := (s.co.tileAfter n).2
    let e := (s.co.tileAfter x).2
    s.matrix (.accadd x n) s.plainCtx (.accadd n x) (if d != e then .error (accLive n 1 e d) else .ok {}) false) s

/-- Bytes of a row that ACCRD writes (R173). -/
def accRowBytes (f : TyCode) : Nat :=
  match f with
  | .f32 => 256
  | .bf16 => 128
  | .a96 => 768
  | _ => 64

/-- A write range of ACCRD or ACCSAVE (R166): the pieces whose place in the range is selected, with the unreachable device of
a store (R386). -/
def State.writeRange (s : State) (va : Word) (len : Nat) (sel : Nat → Bool) : Except Chk OpRange :=
  match s.rangePieces va len { w := true } true with
  | .error c => .error c
  | .ok l =>
    match l.find? fun x => s.gone x.2 with
    | some x => .error (.trap 0x12 x.1 (word (1 * 2 ^ 16 + 0x36 * 2 ^ 8 + 5)))
    | none => .ok { writes := (l.zip (List.range l.length)).filterMap fun x => if sel x.2 then some x.1 else none }

/-- Why the stores of ACCRD or ACCSAVE, which stand at its place in program order, must wait (R166, R202, R207, R210, R229). -/
def State.storesGate (s : State) (ps : List (Word × Place)) : Option Park :=
  let t := s.th
  let need (c : Nat) : Nat := (ps.filter fun p => p.2.storeClass s.devnum == c).length
  let full := [1, 2, 3].find? fun c => need c != 0 && decide (4095 < t.wcnt c + need c)
  if ps.isEmpty then none
  else if !t.acqReady then some .acquire
  else if !valuesReady t.outs then some .values
  else (full.map fun c => Park.room c (need c)).or ((s.reclaimHold s.cur.1 (ps.map (·.2))).map .reclaim)

/-- ACCRD and ACCSAVE: checked as a matrix instruction, held as the stores they make, and parked until they are done (R159,
R166). -/
def State.matrixStores (s : State) (i : Instr) (op : MatOp) (chk : Except Chk OpRange) : State :=
  match chk with
  | .error c => s.matrix i s.plainCtx op (.error c) true
  | .ok r =>
    match if s.co.loading then none else s.storesGate r.writes with
    | some why => s.park why
    | none => s.matrix i s.plainCtx op (.ok r) true

/-- ACCRD (R173). -/
def execAccrd (y x : Bool) (b a : GReg) (f : TyCode) (n : TileNo) (s : State) : Out' :=
  issue { instr := .accrd y x b a f n, srcs := [gsrc a x, gsrc b y] } (fun s =>
    let m := s.rg b
    s.matrixStores (.accrd y x b a f n) (.accrd n f (s.rg a) (m.toNat) 0)
      (if m = 0 then .ok {}
       else s.writeRange (s.rg a) ((Nat.log2 m.toNat + 1) * accRowBytes f) fun i => bitOf m (64 * i / accRowBytes f))) s

/-- Bytes of a tile image (R174). -/
def imageBytes : Nat := 49216

/-- ACCSAVE (R174). -/
def execAccsave (x : Bool) (a : GReg) (n : TileNo) (s : State) : Out' :=
  issue { instr := .accsave x a n, srcs := [gsrc a x] } (fun s =>
    s.matrixStores (.accsave x a n) (.accsave n (s.rg a)) (s.writeRange (s.rg a) imageBytes fun _ => true)) s

/-- ACCLOAD (R174): a live tile traps at issue. DESIGN CHOICE (log entries 118, 137): its
reads do not wait for the thread's acquire (R207), and ACCLIVE comes before what R166 tests of the address. -/
def execAccload (x : Bool) (a : GReg) (n : TileNo) (s : State) : Out' :=
  issue { instr := .accload x a n, srcs := [gsrc a x] } (fun s =>
    let (live, e) := s.co.tileAfter n
    s.matrix (.accload x a n) s.plainCtx (.accload n (s.rg a))
      (if live then .error (accLive n 0 0 e) else s.matrixRange (s.rg a) imageBytes { r := true } true) true) s

/-- MSTAT (R176). -/
def execMstat (x : Bool) (a d : GReg) (s : State) : Out' :=
  issue { instr := .mstat x a d, srcs := [gsrc a x], dsts := [gdst d] } (fun s =>
    let v := s.rg a
    s.matrix (.mstat x a d) s.plainCtx (.mstat (fld v 0 4) (bitOf v 4) d) (.ok {}) true) s

/-! ### Operand words (R161, R166, R180, R181) -/

/-- The place of an operand word. A reclassified page holds back the reads of a queue none of whose stores the page still awaits (R229). The own scratchpad keeps every way until the matrix queue has drained (R243; log entry 93). -/
def State.operandPlace (s : State) (c : Nat) (x : Ctx) (va : Word) : State × Except EFault EPlace :=
  if isMesh va then
    match meshTarget s.devnum c va with
    | some (_, _, _, off) => (s, .ok (.spm off))
    | none => (s, .error .reject)
  else if (s.coreAt c).mq.any fun m => (s.reclaimHold c (m.writes.map (·.2))).isSome then s.engReach c x va 8 { r := true }
  else s.engPlace c x va 8 { r := true }

/-- Operand words read: value and damage of each, in order; none while a page is held (R161, R180, R181). -/
def State.readWords (s : State) (c : Nat) (x : Ctx) (got : Tab (Nat × Option (Nat × Bool))) (va : Word) :
    Nat → Nat → List (Nat × Bool) → State × Option (List (Nat × Bool))
  | 0, _, acc => (s, some acc.reverse)
  | n + 1, i, acc =>
    match s.operandPlace c x (va + word (8 * i)) with
    | (s, .error .busy) => (s, none)
    | (s, .error _) => State.readWords s c x got va n (i + 1) ((0, true) :: acc)
    | (s, .ok p) =>
      let (s, w) := if p.remote then (s, ((got.find? fun g => g.2.1 == i).bind fun g => g.2.2).getD (0, true))
        else s.engWord c x.asid.toNat p
      State.readWords s c x got va n (i + 1) ((if w.2 then (0, true) else w) :: acc)

/-- The page or line of every operand word can be reached: none that a request in progress holds (R161). -/
def State.wordsFree (s : State) (c : Nat) (x : Ctx) (va : Word) : Nat → Nat → State × Bool
  | 0, _ => (s, true)
  | n + 1, i =>
    match s.operandPlace c x (va + word (8 * i)) with
    | (s, .error .busy) => (s, false)
    | (s, _) => State.wordsFree s c x va n (i + 1)

/-- Ask for the operand words that lie on other devices: the state and the requests by number. -/
def State.askWords (s : State) (c : Nat) (x : Ctx) (va : Word) :
    Nat → Nat → Tab (Nat × Option (Nat × Bool)) → State × Tab (Nat × Option (Nat × Bool))
  | 0, _, acc => (s, acc)
  | n + 1, i, acc =>
    match s.operandPlace c x (va + word (8 * i)) with
    | (s, .ok p) =>
      if p.remote then
        let s := s.engAsk c x p (.load 8)
        State.askWords s c x va n (i + 1) (acc ++ [(s.txn, (i, none))])
      else State.askWords s c x va n (i + 1) acc
    | (s, .error _) => State.askWords s c x va n (i + 1) acc

/-- The number that a list of words forms, lowest first. -/
def wordsNat : List (Nat × Bool) → Nat
  | [] => 0
  | w :: r => w.1 + 2 ^ 64 * wordsNat r

/-- The places of the damaged words. -/
def badWords (l : List (Nat × Bool)) : List Nat := (List.range l.length).filter fun i => (l.getD i (0, false)).2

/-! ### The error log (R184, R185) -/

/-- Write one log entry into the lowest free place, or set OVERFLOW; count it (R180, R184, R185). -/
def Core.logWord (k : Core) (side tile idx kk slot off : Nat) : Core :=
  let e := word (2 ^ 63 + side * 2 ^ 61 + tile * 2 ^ 59 + idx * 2 ^ 53 + kk * 2 ^ 44 + slot * 2 ^ 40 + off)
  let k := { k with mlogErr := min 65535 (k.mlogErr + 1) }
  match (List.range 8).find? fun i => !bitOf (tget k.mlog i 0) 63 with
  | some i => { k with mlog := tset i e k.mlog }
  | none => { k with mlogOver := true }

/-- The log header (R185). -/
def Core.logHeader (k : Core) : Word :=
  word ((List.range 8).foldl (fun a i => a + b2n (bitOf (tget k.mlog i 0) 63) * 2 ^ i) 0 + b2n k.mlogOver * 2 ^ 8
    + k.mlogErr * 2 ^ 16)

/-! ### Performing an entry -/

/-- Column and lowest k of the word at a byte offset of a weight tile (R156, R184). -/
def weightWhere (f : TyCode) (off : Nat) : Nat × Nat :=
  let cb := colBytes f
  if off < 64 * cb then (off / cb, off % cb * 8 / opWidth f)
  else
    let per := tileDepth f / 32
    let i := off - 64 * cb
    (i / per, i % per * 32)

/-- An element of a bit string overlaps a damaged word; `base` is the string's byte offset in the operand. -/
def overlapsBad (bad : List Nat) (base w k : Nat) : Bool :=
  let lo := base * 8 + w * k
  bad.any fun b => decide (b * 64 < lo + w ∧ lo < b * 64 + 64)

/-- The latch that a weight tile fills (R156, R167, R180). -/
def latchOf (f : TyCode) (words : List (Nat × Bool)) (src : Word) (slot : Nat) : Weights :=
  let bits := wordsNat words
  let bad := badWords words
  let cb := colBytes f
  let per := tileDepth f / 32
  let scaleOff (n j : Nat) : Nat := 64 * cb + n * per + j
  let lost (n j : Nat) : Bool := scaledFmt f && bad.contains (scaleOff n j / 8)
  let cols := (List.range (tileDepth f)).flatMap fun k => (List.range 64).filterMap fun n =>
    let code := elemCode f (bits / 2 ^ (8 * (n * cb)) % 2 ^ (8 * cb)) k
    if code = 0 || overlapsBad bad (n * cb) (opWidth f) k || lost n (k / 32) then none else some (k * 64 + n, code)
  let scales := if scaledFmt f then
      (List.range per).flatMap fun j => (List.range 64).filterMap fun n =>
        let v := bits / 2 ^ (8 * scaleOff n j) % 256
        if lost n j || v = 127 then none else some (j * 64 + n, v)
    else []
  { format := f, w := cols, scale := scales, k := tileDepth f, src := src, werr := !bad.isEmpty, valid := true, holder := slot }

/-- A prepared weight of a latch. -/
def Weights.prep (l : Weights) (k n : Nat) : Prep := Machine.prep l.format (tget l.w (k * 64 + n) 0) (tget l.scale (k / 32 * 64 + n) 127)

/-- The prepared activations of one row: `bits` is the row's number, `base` its byte offset in the operand (R157, R180). An
element of a damaged word is a zero of its block, and a block whose scale byte is lost is all zeros. -/
def rowPreps (f : TyCode) (depth bits base : Nat) (bad : List Nat) : List Prep :=
  (List.range depth).map fun k =>
    let scale := if scaledFmt f then bits / 2 ^ (8 * (depth * opWidth f / 8 + k / 32)) % 256 else 127
    let lost := scaledFmt f && bad.contains ((base + depth * opWidth f / 8 + k / 32) / 8)
    if lost then ⟨false, 0, 0, false, false⟩
    else Machine.prep f (if overlapsBad bad base (opWidth f) k then 0 else elemCode f bits k) scale

/-- One rounded product (R124). -/
def product (a w : Prep) (e : Int) : Int :=
  let q := (roundTo .rne false (a.m * w.m) (a.e + w.e - e) 0).1
  if a.neg != w.neg then -(q : Int) else q

/-- The rounded products of a row with one column. -/
def products (l : Weights) (row : List Prep) (n : Nat) (e : Int) : List Int :=
  (List.range row.length).map fun k => product (row.getD k ⟨false, 0, 0, false, false⟩) (l.prep k n) e

/-- MMA of one row into a tile (R169). -/
def Tile.addRow (t : Tile) (l : Weights) (row : List Prep) (r : Nat) : Tile :=
  (List.range 64).foldl (fun t n =>
    let qs := products l row n t.e
    let sum := qs.foldl (· + ·) 0
    let ws := (List.range row.length).map fun k => l.prep k n
    { t with n := putElem (r * 64 + n) (t.at (r * 64 + n) + BitVec.ofInt 96 sum) t.n,
             prange := t.prange || qs.any fun q => decide (q.natAbs ≥ 2 ^ 94),
             pinv := t.pinv || ws.any (·.nan) || row.any (·.nan),
             psat := t.psat || ws.any (·.inf) || row.any (·.inf) }) t

/-- An element as ACCRD converts it (R127): the bits and the flags. -/
def accOut (f : TyCode) (v : Elem) (e : Int) : Nat × Flags :=
  let i := v.toInt
  let x : FVal := .fin (decide (i < 0)) i.natAbs e
  match f with
  | .a96 => (v.toNat, 0)
  | .i8 => let (y, fl) := cvtInt 8 .rne x; (fld (wordI y) 0 8, fl)
  | f =>
    match TyCode.fmt f with
    | some t =>
      let (c, fl) := t.cvt .rne x
      (if c % 2 ^ (t.e + t.m) = 0 then 0 else c, fl)
    | none => (0, 0)

/-- The bytes of the row that ACCRD writes, with the flags of its elements. -/
def accRow (t : Tile) (f : TyCode) (r : Nat) : List Byte × Flags :=
  let l := (List.range 64).map fun n => accOut f (t.at (r * 64 + n)) t.e
  (l.flatMap fun x => leBytes (accRowBytes f / 64) x.1, l.foldl (fun a x => a ||| x.2) 0)

/-- The tile image of a tile (R174). -/
def tileImage (t : Tile) : List Byte :=
  leBytes 8 (1 + 1 * 2 ^ 8) ++ leBytes 8 (t.status.toNat % 2 ^ 21) ++ leBytes 48 0
    ++ (List.range 4096).flatMap fun i => leBytes 12 (t.at i).toNat

/-- The 64-byte piece of a list of bytes from a byte. -/
def pieceAt (bs : List Byte) (off : Nat) : Line := lineOf ((bs.drop off).take 64)

/-- The thread that issued an ACCRD or ACCSAVE with stores still holds its slot (R163): it counts them under the entry's number. -/
def State.storesCounted (s : State) (c : Nat) (m : MatCmd) : Bool := (s.thread c m.ctx.slot).outs.any fun o => o.id == m.id

/-- The plain stores of ACCRD and ACCSAVE leave the core in order, under the places their issue checks gave them; `data` names
each piece by its byte offset from the operand's address (R166, R173). From here on each counts on its own (R210), while its thread
lives. The number and the first address of those whose device has become unreachable are answered (R386). -/
def State.sendStores (s : State) (c : Nat) (m : MatCmd) (base : Word) (data : Nat → Line) : State × Nat × Word :=
  let x := m.ctx
  let before := (s.thread c x.slot).outs
  let alive := s.storesCounted c m
  let s0 := s.modThread c x.slot fun t => { t with outs := t.outs.filter fun o => o.id != m.id }
  let (s1, n, va) := m.writes.foldl (fun (s, n, va) p =>
    if s.gone p.2 then (s, n + 1, if n = 0 then p.1 else va)
    else ((s.performAt c x.slot x.asid.toNat p.2 p.1 0x36 (.store 64 (data (p.1 - base).toNat)) (.matrix m.id) false).1, n, va)) (s0, 0, 0)
  if alive then (s1, n, va) else (s1.modThread c x.slot fun t => { t with outs := before }, 0, 0)

/-- A thread whose stores met an unreachable device takes a deferred UNCORR of kind 5 (R386). -/
def State.storesLost (s : State) (c slot n : Nat) (va : Word) : State :=
  if n = 0 then s else s.defer c slot ⟨0x12, va, word (2 ^ 63 + n * 2 ^ 16 + 0x36 * 2 ^ 8 + 5)⟩

/-- The thread that waits for an entry has its answer (R159). -/
def State.matrixWake (s : State) (c : Nat) (m : MatCmd) (r : Result) : State := s.waitAnswered c m.ctx.slot m.id r

/-- Remove the head of the queue. -/
def State.popMatrix (s : State) (c : Nat) : State := s.modCore c fun k => { k with mq := k.mq.drop 1 }

/-- The image an ACCLOAD accepts: its first words whole and as R174 lays them down. -/
def imageOk (words : List (Nat × Bool)) : Bool :=
  let w (i : Nat) : Nat := (words.getD i (0, true)).1
  (words.take 8).all (fun x => !x.2) && w 0 == 0x101 && w 1 % 2 ^ 16 < 2 ^ 10 && w 1 < 2 ^ 21
    && (List.range 6).all fun i => w (i + 2) == 0

/-- The tile that an accepted image gives (R174, R180). -/
def imageTile (words : List (Nat × Bool)) (slot : Nat) : Tile :=
  let bits := wordsNat (words.drop 8)
  let bad := (badWords words).filterMap fun i => if i ≥ 8 then some (i - 8) else none
  let w1 := (words.getD 1 (0, false)).1
  let els := (List.range 4096).filterMap fun i =>
    let v := BitVec.ofNat 96 (bits / 2 ^ (96 * i))
    if v = 0 || overlapsBad bad 0 96 i then none else some (i, v)
  { n := els, anchor := BitVec.ofNat 10 w1, prange := w1.testBit 17, pinv := w1.testBit 18, psat := w1.testBit 19,
    err := w1.testBit 20 || !bad.isEmpty, live := w1.testBit 16 || !els.isEmpty, holder := some slot }

/-- What MSTAT answers, and the core after its clear (R176). -/
def Core.mstat (k : Core) (i : Nat) (clear : Bool) : Word × Core :=
  if i < 8 then
    (tget k.mlog i 0, if clear then { k with mlog := tset i (setBit (tget k.mlog i 0) 63 false) k.mlog } else k)
  else if i < 12 then
    let t := k.tile (i - 8)
    (t.status, if clear then
        { k with tiles := tset (i - 8) { t with prange := false, pinv := false, psat := false, err := false } k.tiles }
      else k)
  else if i = 12 then
    (word (TyCode.code k.active.format + k.active.k * 2 ^ 4 + k.active.holder * 2 ^ 16 + b2n k.active.valid * 2 ^ 20
      + b2n k.active.werr * 2 ^ 21), k)
  else if i = 13 then (k.active.src, k)
  else if i = 14 then (k.logHeader, if clear then { k with mlogOver := false, mlogErr := 0 } else k)
  else (0, k)

/-- Log the damaged words of an operand (R180, R184). -/
def State.logBad (s : State) (c : Nat) (bad : List Nat) (side tile slot : Nat) (pos : Nat → Nat × Nat) : State :=
  bad.foldl (fun s i => s.modCore c fun k => k.logWord side tile (pos i).1 (pos i).2 slot (8 * i)) s

/-- The words of the activation rows that are read: those that hold a byte of a row before its padding. -/
def usedWord (f : TyCode) (depth i : Nat) : Bool := decide (8 * i % rowStride f depth < rowUsed f depth)

/-- Place of a damaged activation word: its row and lowest k (R157, R184). -/
def rowWhere (f : TyCode) (depth i : Nat) : Nat × Nat :=
  let rs := rowStride f depth
  let o := 8 * i % rs
  let els := depth * opWidth f / 8
  (8 * i / rs, if o < els then o * 8 / opWidth f else (o - els) * 32)

/-- Place of a damaged image word (R174, R184). -/
def imageWhere (i : Nat) : Nat × Nat := ((8 * i - 64) / 768, (8 * i - 64) % 768 / 12)

/-- The head entry is performed on its operand words (R167 to R176). -/
def State.matrixPerform (s : State) (c : Nat) (m : MatCmd) (words : List (Nat × Bool)) : State :=
  let k := s.coreAt c
  let slot := m.ctx.slot
  match m.op with
  | .mwl f a =>
    let s := s.logBad c (badWords words) 1 0 slot fun i => weightWhere f (8 * i)
    ((s.modCore c fun k => { k with shadow := some (latchOf f words a slot) }).popMatrix c).signal c 0x34 m.id m.ctx
  | .mma f t _ rows =>
    let depth := k.active.k
    let rs := rowStride f depth
    let bits := wordsNat words
    let bad := (badWords words).filter (usedWord f depth)
    let tile := (List.range rows).foldl (fun x r =>
      x.addRow k.active (rowPreps f depth (bits / 2 ^ (8 * rs * r) % 2 ^ (8 * rs)) (r * rs) bad) r) (k.tile t)
    let tile := { tile.hold slot with live := true, err := tile.err || k.active.werr || !bad.isEmpty }
    let s := s.logBad c bad 0 t slot (rowWhere f depth)
    ((s.setTile c t tile).popMatrix c).signal c 0x35 m.id m.ctx
  | .acccfg t e _ => (s.setTile c t { anchor := e, holder := some slot }).popMatrix c
  | .acczero t => (s.setTile c t { anchor := (k.tile t).anchor, holder := (k.tile t).holder }).popMatrix c
  | .accadd d x =>
    let td := k.tile d
    let ts := k.tile x
    let n := ((tkeys ts.n).foldl (fun a i => putElem i (td.at i + ts.at i) a) td.n)
    let tile := { td.hold slot with n := n, prange := td.prange || ts.prange, pinv := td.pinv || ts.pinv,
                                    psat := td.psat || ts.psat, err := td.err || ts.err, live := td.live || ts.live }
    (s.setTile c d tile).popMatrix c
  | .accrd t f a rows _ =>
    let sel := (List.range 64).filter fun r => rows.testBit r
    let rb := accRowBytes f
    let fl := if s.storesCounted c m then sel.foldl (fun acc r => acc ||| (accRow (k.tile t) f r).2) 0 else 0
    let (s, n, va) := s.sendStores c m a fun off => pieceAt (accRow (k.tile t) f (off / rb)).1 (off % rb)
    let s := (s.popMatrix c).modThread c slot fun th => th.raise fl
    (s.storesLost c slot n va).matrixWake c m .done
  | .accsave t a =>
    let bytes := tileImage (k.tile t)
    let (s, n, va) := s.sendStores c m a (pieceAt bytes)
    ((s.popMatrix c).storesLost c slot n va).matrixWake c m .done
  | .accload t _ =>
    let e := (k.tile t).anchor
    if !imageOk words then
      (s.popMatrix c).matrixWake c m (.trap 0x0C (word t) (word (2 * 2 ^ 56 + e.toNat)))
    else
      let s := s.logBad c ((badWords words).filter (· ≥ 8)) 2 t slot imageWhere
      ((s.setTile c t (imageTile words slot)).popMatrix c).matrixWake c m .done
  | .mstat i clear _ =>
    let (v, k') := k.mstat i clear
    ((s.setCore c k').popMatrix c).matrixWake c m (.value (v.setWidth 512))

/-- The operand of an entry: address and words. -/
def MatCmd.operand (m : MatCmd) (depth : Nat) : Word × Nat :=
  match m.op with
  | .mwl f a => (a, tileBytes f / 8)
  | .mma f _ a rows => (a, rows * rowStride f depth / 8)
  | .accload _ a => (a, imageBytes / 8)
  | _ => (0, 0)

/-- An access was issued before a matrix command: its own number says so, or that of the ACCRD or ACCSAVE which stores. -/
def Out.before (o : Out) (id : Nat) : Bool := decide (o.id ≤ id) || match o.dst with
  | .matrix i => decide (i < id)
  | _ => false

/-- A typed operation that a thread of a core issued before a matrix command, and that is on its way to its SSP or is a granted put, is to
change words of some lines (R26; log entry 130). -/
def State.typedBefore (s : State) (c id : Nat) (lines : List Nat) : Bool :=
  let touches (r : TypedReq) : Bool := (match r.who with
      | .thread w => w.dev == s.devnum && w.core == c && decide (w.id < id)
      | .sig .. => false)
    && (s.typedLines r.asid r.k r.pa r.b r.lockPa).any lines.contains
  (s.net.any fun m => match m.body with | .typed r => touches r | _ => false)
    || s.waiters.any fun w => w.kind == .granted && touches w.req

/-- The head of the queue may be performed: its latch is settled, its ACQ and REL hold, and every earlier access of the
core to its operand lines is performed (R160, R161, R162, R168); the lines it stores to have no access on another path (R199). -/
def State.matrixReady (s : State) (c : Nat) (m : MatCmd) : Bool :=
  let k := s.coreAt c
  (k.shadow.isNone || (match m.op with | .mwl .. | .mma .. | .mstat .. => false | _ => true))
    && (!(m.ctx.acq || m.ctx.rel) || s.beforeDone c m.ctx)
    && (k.threads.all fun e => e.2.outs.all fun o =>
      !o.before m.id || !(m.lines.any fun l => paDev (l * 64) == s.devnum && paOff (l * 64) / 64 == o.line))
    && !s.typedBefore c m.id m.lines
    && m.writes.all fun x => !s.pathConflict c x.2 false

/-- MATRIX_ENTRY_COMPLETE: the matrix unit performs the head of a core's queue (R158 to R176). -/
def execMatrixEntryComplete (c : Nat) (s : State) : Out' :=
  if !coreOk c then .fault .noSuchPart
  else
    match (s.coreAt c).mq with
    | [] => .next s
    | m :: rest =>
      if !s.matrixReady c m then .next s
      else
        let (va, n) := m.operand (s.coreAt c).active.k
        let upd (s : State) (m : MatCmd) : State := s.modCore c fun k => { k with mq := m :: rest }
        if !m.asked then
          let (s, free) := s.wordsFree c m.ctx va n 0
          if !free then .next s
          else
          let (s', got) := s.askWords c m.ctx va n 0 []
          let m := { m with asked := true, got := got }
          let s := upd s' m
          if !got.isEmpty then .next s
          else
            match s.readWords c m.ctx [] va n 0 [] with
            | (s, some words) => .next (s.matrixPerform c m words)
            | (s, none) => .next s
        else if m.got.any fun g => g.2.2.isNone then .next s
        else
          match s.readWords c m.ctx m.got va n 0 [] with
          | (s, some words) => .next (s.matrixPerform c m words)
          | (s, none) => .next s

/-- SHADOW_ACTIVATE: the shadow latch becomes the active one (R167, R168). -/
def execShadowActivate (c : Nat) (s : State) : Out' :=
  if !coreOk c then .fault .noSuchPart
  else
    match (s.coreAt c).shadow with
    | none => .next s
    | some w => .next (s.modCore c fun k => { k with active := w, shadow := none })

end Sys2Proof.Machine
end

