-- ==== Sys2Proof/Machine/Copy.lean ====
section
/-! DEFINITION. The copy engine (R251 to R262), its quantiser (R122, R255), and the follow-on of CPYM (R178, R179). -/

namespace Sys2Proof.Machine

open Sys2Proof

/-! ### The descriptor (R252, R253) -/

/-- A copy descriptor as the x registers hold it. -/
structure Desc where
  op    : Nat
  scode : Nat
  dcode : Nat
  rows  : Nat
  len   : Nat
  src   : Word
  dst   : Word
  sstr  : Int
  dstr  : Int
  deriving DecidableEq, Repr

/-- The descriptor in x0, x1, x2 and x4 (R252). -/
def descOf (x : Tab Word) : Desc :=
  let x2 := tget x 2 0
  let x4 := tget x 4 0
  { op := fld x2 48 4, scode := fld x2 52 4, dcode := fld x2 56 4, rows := fld x2 32 16, len := fld x2 0 17,
    src := tget x 0 0, dst := tget x 1 0, sstr := signedOf 32 (fld x4 0 32), dstr := signedOf 32 (fld x4 32 32) }

/-- Bytes of an element of an unscaled type code (R81, R253). -/
def codeBytes (code : Nat) : Nat :=
  if code = 0 || code = 14 then 4 else if code = 1 || code = 2 || code = 13 then 2 else if code = 15 then 12 else 1

/-- An unscaled type of CONVERT (R253). -/
def plainCode (code : Nat) : Bool := decide (code ≤ 4) || (decide (12 ≤ code) && decide (code ≤ 14))
/-- A block-scaled type code (R253). -/
def mxCode (code : Nat) : Bool := decide (5 ≤ code) && decide (code ≤ 10)
/-- The type of a code. -/
def tyOf (code : Nat) : TyCode := (TyCode.ofCode code).getD .a96

/-- The codes an operation accepts (R253). -/
def Desc.codesOk (d : Desc) : Bool :=
  match d.op with
  | 0 => d.scode = 0 && d.dcode = 0
  | 1 => (plainCode d.scode && plainCode d.dcode) || (mxCode d.scode && decide (d.dcode ≤ 2))
  | 2 => decide (d.scode ≤ 2) && mxCode d.dcode
  | _ => d.scode = 15 && d.dcode = 15

/-- LEN must be a multiple of 32 (R253). -/
def Desc.blocks (d : Desc) : Bool := d.op = 2 || (d.op = 1 && mxCode d.scode)

/-- Alignment of the source (R253). -/
def Desc.srcAlign (d : Desc) : Nat :=
  match d.op with
  | 0 => 1
  | 1 => if mxCode d.scode then 16 else codeBytes d.scode
  | 2 => codeBytes d.scode
  | 3 => 4
  | _ => 16

/-- Alignment of the destination (R253). -/
def Desc.dstAlign (d : Desc) : Nat :=
  match d.op with
  | 0 => 1
  | 1 => codeBytes d.dcode
  | 2 | 3 => 16
  | _ => 4

/-- Bytes of a source row (R157, R253). -/
def Desc.srcBytes (d : Desc) : Nat :=
  match d.op with
  | 0 => d.len
  | 1 => if mxCode d.scode then rowStride (tyOf d.scode) d.len else d.len * codeBytes d.scode
  | 2 => d.len * codeBytes d.scode
  | 3 => d.len * 12
  | _ => d.len * 16

/-- The issue-time reason of a descriptor and its x register (R252, R262): reasons in rising order, then registers. `sig`
says whether x3 is read. -/
def Desc.reason (d : Desc) (x : Tab Word) (sig : Bool) : Option (Nat × Nat) :=
  let x2 := tget x 2 0
  let off (w : Word) (n : Nat) : Bool := w.toNat % n != 0
  if d.op > 4 then some (2, 1)
  else if !d.codesOk then some (2, 2)
  else if d.len = 0 || d.len > 65536 || d.rows = 0 || (d.blocks && d.len % 32 != 0) then some (2, 3)
  else if off d.src d.srcAlign then some (0, 4)
  else if off d.dst d.dstAlign then some (1, 4)
  else if d.rows > 1 && (d.sstr % (d.srcAlign : Int) != 0 || d.dstr % (d.dstAlign : Int) != 0) then some (4, 4)
  else if fld x2 60 4 != 0 || fld x2 17 15 != 0 then some (2, 5)
  else if d.op = 2 && d.rows * d.srcBytes > 65536 then some (2, 6)
  else if d.op = 3 && isMesh d.dst then some (1, 7)
  else if sig && off (tget x 3 0) 8 then some (3, 8)
  else if off (tget x 5 0) 64 then some (5, 8)
  else none

/-! ### The follow-on (R178) -/

/-- A follow-on: the instruction, its fields of order, its operation, and the bytes of its operand. -/
structure Follow where
  sig  : Bool
  sc   : Scope
  rel  : Bool
  acq  : Bool
  op   : MatOp
  deriving DecidableEq, Repr

/-- The follow-on that x6 and x7 hold; none when the content is not one (R178). -/
def followOf (x6 x7 : Word) : Option Follow :=
  if fld x6 39 25 != 0 then none
  else
    let rows := fld x6 32 7
    match decodeWord (fld x6 0 32) with
    | .ok (.mwl g sc r q t a f) =>
      if t || a != 0 || fld x6 19 6 != 0 || rows != 0 then none else some ⟨g, sc, r, q, .mwl f x7⟩
    | .ok (.mma g sc r q t b a f n) =>
      if t || a != 0 || b != 0 || rows = 0 || rows > 64 then none else some ⟨g, sc, r, q, .mma f n x7 rows⟩
    | _ => none

/-- Bytes of the operand of a follow-on for a depth of the weight latch. -/
def Follow.bytes (f : Follow) (depth : Nat) : Nat :=
  match f.op with
  | .mwl t _ => tileBytes t
  | .mma t _ _ rows => rows * rowStride t depth
  | _ => 0

/-! ### Issue (R251, R252) -/

/-- COPYFAULT at issue (R252, R262). -/
def State.copyFault (s : State) (x reason : Nat) : State := s.trap 0x15 (word x) (word reason)

/-- The address checks of the first byte of a range (R252): the state to answer when one fails. -/
def State.firstByte (s : State) (va : Word) (n : Need) : Option State :=
  match s.placeOf s.actx va 1 n with
  | .ok _ => none
  | c => some (s.failChk c 4)

/-- CPY and CPYM after the content of the follow-on is known. -/
def State.copyIssue (s : State) (ctx : Nat → Ctx) (sig : Bool) (maj : Nat) (d : GReg) (m : Bool) (w : Nat)
    (f : Option Follow) : State :=
  let x := (List.range 8).foldl (fun t i => tset i (s.th.xv i) t) ([] : Tab Word)
  let desc := descOf x
  match desc.reason x sig with
  | some (r, why) => s.copyFault r why
  | none =>
    match s.firstByte desc.src { r := true } with
    | some s' => s'
    | none =>
      match s.firstByte desc.dst { w := true } with
      | some s' => s'
      | none =>
        match s.sigCheck sig maj with
        | .error s' => s'
        | .ok pa =>
          let rec_ := if tget x 5 0 = 0 then none else s.firstByte (tget x 5 0) { w := true }
          match rec_ with
          | some s' => s'
          | none =>
            let bytes := match f with | some f => f.bytes s.co.depthAfter | none => 0
            let chk := match f with
              | some f => s.matrixRange (tget x 7 0) bytes { r := true } (match f.op with | .mwl .. => true | _ => false)
              | none => .ok {}
            match chk with
            | .error c => s.failChk c 4
            | .ok rng =>
              if s.co.cq.length ≥ 32 then s.park .copyFull
              else
                let id := s.txn + 1
                let cmd : CopyCmd := ⟨id, w, ctx pa, d, m, x, bytes, rng.own, rng.lines, none⟩
                let s := s.newId.modCo fun k => { k with cq := k.cq ++ [cmd] }
                (s.modTh fun t => t.markG d (.pending id .copy desc.dst)).advance 4

/-- CPY (R251). -/
def execCpy (g : Bool) (sc : Scope) (r q : Bool) (d : GReg) (s : State) : Out' :=
  issue { instr := .cpy g sc r q d, dsts := [gdst d] }
    (fun s => s.copyIssue (s.mkCtx q r g sc) g 0x32 d false (wordOf (.cpy g sc r q d)) none) s

/-- CPYM (R178, R251): other content of x6 traps with ILLEGAL. Like the matrix command it carries, it waits for a queued ACCLOAD
(R160; log entry 95). DEDUCED (log entry 138): the x3 of its follow-on is checked as its own, so one not aligned is COPYFAULT reason 8. -/
def execCpym (g : Bool) (sc : Scope) (r q : Bool) (d : GReg) (s : State) : Out' :=
  issue { instr := .cpym g sc r q d, dsts := [gdst d] } (fun s =>
    if s.co.loading then s.park .accload
    else
      match followOf (s.th.xv 6) (s.th.xv 7) with
      | none => s.illegal (wordOf (.cpym g sc r q d)) 4
      | some f => s.copyIssue (s.mkCtx q r g sc) (g || f.sig) 0x33 d true (wordOf (.cpym g sc r q d))
        (some f)) s

/-! ### Conversion of a row (R118, R119, R121, R122, R254 to R259) -/

/-- The value of an element of an unscaled type. -/
def plainVal (code v : Nat) : FVal :=
  match TyCode.fmt (tyOf code) with
  | some f => f.val v
  | none => let i := signedOf (8 * codeBytes code) v; .fin (decide (i < 0)) i.natAbs 0

/-- One element of CONVERT from an unscaled type (R118, R119). -/
def convertPlain (s d v : Nat) : Nat × Flags :=
  match TyCode.fmt (tyOf s) with
  | some f => cvtCode f (tyOf d) .rne v
  | none =>
    match TyCode.fmt (tyOf d) with
    | some t => t.cvt .rne (plainVal s v)
    | none =>
      let (i, fl) := cvtInt (8 * codeBytes d) .rne (plainVal s v)
      (fld (wordI i) 0 (8 * codeBytes d), fl)

/-- One element of CONVERT from an MX type under its scale byte; always narrowing (R112, R254). -/
def convertMx (s d v scale : Nat) : Nat × Flags :=
  let x : FVal := if scale = 255 then .nan else (elemVal (tyOf s) v).scale ((scale : Int) - 127)
  match TyCode.fmt (tyOf d) with
  | some t => t.cvt .rne x
  | none => (0, 0)

/-- A finite magnitude is smaller than another. -/
def magLt (a b : Nat × Int) : Bool :=
  let low := if a.2 < b.2 then a.2 else b.2
  decide (a.1 * 2 ^ (a.2 - low).toNat < b.1 * 2 ^ (b.2 - low).toNat)

/-- amax of a block of source values (R122). -/
def amaxOf (f : Fmt) (l : List FVal) : Nat × Int :=
  l.foldl (fun best v =>
    let m : Nat × Int := match v with
      | .nan => (0, 0)
      | .inf _ => match f.val f.maxf with | .fin _ m e => (m, e) | _ => (0, 0)
      | .fin _ m e => (m, e)
    if magLt best m then m else best) (0, 0)

/-- emax of an MX element type (R122). -/
def emaxOf (t : TyCode) : Int :=
  match t with
  | .mxf4 | .mxf6e2m3 => 2
  | .mxf6e3m2 => 4
  | .mxf8e4m3 => 8
  | .mxf8e5m2 => 15
  | _ => 6

/-- X of a block (R122). -/
def blockX (t : TyCode) (amax : Nat × Int) : Int :=
  if amax.1 = 0 then -127
  else
    let x := (Nat.log2 amax.1 : Int) + amax.2 - emaxOf t
    if x < -127 then -127 else if x > 127 then 127 else x

/-- One element code of the quantiser (R122). -/
def quantEl (t : TyCode) (x : Int) (v : FVal) : Nat × Flags :=
  match t with
  | .mxi8 =>
    let (i, fl) := cvtInt 8 .rne (v.scale (-x))
    if i = -128 then (fld (wordI (-127)) 0 8, fl ||| Flags.saturated) else (fld (wordI i) 0 8, fl)
  | t => (elemFmt t).cvt .rne (v.scale (-x))

/-- A quantised block: its scale byte, element codes and flags (R122). -/
def quantBlock (f : Fmt) (t : TyCode) (codes : List Nat) : Nat × List Nat × Flags :=
  let vals := codes.map f.val
  let x := blockX t (amaxOf f vals)
  let els := vals.map (quantEl t x)
  ((x + (match t with | .mxi8 => 133 | _ => 127)).toNat, els.map (·.1), els.foldl (fun a e => a ||| e.2) 0)

/-- Bytes with a mark for those derived from poison. -/
abbrev Row := List (Byte × Bool)

/-- `n` bytes of a number, all with one mark. -/
def markBytes (n v : Nat) (bad : Bool) : Row := (leBytes n v).map fun b => (b, bad)

/-- One converted source row: the destination bytes and the flags. `src` is the row as a number and `bad` tells of a range
of its bytes whether one of them is poisoned. A poisoned element raises no flag. -/
def convertRow (d : Desc) (src : Nat) (bad : Nat → Nat → Bool) : Row × Flags :=
  let at_ (off n : Nat) : Nat := src / 2 ^ (8 * off) % 2 ^ (8 * n)
  match d.op with
  | 0 => ((List.range d.len).map fun i => (BitVec.ofNat 8 (at_ i 1), bad i 1), 0)
  | 1 =>
    let ds := codeBytes d.dcode
    let els : List (Row × Flags) := (List.range d.len).map fun i =>
      if mxCode d.scode then
        let w := opWidth (tyOf d.scode)
        let so := d.len * w / 8 + i / 32
        if bad so 1 || bad (i * w / 8) ((i * w + w - 1) / 8 - i * w / 8 + 1) then (markBytes ds 0 true, 0)
        else
          let (v, fl) := convertMx d.scode d.dcode (src / 2 ^ (w * i) % 2 ^ w) (at_ so 1)
          (markBytes ds v false, fl)
      else
        let ss := codeBytes d.scode
        if bad (i * ss) ss then (markBytes ds 0 true, 0)
        else
          let (v, fl) := convertPlain d.scode d.dcode (at_ (i * ss) ss)
          (markBytes ds v false, fl)
    (els.flatMap (·.1), els.foldl (fun a e => a ||| e.2) 0)
  | 2 =>
    let ss := codeBytes d.scode
    let t := tyOf d.dcode
    let w := opWidth t
    let f := (TyCode.fmt (tyOf d.scode)).getD .f32
    let blocks : List (Row × Row × Flags) := (List.range (d.len / 32)).map fun b =>
      if bad (b * 32 * ss) (32 * ss) then (markBytes (4 * w) 0 true, markBytes 1 0 true, 0)
      else
        let (scale, els, fl) := quantBlock f t ((List.range 32).map fun j => at_ ((b * 32 + j) * ss) ss)
        let bits := (List.range 32).foldl (fun a j => a + els.getD j 0 * 2 ^ (w * j)) 0
        (markBytes (4 * w) bits false, markBytes 1 scale false, fl)
    let used := rowUsed t d.len
    (blocks.flatMap (·.1) ++ blocks.flatMap (·.2.1) ++ markBytes (rowStride t d.len - used) 0 false,
      blocks.foldl (fun a e => a ||| e.2.2) 0)
  | _ => ((List.range d.len).flatMap fun i => (List.range 12).map fun j =>
      (BitVec.ofNat 8 (at_ (16 * i + j) 1), bad (16 * i + j) 1), 0)

/-- Writes of a row of bytes at an address: one for each 8-byte destination word it touches; a word with a poisoned byte
becomes poison (R259). -/
def rowWrites (row : Nat) : Word → Row → Nat → List (Nat × Word × EngWrite)
  | _, _, 0 => []
  | va, bs, f + 1 =>
    if bs.isEmpty then []
    else
      let n := min bs.length (8 - va.toNat % 8)
      let piece := bs.take n
      let w : Word × EngWrite :=
        if piece.any (·.2) then (word (va.toNat / 8 * 8), .acc .taint)
        else (va, .acc (.store n (BitVec.ofNat 512 (leNat (piece.map (·.1))))))
      (row, w) :: rowWrites row (va + word n) (bs.drop n) f

/-- The writes of one source row that has been read (R254 to R256, R259). -/
def Desc.rowDone (d : Desc) (j : Nat) (words : List (Nat × Bool)) : List (Nat × Word × EngWrite) × Flags :=
  let sva := d.src + wordI (j * d.sstr)
  let dva := d.dst + wordI (j * d.dstr)
  let skip := sva.toNat % 8
  let src := wordsNat words / 2 ^ (8 * skip)
  let bad (off n : Nat) : Bool := (badWords words).any fun w => decide (8 * w < skip + off + n ∧ skip + off < 8 * w + 8)
  if d.op = 3 then
    ((List.range d.len).map fun i =>
      (j, dva + word (16 * i), .add (BitVec.ofNat 96 (src / 2 ^ (96 * i))) (bad (12 * i) 12)), 0)
  else
    let (row, fl) := convertRow d src bad
    (rowWrites j dva row (row.length + 1), fl)

/-! ### Moving (R254, R260) -/

/-- The stop reason of an engine fault (R260). -/
def EFault.reason (f : EFault) (source : Bool) : Nat :=
  match f with
  | .page .. => if source then 16 else 17
  | .reject => 18
  | .ways => 20
  | .gone => 21
  | .busy => 0

/-- The stop reason of a failed answer (R260). -/
def stopReason (r : Result) : Nat :=
  match r with
  | .trap 0x09 _ _ => 19
  | .trap 0x12 _ _ => 21
  | .trap 0x06 _ _ => 17
  | .trap 0x05 _ _ => 16
  | .reject 20 => 20
  | _ => 18

/-- The started head command of a core with its progress. -/
def State.copyHead (s : State) (c : Nat) : Option (CopyCmd × CopyRun) :=
  match (s.coreAt c).cq with
  | m :: _ => m.run.map fun r => (m, r)
  | [] => none

/-- The progress of the head command replaced. -/
def State.setRun (s : State) (c : Nat) (r : CopyRun) : State :=
  s.modCore c fun k => { k with cq := match k.cq with
    | m :: l => { m with run := some r } :: l
    | [] => [] }

/-- A write of the head command has been performed, as poison or not (R259). -/
def CopyRun.wrote (r : CopyRun) (va : Word) (poison : Bool) : CopyRun :=
  let r := { r with writes := r.writes.drop 1, await := none }
  if poison then { r with poisoned := min 65535 (r.poisoned + 1), items := if r.items.length < 5 then r.items ++ [va] else r.items }
  else r

/-- What the next read of a row names: the address, and the bytes of its word that the row holds. -/
def Desc.nextRead (d : Desc) (row i : Nat) : Option (Word × Nat) :=
  let va := d.src + wordI (row * d.sstr)
  let skip := va.toNat % 8
  if i * 8 ≥ skip + d.srcBytes then none
  else if i = 0 then some (va, min (8 - skip) d.srcBytes)
  else some (va + word (8 * i - skip), min 8 (skip + d.srcBytes - 8 * i))

/-- An addition into a slot (R256, R257): at its home slice, in the own L1 for a private page, at the home device for a
remote one. None while the page is held. -/
def State.reduceAt (s : State) (c : Nat) (m : CopyCmd) (r : CopyRun) (p : EPlace) (va : Word) (el : Elem) (bad : Bool)
    (next : Option Word) : State :=
  let asid := m.ctx.asid.toNat
  match p with
  | .mem e off =>
    if e.sync then s.setRun c { r with stop := some (va, 19) }
    else if e.priv then
      let (s, res) := s.engLineWrite c asid e (off / 64) fun lv => addSlot lv (off % 64) el bad
      s.setRun c (r.wrote va (res != .done))
    else
      let id := s.txn + 1
      let q : HomeReq := ⟨⟨s.devnum, c, m.ctx.slot, id⟩, asid, off / 64, false, false, .reduce (off % 64) el bad⟩
      (s.newId.setRun c { r with await := some id }).send (.core c) (lineSlice (off / 64)) (.home q)
  | .podMem d pa sync =>
    if sync then s.setRun c { r with stop := some (va, 19) }
    else
      let id := s.txn + 1
      let msg : PodMsg := ⟨id, d, .request c m.ctx.slot id asid (some (m.id, next)) (.reduce pa el bad), s.time.toNat, false⟩
      { s with txn := id, podOut := s.podOut ++ [msg] }.setRun c { r with await := some id }
  | _ => s.setRun c { r with stop := some (va, 18) }

/-- The destination item that follows the first write of a command: of the same row, or the first of the next (R388). -/
def Desc.nextItem (d : Desc) (r : CopyRun) : Option Word :=
  match r.writes.drop 1 with
  | (_, va, _) :: _ => some va
  | [] => if r.row < d.rows then some (d.dst + wordI (r.row * d.dstr)) else none

/-- Bytes that a write of the engine covers. -/
def EngWrite.size (w : EngWrite) : Nat := match w with | .acc a => Access.bytes a | .add .. => 16

/-- One micro-step of the head command: the next write, the next read, or the end of its data. The answer says whether
another may follow at once. -/
def State.copyStep (s : State) (c : Nat) (m : CopyCmd) (r : CopyRun) : State × Bool :=
  let d := descOf m.x
  let asid := m.ctx.asid.toNat
  let write := !r.writes.isEmpty && !(d.op = 2 && r.row < d.rows)
  let next := (d.nextItem r).map fun va => s.itemAddr c m.ctx va
  match r.writes, write with
  | (_, va, w) :: _, true =>
    match s.engPlace c m.ctx va w.size { w := true } with
    | (s, .error .busy) => (s, false)
    | (s, .error f) => (s.setRun c { r with stop := some (va, f.reason false) }, false)
    | (s, .ok p) =>
      match w with
      | .add el bad =>
        let s := s.reduceAt c m r p va el bad next
        (s, match s.copyHead c with | some (_, r') => r'.await.isNone && r'.stop.isNone | none => false)
      | .acc a =>
        if p.remote then
          let s := s.engAsk c m.ctx p a (some (m.id, next))
          (s.setRun c { r with await := some s.txn }, false)
        else
          match s.engWrite c asid p a with
          | (s, .trap ..) => (s.setRun c { r with stop := some (va, 19) }, false)
          | (s, _) => (s.setRun c (r.wrote va (a == .taint)), true)
  | _, _ =>
    if r.row < d.rows then
      match d.nextRead r.row r.got.length with
      | none =>
        let (ws, fl) := d.rowDone r.row r.got
        (s.setRun c { r with row := r.row + 1, got := [], writes := r.writes ++ ws, flags := r.flags ||| fl }, true)
      | some (va, n) =>
        match s.engPlace c m.ctx va n { r := true } with
        | (s, .error .busy) => (s, false)
        | (s, .error f) => (s.setRun c { r with stop := some (va, f.reason true) }, false)
        | (s, .ok p) =>
          if p.remote then
            let s := s.engAsk c m.ctx p (.load n)
            (s.setRun c { r with await := some s.txn }, false)
          else
            let (s, w) := s.engWord c asid p
            (s.setRun c { r with got := r.got ++ [w] }, true)
    else (s.setRun c { r with moved := true }, false)

/-- Micro-steps of the head command until it waits, stops, or its data has moved. -/
def State.copyMove (s : State) (c : Nat) : Nat → State
  | 0 => s
  | f + 1 =>
    match s.copyHead c with
    | none => s
    | some (m, r) =>
      if r.await.isSome || r.stop.isSome || r.moved then s
      else
        match s.copyStep c m r with
        | (s, true) => State.copyMove s c f
        | (s, false) => s

/-- The micro-steps one COPY_START performs at most: more than the longest row takes. -/
def moveFuel : Nat := 200000

/-- Queued commands of a launch that is being pre-empted do not start while their thread is live: its image records them
(R389). -/
def State.copyHeld (s : State) (c : Nat) (m : CopyCmd) : Bool :=
  match m.ctx.launch with
  | none => false
  | some l =>
    let th := s.thread c m.ctx.slot
    (match tget? s.launches l with | some e => e.save.isSome | none => false) && th.live && th.launch == some l

/-- The queue with the first command that may start at its head: those that a pre-emption holds let the others pass (R261,
R389). -/
def State.copyNext (s : State) (c : Nat) : State :=
  let q := (s.coreAt c).cq
  let waits := match q with
    | m :: _ => m.run.isNone && s.copyHeld c m
    | [] => false
  match if waits then q.findIdx? fun m => !s.copyHeld c m else none with
  | some i => s.modCore c fun k => { k with cq := (q[i]?).toList ++ q.eraseIdx i }
  | none => s

/-- A write of a finished command could not be made, which only one without a status register and record leaves to chance: the command
stops there, and its thread takes the deferred COPYFAULT (R260; log entry 19). -/
def State.lateFail (s : State) (c : Nat) (x : LateWrite) (why : Nat) : State :=
  (s.modCore c fun k => { k with lateq := k.lateq.filter fun y => y.cmd != x.cmd }).defer c x.ctx.slot
    ⟨0x15, x.va, word (2 ^ 63 + why)⟩

/-- Where a late write is made: the place it has kept, or the one its address gives now. -/
def State.latePlace (s : State) (c : Nat) (x : LateWrite) : State × Except EFault EPlace :=
  match x.place with
  | some (.own off) => (s, .ok (.spm off))
  | some (.glob e pa) => s.engLocal c x.ctx.asid.toNat e (paOff pa) true
  | _ => s.engPlace c x.ctx x.va x.w.size { w := true }

/-- The late writes of a core, one after the other (R214): each is made, or sent to its core or device and awaited; none while a line
is held. -/
def State.lateMove (s : State) (c : Nat) : Nat → State
  | 0 => s
  | f + 1 =>
    match (s.coreAt c).lateq with
    | [] => s
    | x :: rest =>
      let set (l : List LateWrite) (s : State) : State := s.modCore c fun k => { k with lateq := l }
      if x.id.isSome then s
      else
        match x.w, s.latePlace c x with
        | _, (s, .error .busy) => s
        | _, (s, .error e) => State.lateMove (s.lateFail c x (e.reason false)) c f
        | .add .., (s, .ok _) => State.lateMove (set rest s) c f
        | .acc a, (s, .ok p) =>
          if p.remote then
            let next := (rest.find? fun y => y.cmd == x.cmd).map fun y => s.itemAddr c y.ctx y.va
            let s := s.engAsk c x.ctx p a (some (x.cmd, next))
            set ({ x with id := some s.txn } :: rest) s
          else
            match s.engWrite c x.ctx.asid.toNat p a with
            | (s, .trap ..) => State.lateMove (s.lateFail c x 19) c f
            | (s, _) => State.lateMove (set rest s) c f

/-- COPY_START (R213, R251, R254): the engine makes the writes still on their way, starts the head of the queue when its ACQ
holds, and moves its data by at most so many items. No command starts in the stop bath of an SPCFG (R243), and at a fenced core the
fence moves what is left of one (R379). -/
def execCopyStart (go : CopyGo) (s : State) : Out' :=
  let c := go.core
  let steps := go.steps
  if !coreOk c then .fault .noSuchPart
  else if (s.coreAt c).fenced then .next s
  else
    let s := s.lateMove c (min steps moveFuel)
    if (s.coreAt c).lateq.any fun x => x.id.isNone then .next s
    else
      let s := s.copyNext c
      match (s.coreAt c).cq with
      | [] => .next s
      | m :: _ =>
        match m.run with
        | some _ => .next (s.copyMove c (min steps moveFuel))
        | none =>
          if (s.coreAt c).spcfg.isSome || (m.ctx.acq && !s.beforeDone c m.ctx) || s.copyHeld c m then .next s
          else .next ((s.setRun c {}).copyMove c (min steps moveFuel))

/-! ### The end of a command (R179, R214, R258, R260) -/

/-- ROWSDONE: rows whose destination was wholly written (R258). -/
def rowsDone (d : Desc) (r : CopyRun) : Nat :=
  match r.writes with
  | (j, _) :: _ => j
  | [] => if d.op = 2 && r.row < d.rows then 0 else r.row

/-- The status word (R258). -/
def statusWord (d : Desc) (r : CopyRun) : Word :=
  let result := if r.stop.isSome then 2 else if r.poisoned = 0 then 0 else 1
  word (rowsDone d r * 2 ^ 32 + r.poisoned * 2 ^ 16 + b2n r.recFail.isSome * 2 ^ 13 + r.flags.toNat * 2 ^ 8
    + r.follow.getD 0 * 2 ^ 4 + result)

/-- The words of the completion record (R258). -/
def recordWord (d : Desc) (r : CopyRun) (i : Nat) : Word :=
  match i with
  | 0 => statusWord d r
  | 1 => match r.stop with | some (va, _) => va | none => 0
  | 2 => match r.stop with | some (_, why) => word why | none => 0
  | i => r.items.getD (i - 3) 0

/-- The record is written word by word (R258); a word on another device waits for its answer. -/
def State.copyRecord (s : State) (c : Nat) : Nat → State
  | 0 => s
  | f + 1 =>
    match s.copyHead c with
    | none => s
    | some (m, r) =>
      let va := tget m.x 5 0 + word (8 * r.record)
      if tget m.x 5 0 = 0 || r.record ≥ 8 || r.await.isSome || r.recFail.isSome then s
      else
        let a : Access := .store 8 ((recordWord (descOf m.x) r r.record).setWidth 512)
        match s.engPlace c m.ctx va 8 { w := true } with
        | (s, .error .busy) => s
        | (s, .error e) => s.setRun c { r with recFail := some (va, e.reason false) }
        | (s, .ok p) =>
          if p.remote then
            let s := s.engAsk c m.ctx p a
            s.setRun c { r with await := some s.txn }
          else
            match s.engWrite c m.ctx.asid.toNat p a with
            | (s, .trap ..) => s.setRun c { r with recFail := some (va, 19) }
            | (s, _) => State.copyRecord (s.setRun c { r with record := r.record + 1 }) c f

/-- The follow-on of a finished CPYM enters the matrix queue (R179): FOLLOW 1, or 3 when the latch's depth has grown. None
while the queue is full. -/
def State.followOn (s : State) (c : Nat) (m : CopyCmd) : Option (State × Nat) :=
  match followOf (tget m.x 6 0) (tget m.x 7 0) with
  | none => some (s, 0)
  | some f =>
    let k := s.coreAt c
    if k.mq.length ≥ 16 then none
    else if f.bytes k.depthAfter > m.follow then some (s, 3)
    else
      let ctx := { m.ctx with acq := f.acq, rel := f.rel, sig := f.sig, sc := f.sc }
      let id := s.txn + 1
      some (s.newId.modCore c fun k => { k with mq := k.mq ++
        [⟨id, fld (tget m.x 6 0) 0 32, ctx, f.op, m.own, m.lines, [], false, []⟩] }, 1)

/-- The command leaves the queue: its SIG, its status register, and the deferred COPYFAULT of a command without a status
register and record, or whose record failed without one (R214, R258, R260). -/
def State.copyEnd (s : State) (c : Nat) (m : CopyCmd) (r : CopyRun) : State :=
  let d := descOf m.x
  let s := s.modCore c fun k => { k with cq := k.cq.drop 1 }
  let s := s.signal c (if m.m then 0x33 else 0x32) m.id m.ctx
  let slot := m.ctx.slot
  let s := s.modThread c slot fun t =>
    match t.gs m.dst with
    | .pending id .copy _ => if id = m.id then t.fillG m.dst (statusWord d r) else t
    | _ => t
  let fault (va : Word) (why : Nat) (s : State) : State := s.defer c slot ⟨0x15, va, word (2 ^ 63 + why)⟩
  if m.dst = 0 then
    match r.stop, r.recFail with
    | some (va, why), none => if tget m.x 5 0 = 0 then fault va why s else s
    | _, some (va, why) => fault va why s
    | none, none => s
  else s

/-- The end of a command whose data has moved or that has stopped: the follow-on, the record, then the rest. -/
def State.copyFinish (s : State) (c : Nat) (m : CopyCmd) (r : CopyRun) : State :=
  if r.await.isSome then s
  else
    match r.follow with
    | none =>
      if !m.m then s.setRun c { r with follow := some 0 }
      else if r.stop.isSome then s.setRun c { r with follow := some 2 }
      else
        match s.followOn c m with
        | none => s
        | some (s, n) => s.setRun c { r with follow := some n }
    | some _ =>
      let s := s.copyRecord c 9
      match s.copyHead c with
      | none => s
      | some (m, r) =>
        if tget m.x 5 0 = 0 || r.record ≥ 8 || r.recFail.isSome then s.copyEnd c m r else s

/-- Two stages of the end at most in one step: the follow-on's, then the rest. -/
def State.copyEnding (s : State) (c : Nat) : State :=
  match s.copyHead c with
  | none => s
  | some (m, r) =>
    let s := s.copyFinish c m r
    if r.follow.isSome then s
    else
      match s.copyHead c with
      | some (m, r) => if r.follow.isSome then s.copyFinish c m r else s
      | none => s

/-- Where a write of a command will be made whatever happens: the own scratchpad, but for ways that an SPCFG is to take away (R243), or
local memory outside SYNC pages under a
translation that the TLB holds. -/
def State.landing (s : State) (c : Nat) (x : Ctx) (va : Word) (n : Nat) : Option Place :=
  match s.placeOf (x.actx c) va n { w := true } with
  | .ok (.own off) => if (s.coreAt c).leaving off n then none else some (.own off)
  | .ok (.glob e pa) => if paDev pa == s.devnum && !e.sync then some (.glob e pa) else none
  | _ => none

/-- The writes that the head command still has to make, when it may complete before them (R214): one without REL, record, follow-on or
addition whose last read has its value, and none of whose writes can fail or becomes poison, unless it has no status register either
(log entry 19). -/
def State.lateWrites (s : State) (c : Nat) (m : CopyCmd) (r : CopyRun) : Option (List LateWrite) :=
  let d := descOf m.x
  if m.ctx.rel || m.m || d.op = 3 || tget m.x 5 0 != 0 || r.stop.isSome || r.await.isSome || r.row < d.rows then none
  else
    let ws := r.writes.map fun (_, va, w) => (⟨m.ctx, m.id, va, w, s.landing c m.ctx va w.size, none⟩ : LateWrite)
    if (ws.all fun x => x.place.isSome && x.w != .acc .taint) || m.dst = 0 then some ws else none

/-- COPY_COMPLETE (R258): the head command whose last byte has landed, or that need not wait for its writes (R214). A fenced core's
never completes (R379). -/
def execCopyComplete (c : Nat) (s : State) : Out' :=
  if !coreOk c then .fault .noSuchPart
  else
    match if (s.coreAt c).fenced then none else s.copyHead c with
    | some (m, r) =>
      if r.moved then .next (s.copyEnding c)
      else
        match s.lateWrites c m r with
        | some ws => .next ((s.modCore c fun k => { k with lateq := k.lateq ++ ws }).copyEnd c m { r with moved := true, follow := some 0 })
        | none => .next s
    | none => .next s

/-- COPY_STOP (R260): the head command that a fault has stopped. -/
def execCopyStop (c : Nat) (s : State) : Out' :=
  if !coreOk c then .fault .noSuchPart
  else
    match if (s.coreAt c).fenced then none else s.copyHead c with
    | some (_, r) => if r.stop.isSome then .next (s.copyEnding c) else .next s
    | none => .next s

/-! ### Answers to engine requests -/

/-- The answer to the request that the head copy command of a core awaits (R256, R259, R260). -/
def State.copyAnswer (s : State) (c : Nat) (m : CopyCmd) (r : CopyRun) (res : Result) : State :=
  let d := descOf m.x
  if r.moved || r.stop.isSome then
    let va := tget m.x 5 0 + word (8 * r.record)
    match res with
    | .done | .value _ | .line _ | .poison _ | .pushDone _ => s.setRun c { r with await := none, record := r.record + 1 }
    | e => s.setRun c { r with await := none, recFail := some (va, stopReason e) }
  else
    match r.writes, decide (d.op = 2 ∧ r.row < d.rows) with
    | (_, va, w) :: _, false =>
      match res with
      | .done | .value _ | .line _ | .pushDone _ => s.setRun c (r.wrote va (w == .acc .taint))
      | .poison _ => s.setRun c (r.wrote va true)
      | e => s.setRun c { r with await := none, stop := some (va, stopReason e) }
    | _, _ =>
      match d.nextRead r.row r.got.length with
      | none => s.setRun c { r with await := none }
      | some (va, _) =>
        let skip := if r.got.isEmpty then va.toNat % 8 else 0
        match res with
        | .value v => s.setRun c { r with await := none, got := r.got ++ [(v.toNat * 2 ^ (8 * skip) % 2 ^ 64, false)] }
        | .poison _ => s.setRun c { r with await := none, got := r.got ++ [(0, true)] }
        | .done | .pushDone _ => s.setRun c { r with await := none, got := r.got ++ [(0, false)] }
        | e => s.setRun c { r with await := none, stop := some (va, stopReason e) }

/-- The answer to a request for an operand word of the head matrix entry (R166, R181). -/
def State.matrixAnswer (s : State) (c id : Nat) (res : Result) : Option State :=
  match (s.coreAt c).mq with
  | [] => none
  | m :: rest =>
    match tget? m.got id with
    | none => none
    | some (i, _) =>
      let v : Nat × Bool := match res with
        | .value v => (v.toNat % 2 ^ 64, false)
        | _ => (0, true)
      some (s.modCore c fun k => { k with mq := { m with got := tset id (i, some v) m.got } :: rest })

/-- The answer to a late write of the core (R214, R260). -/
def State.lateAnswer (s : State) (c id : Nat) (res : Result) : Option State :=
  ((s.coreAt c).lateq.find? fun x => x.id == some id).map fun x =>
    let s := s.modCore c fun k => { k with lateq := k.lateq.filter fun y => y.id != some id }
    match res with
    | .done | .value _ | .line _ | .poison _ | .pushDone _ => s
    | e => s.lateFail c x (stopReason e)

/-- An answer that an engine of the core awaits: the copy engine's, a late write's, or an operand word of the head matrix entry.
None when no engine does. -/
def State.engAnswer (s : State) (c id : Nat) (res : Result) : Option State :=
  let other := (s.lateAnswer c id res).or (s.matrixAnswer c id res)
  match s.copyHead c with
  | some (m, r) => if r.await = some id then some (s.copyAnswer c m r res) else other
  | none => other

end Sys2Proof.Machine
end

