-- ==== Sys2Proof/Machine/Launches.lean ====
section
/-! DEFINITION. The launch table (R331 to R333), the division of tiles (R337), notices (R326, R327), the completion of a
launch (R343), and the release of a timed entry (R345, R346). -/

namespace Sys2Proof.Machine

open Sys2Proof

/-! ### Frames and notices to hosts (R326, R327) -/

/-- A frame leaves the host port. -/
def State.sendHost (s : State) (o : HostOut) : State := { s with hostOut := s.hostOut ++ [o] }

/-- The address that 0xC3, 0xC4 and 0xC5 notices go to (R329). -/
def State.noticeAddr (s : State) : Nat := s.mgmt.notify.getD s.mgmt.lastSrc

/-- Send a notice and keep it until it is acknowledged. -/
def State.notify (s : State) (dest_ typ frame report : Nat) (payload : List Byte) : State :=
  let o : HostOut := ⟨dest_, typ, 0, 0, 0, payload⟩
  { s with txn := s.txn + 1, hostOut := s.hostOut ++ [o], notices := s.notices ++ [⟨s.txn + 1, typ, frame, report, o⟩] }

/-! ### The launch record (R331) -/

/-- A word of a launch record. -/
def recWord (ws : List Word) (i : Nat) : Word := ws.getD i 0
/-- ASID of a record. -/
def recAsid (ws : List Word) : Nat := fld (recWord ws 1) 0 16
/-- PART of a record, as its code. -/
def recPart (ws : List Word) : Nat := fld (recWord ws 1) 16 2
/-- Threads per core minus 1. -/
def recTpc (ws : List Word) : Nat := fld (recWord ws 1) 18 4
/-- GROUP of a record. -/
def recGroup (ws : List Word) : Nat := fld (recWord ws 1) 22 8
/-- BAL of a record. -/
def recBal (ws : List Word) : Bool := bitOf (recWord ws 1) 30
/-- T: the number of tiles (R337). -/
def recTiles (ws : List Word) : Nat := fld (recWord ws 2) 0 32 * fld (recWord ws 2) 32 32 * fld (recWord ws 3) 0 32

/-- The partition a code names; 3 names none. -/
def partOf (n : Nat) : Option Part := Part.ofCode n

/-- The reason a record is rejected for by itself: 1 to 6 of R332 in their order. -/
def State.recordShape (s : State) (ws : List Word) : Option Nat :=
  if bitOf (recWord ws 1) 31 || fld (recWord ws 3) 32 32 != 0 || recWord ws 7 != 0 || recPart ws == 3 then some 1
  else if recTpc ws + 1 > (match partOf (recPart ws) with | some p => Part.slots p | none => 0) then some 2
  else if bitOf (recWord ws 0) 0 then some 3
  else if recTiles ws == 0 || recTiles ws ≥ 2 ^ 63 then some 4
  else if (s.members (recGroup ws)).isEmpty then some 5
  else if (recWord ws 5).toNat % 8 != 0 then some 6
  else none

/-- The reason a record read under an ASID is rejected for (R332). -/
def State.recordReason (s : State) (ws : List Word) (asid : Nat) : Option Nat :=
  match s.recordShape ws with
  | some r => some r
  | none =>
    if (tget? s.mgmt.ptbase (recAsid ws)).isNone then some 7
    else if s.mgmt.reserved.contains (recAsid ws) then some 9
    else if recAsid ws != asid then some 10
    else none

/-- The words of a record at a local physical address as an ASID reads them; none for reason 8 (R329, R332), and for a record in the
carve-out, which the management core does not read (R264). -/
def State.readRecord (s : State) (asid addr : Nat) : Option (List Word) :=
  if addr % 64 != 0 || addr / 2 ^ 39 != s.devnum || meetsCarve (paOff addr) 64 then none
  else
    let lv := s.peekLine asid (paOff addr / 64)
    if lv.bad != 0 then none else some ((List.range 8).map (lineWord lv.data))

/-- The record read of a LAUNCH, a RESUME or a timed release under an ASID (R372): its line is recalled from another. -/
def State.recordRead (s : State) (asid addr : Nat) : State :=
  if addr % 64 != 0 || addr / 2 ^ 39 != s.devnum || !s.underQuiet asid (paOff addr) 64 then s else s.readUnder asid (paOff addr) 64

/-! ### Ranges (R337) -/

/-- The shares of T tiles among frequencies: floors, then one more tile for the largest remainders, ties to the lower
place. -/
def shares (t : Nat) (fs : List Nat) : List Nat :=
  let total := fs.foldl (· + ·) 0
  let rem (i : Nat) : Nat := t * fs.getD i 0 % total
  let floors := fs.map fun f => t * f / total
  let left := t - floors.foldl (· + ·) 0
  (List.range fs.length).map fun i =>
    let ahead := ((List.range fs.length).filter fun j => rem j > rem i || (rem j == rem i && decide (j < i))).length
    floors.getD i 0 + (if ahead < left then 1 else 0)

/-- Contiguous ranges of the participants from a first index. -/
def rangesFrom : Nat → List Nat → List Nat → Tab Range
  | n, c :: cs, k :: ks => (c, ⟨n, k⟩) :: rangesFrom (n + k) cs ks
  | _, _, _ => []

/-- The ranges of a launch's participants. -/
def State.divide (s : State) (tiles : Nat) (parts : List Nat) : Tab Range :=
  rangesFrom 0 parts (shares tiles (parts.map s.tested))

/-! ### The launch table (R333) -/

/-- A free launch number: a number is used again only after the notice of its last launch is acknowledged (R343). -/
def State.freeLaunch (s : State) : Option Nat :=
  (List.range 64).find? fun l => (tget? s.launches l).isNone && !(s.notices.any fun n => n.typ == 0xC1 && n.report == l)

/-- An admitted record takes a free entry. -/
def State.newLaunch (s : State) (l : Nat) (ws : List Word) (src : Nat) (timed : Option Nat) (firmware : Bool) : State :=
  let parts := s.members (recGroup ws)
  let e : LaunchEnt := { words := ws, parts := parts, ranges := s.divide (recTiles ws) parts, src := src, timed := timed,
                         firmware := firmware }
  { s with launches := tset l e s.launches }

/-! ### Timed entries (R344 to R346) -/

/-- A dropped release (R345, R346). -/
def TtEnt.miss (t : TtEnt) : TtEnt := { t with missed := min 65535 (t.missed + 1) }

/-- A record rejected at a release: MISSED rises, and the notice is sent once (R345). -/
def State.timedReject (s : State) (j time reason : Nat) (t : TtEnt) : State :=
  ({ s with tt := tset j (TtEnt.miss t) s.tt }).sendHost
    ⟨t.src, 0xC2, 0, 0, 0, leBytes 8 j ++ leBytes 8 time ++ leBytes 8 reason⟩

/-- A release admits the record of its entry (R345). Without a free launch entry the release is dropped. -/
def State.admitTimed (s : State) (j time : Nat) : State :=
  let t := { tget s.tt j {} with waiting := none }
  let s := ({ s with tt := tset j t s.tt } : State).recordRead t.asid t.record
  match s.readRecord t.asid t.record with
  | none => s.timedReject j time 8 t
  | some ws =>
    match s.recordReason ws t.asid, s.freeLaunch with
    | some r, _ => s.timedReject j time r t
    | none, none => { s with tt := tset j (TtEnt.miss t) s.tt }
    | none, some l =>
      ({ s with tt := tset j { t with launch := some l } s.tt }).newLaunch l ws t.src (some j) false

/-! ### Completion (R343) -/

/-- Bind records that are bound to a launch. -/
def State.bindsOf (s : State) (l : Nat) : List (Nat × BindRec) := s.binds.filter fun b => b.2.valid && b.2.launch == l

/-- The entries of a completion notice: STATE and CAUSE of each participant's last record to end, 0xFFFF for another core. -/
def LaunchEnt.entries (e : LaunchEnt) : List Byte :=
  (List.range 768).flatMap fun c =>
    leBytes 2 (if e.parts.contains c then
      (match tget? e.endState c with | some (st, cause) => st * 256 + cause | none => 0) else 0xFFFF)

/-- A launch completes: the notice is sent, and the entry, its bind records and its ranges are freed. A release that waits
for it is admitted, and keeps its release time (R343, R345, R346). -/
def State.completeLaunch (s : State) (l : Nat) (e : LaunchEnt) (result : Nat) (list : List Byte) : State :=
  let payload := leBytes 1 l ++ leBytes 1 result ++ e.entries ++ list
  let src := match e.timed with | some j => (tget s.tt j {}).src | none => e.src
  let s := if e.firmware then s else s.notify src 0xC1 0 l payload
  let s := { s with launches := tdel l s.launches, binds := s.binds.filter fun b => !(b.2.valid && b.2.launch == l) }
  match e.timed with
  | none => s
  | some j =>
    let t := tget s.tt j {}
    if t.launch == some l then
      let s := { s with tt := tset j { t with launch := none } s.tt }
      match t.waiting with
      | some n => s.admitTimed j n
      | none => s
    else s

/-- A launch completes when every participant has ended; one that is being pre-empted completes when its images are
written (R389). -/
def State.launchCheck (s : State) (l : Nat) : State :=
  match tget? s.launches l with
  | none => s
  | some e =>
    if e.save.isNone && (e.parts.all fun c => e.closed.contains c) then
      s.completeLaunch l e (if (s.bindsOf l).any fun b => b.2.state == 3 then 1 else 0) []
    else s

end Sys2Proof.Machine
end

