-- ==== Sys2Proof/Machine/Messages.lean ====
section
/-! DEFINITION. Messages that reach a core: replies, rejections, fills, deliveries and remote accesses (R54, R57, R194, R210,
R215, R232, R233, R250, R300), deferred traps (R232), page walks and reclassification (R229, R363, R366), and the end of a
TLBINV (R361). An event finds the oldest message of its channel; where that is not the message the event names, nothing
happens in the step. -/

namespace Sys2Proof.Machine

open Sys2Proof

/-! ### Channels -/

/-- The oldest message from one agent to another, and what is left. -/
def popFrom (src dst : Node) : List Msg → Option (Body × List Msg)
  | [] => none
  | m :: r =>
    if m.src = src ∧ m.dst = dst then some (m.body, r)
    else (popFrom src dst r).map fun x => (x.1, m :: x.2)

/-- A message of a source may be taken at a destination. The requests of another device are performed one after another in the
order in which they came, wherever they go (R196, R347). -/
def State.portTurn (s : State) (src dst : Node) : Bool :=
  match src with
  | .port dev =>
    (match s.net.find? fun m => m.src == src with | some m => m.dst == dst | none => true)
      && s.dir.all fun d => (d.2.queue.all fun q => q.who.dev != dev) && (d.2.busy.all fun b => b.req.who.dev != dev)
  | _ => true

/-- The oldest message of a channel, when an event can take it. -/
def State.pop {α : Type} (s : State) (src dst : Node) (sel : Body → Option α) : Option (α × State) :=
  if !s.portTurn src dst then none
  else
    match popFrom src dst s.net with
    | none => none
    | some (b, rest) => (sel b).map fun a => (a, { s with net := rest })

/-- The lines that a request from a core to a slice touches; none of another message. -/
def State.requestLines (s : State) : Body → Option (List Nat)
  | .home r => some [r.line]
  | .typed r => some (s.typedLines r.asid r.k r.pa r.b r.lockPa)
  | _ => none

/-- Two requests of one core may be performed at a slice in either order, for they touch no line in common: nothing on the way to a
slice keeps the order of a core's requests for different lines (R26, R201; R21 and R221 speak of what a slice sends). DESIGN CHOICE
(log entry 133): no other message passes or is passed. -/
def State.mayPass (s : State) (x y : Body) : Bool :=
  match s.requestLines x, s.requestLines y with
  | some a, some b => a.all fun l => !b.contains l
  | _, _ => false

/-- Of the messages of a core to a slice, message `n + 1` passes message `n`, where it may. -/
def State.overtake (s : State) (c sl n : Nat) : State :=
  let own := (List.range s.net.length).filter fun i => s.net[i]?.any fun m => m.src == .core c && m.dst == .slice sl
  match own[n]?, own[n + 1]? with
  | some i, some j =>
    match s.net[i]?, s.net[j]? with
    | some x, some y => if s.mayPass x.body y.body then { s with net := (s.net.set i y).set j x } else s
    | _, _ => s
  | _, _ => s

/-- An event that takes the oldest message of a channel. -/
def onMsg {α : Type} (src dst : Node) (sel : Body → Option α) (f : α → State → State) (s : State) : Out' :=
  if !chanOk src dst then .fault .noSuchPart
  else
    match s.pop src dst sel with
    | some (a, s') => .next (f a s')
    | none => .next s

/-- The number of an agent among its kind. -/
def Node.num : Node → Nat
  | .core n | .slice n | .port n => n
  | .dispatch | .mgmt => 0

/-! ### Deferred traps (R232, R399) -/

/-- Whether a live thread may take a deferred trap now (R232, R352). -/
def Thread.takesDeferred (t : Thread) : Bool :=
  t.live && !t.held && t.owed.isNone && t.nextDeferred.isSome && !t.awaitsReply

/-- A thread that waits in STRM.LEAD, STRM.JOIN or REPART gives that up (R307, R310). -/
def State.leaveForming (s : State) (c t : Nat) : State :=
  match (s.thread c t).life with
  | .parked .lead => s.dropForming c
  | .parked .join => s.leaveJoin c
  | .parked .drain => s.modCore c fun k => if (k.repart.map (·.1)) == some t then { k with repart := none } else k
  | _ => s

/-- A deferred trap wakes a parked thread (R232). An instruction that has issued stays as it is, and the thread waits for it again
when it returns to it: its request is not sent a second time (R2; log entry 8). -/
def Thread.setAside (t : Thread) : Thread :=
  { t with wait := none, walk := none, aside := t.aside ++ t.wait.toList.map fun w => ⟨w, t.pc, t.intrap, []⟩ }

/-- The deferred trap that is due is taken: what the thread waited for is set aside, and TRAPPC is the address of its next
instruction, or of the one at which it was parked. -/
def State.takeDeferred (s : State) (c t : Nat) : State :=
  let th := s.thread c t
  match th.nextDeferred.bind fun i => (th.deferred[i]?).map fun d => (i, d) with
  | none => s
  | some (i, d) =>
    let s' := ((s.leaveForming c t).setThread c t
      { th.setAside.stepTraps with deferred := th.deferred.eraseIdx i }).takeTrap c t d.cause d.v1 d.v2 th.pc false
    if th.awaitsEnd then s'.unstep c t else s'

/-- DEFERRED_TRAP (R232). In the stop bath of an SPCFG no thread takes one (R243), and a streaming thread takes it at its next
step (R319). -/
def execDeferredTrap (c t : Nat) (s : State) : Out' :=
  if !(coreOk c && slotOk t) then .fault .noSuchPart
  else if (s.thread c t).takesDeferred && (s.coreAt c).spcfg.isNone && !s.streams c t then .next (s.takeDeferred c t)
  else .next s

/-! ### Replies to a thread -/

/-- A destination still pending under a request receives its value (R54, R57). -/
def Thread.fillPending (t : Thread) (dst : Dest) (id : Nat) (v : Line) : Thread :=
  match dst with
  | .g d size signed =>
    match t.gs d with
    | .pending i _ _ => if i = id then t.fillG d (extend v.toNat size signed) else t
    | _ => t
  | .v d =>
    match t.vs d with
    | .pending i _ _ => if i = id then t.fillV d v else t
    | _ => t
  | .xregs => t.deliver .xregs v
  | _ => t

/-- A destination still pending under a request is left empty, with no producer pending (R232, R268, R378). -/
def Thread.leaveEmpty (t : Thread) (dst : Dest) (id : Nat) : Thread :=
  match dst with
  | .g d _ _ =>
    match t.gs d with
    | .pending i _ _ => if i = id then t.markG d .empty else t
    | _ => t
  | .v d =>
    match t.vs d with
    | .pending i _ _ => if i = id then t.markV d .empty else t
    | _ => t
  | _ => t

/-- Post a deferred trap to a thread. -/
def Thread.post (t : Thread) (d : Deferred) : Thread := { t with deferred := t.deferred ++ [d] }

/-- The deferred MESHFAULT of a rejected access (R232). -/
def rejectDeferred (va : Word) (reason : Nat) : Deferred := ⟨0x08, va, word (2 ^ 63 + reason)⟩
/-- The deferred UNCORR of a poisoned value (R378). -/
def poisonDeferred (va : Word) (maj : Nat) : Deferred := ⟨0x12, va, word (2 ^ 63 + maj * 2 ^ 8 + 1)⟩

/-- An element of a VLDS or VGATH has arrived, was rejected, or was poisoned; the last one fills the register, or leaves it
empty (R232, R235, R378). -/
def Thread.gathered (t : Thread) (gid i : Nat) (va : Word) (r : Result) : Thread :=
  match t.gathers.find? fun g => g.id == gid with
  | none => t
  | some g =>
    let g := { g with left := g.left - 1 }
    let (t, g) : Thread × Gather := match r with
      | .value v => (t, { g with got := tset i (v.setWidth 64) g.got })
      | .reject n => (t.post (rejectDeferred va n), { g with rejected := true })
      | .poison off =>
        let a := poisonAddr va off
        (t, { g with bad := some (match g.bad with | some b => if a.toNat < b.toNat then a else b | none => a) })
      | _ => (t, g)
    let t := { t with gathers := t.gathers.map fun h => if h.id = gid then g else h }
    if g.left ≠ 0 then t
    else
      let t := { t with gathers := t.gathers.filter fun h => h.id != gid }
      match g.bad, g.rejected with
      | some a, _ => (t.leaveEmpty (.v g.d) gid).post (poisonDeferred a g.maj)
      | none, true => t.leaveEmpty (.v g.d) gid
      | none, false => t.fillPending (.v g.d) gid (lanesOf 64 8 fun i => (tget g.got i 0).toNat)

/-- The outcome of one access of a store to a SYNC page (R233): the thread goes on when every outcome is known, or traps
for the lowest word that refused it. -/
def State.storeOutcome (s : State) (c t : Nat) (w : Wait) (bad : Option (Nat × Nat × Word × Word)) : State :=
  let worse := match w.bad, bad with
    | some a, some b => if b.1 < a.1 then some b else some a
    | none, b => b
    | a, none => a
  if w.left > 1 then s.modThread c t fun th => { th with wait := some { w with left := w.left - 1, bad := worse } }
  else
    match worse with
    | none => s.modThread c t fun th => th.finish w.len
    | some (_, cause, v1, v2) =>
      (s.modThread c t Thread.giveUp).trapAt c t cause v1 v2 w.len

/-- The place of an access in its instruction. -/
def Out.place (o : Out) : Nat := match o.dst with | .elem _ i => i | _ => 0

/-- An outcome of a word of a GRPSET map (R342). -/
def State.mapWord (s : State) (c t : Nat) (w : Wait) (i : Nat) (va : Word) (r : Result) : State :=
  let w := { w.noteMap i va r with left := w.left - 1 }
  let s := s.modThread c t fun th => { th with wait := some w }
  if w.left = 0 then { ({ s with cur := (c, t) } : State).mapRead with cur := s.cur } else s

/-- A value arrives for an access of a thread (R54). -/
def State.valueIn (s : State) (c t : Nat) (o : Out) (v : Line) : State :=
  let th := s.thread c t
  match o.dst with
  | .elem g i => s.modThread c t fun th => th.gathered g i o.va (.value v)
  | .map i => match th.wait with | some w => s.mapWord c t w i o.va (.value v) | none => s
  | dst =>
    match th.wait with
    | some w =>
      if w.owns o then s.modThread c t fun th => (th.fillPending dst o.id v).finish w.len
      else s.modThread c t fun th => if dst = .xregs then th else th.fillPending dst o.id v
    | none => s.modThread c t fun th => if dst = .xregs then th else th.fillPending dst o.id v

/-- A line arrives for the fetch buffer of a thread that still waits for it (R43, R300). -/
def State.fetchIn (s : State) (c t : Nat) (o : Out) (lv : LineVal) : State :=
  s.modThread c t fun th =>
    if th.life = .parked (.fetch o.id) then
      { th with fb := some ⟨word (o.va.toNat / 64 * 64), lv.data, lv.bad⟩, life := .runnable }
    else th

/-- An access without a value is performed (R210, R233). -/
def State.doneIn (s : State) (c t : Nat) (o : Out) : State :=
  match (s.thread c t).wait with
  | some w =>
    if !w.owns o then s
    else if w.kind = .store then s.storeOutcome c t w none
    else s.modThread c t fun th => th.finish w.len
  | none => s

/-- An access is rejected where it would be performed (R232). -/
def State.rejectIn (s : State) (c t : Nat) (o : Out) (reason : Nat) : State :=
  match o.dst with
  | .map i => match (s.thread c t).wait with | some w => s.mapWord c t w i o.va (.reject reason) | none => s
  | .elem g i =>
    match (s.thread c t).gathers.find? fun h => h.id == g with
    | some _ => s.modThread c t fun th => th.gathered g i o.va (.reject reason)
    | none => s.modThread c t fun th => th.post (rejectDeferred o.va reason)
  | dst =>
    s.modThread c t fun th =>
      let th := (th.leaveEmpty dst o.id).post (rejectDeferred o.va reason)
      match th.wait with
      | some w => if w.owns o then th.giveUp else th
      | none => th

/-- A poisoned value arrives (R378). -/
def State.poisonIn (s : State) (c t : Nat) (o : Out) (off : Nat) : State :=
  match o.dst with
  | .map i => match (s.thread c t).wait with | some w => s.mapWord c t w i o.va (.poison off) | none => s
  | .elem g i => s.modThread c t fun th => th.gathered g i o.va (.poison off)
  | dst =>
    s.modThread c t fun th =>
      let th := (th.leaveEmpty dst o.id).post (poisonDeferred (poisonAddr o.va off) o.maj)
      match th.wait with
      | some w => if w.owns o then th.giveUp else th
      | none => th

/-- The deferred form of a trap that reaches a thread which no longer waits for its instruction (R232): a TYPEFAULT names the address
and MAJ of the access (R233). -/
def Out.trapDeferred (o : Out) (cause : Nat) (v1 v2 : Word) : Deferred :=
  if cause = 0x09 then ⟨cause, o.va, v2 + word o.maj⟩ else ⟨cause, v1, v2⟩

/-- A reply is a trap: of a typed operation or an NBAR at its own address (R268, R296), of a writing access to a SYNC page
with the address and MAJ of the instruction (R233), or of an access sent to a device that became unreachable, which is
deferred (R386). The destination of an atomic whose trap comes so is left empty with no producer pending (log entry 96). -/
def State.trapIn (s : State) (c t : Nat) (o : Out) (cause : Nat) (v1 v2 : Word) : State :=
  match o.dst, (s.thread c t).wait with
  | .map i, some w => s.mapWord c t w i o.va (.trap cause v1 v2)
  | dst, some w =>
    if !w.owns o then s.modThread c t fun th => (th.leaveEmpty dst o.id).post (o.trapDeferred cause v1 v2)
    else if w.kind = .store then
      let s := s.modThread c t fun th => th.leaveEmpty dst o.id
      if cause = 0x09 then s.storeOutcome c t w (some (o.place, cause, o.va, v2 + word o.maj))
      else s.storeOutcome c t w (some (o.place, cause, v1, v2))
    else
      (s.modThread c t fun th => (th.leaveEmpty dst o.id).giveUp).trapAt c t cause v1 v2 w.len
  | dst, none => s.modThread c t fun th => (th.leaveEmpty dst o.id).post (o.trapDeferred cause v1 v2)

/-- What the answer to an access of a thread does. A rejection for ways that an SPCFG takes away (numbered 20, as R260 does for the
copy engine) has reason 2 (R232). -/
def State.outcome (s : State) (c t : Nat) (o : Out) (r : Result) : State :=
  match r with
  | .value v => s.valueIn c t o v
  | .line lv => s.fetchIn c t o lv
  | .done | .pushDone _ => s.doneIn c t o
  | .reject n => s.rejectIn c t o (if n = 20 then 2 else n)
  | .poison off => s.poisonIn c t o off
  | .trap cause v1 v2 => s.trapIn c t o cause v1 v2

/-- An access of an instruction that was set aside did not take place: the instruction is issued again (R232, R378). -/
def Thread.asideLost (t : Thread) (o : Out) (d : Option Deferred) : Thread :=
  let t := t.leaveEmpty o.dst o.id
  { t with aside := t.aside.filter (fun a => !a.takes o.id (some o)), deferred := t.deferred ++ d.toList }

/-- The answer to an access of an instruction that was set aside: it is kept for the thread's return, and a register that awaits it
takes its value at once (R54, R232). A rejected or poisoned access posts its deferred trap. -/
def Thread.asideIn (t : Thread) (o : Out) (r : Result) : Thread :=
  let kept := t.keepAnswer o.id (some o) r
  match o.dst, r with
  | .map _, _ => kept
  | .elem .., .reject n => t.post (rejectDeferred o.va n)
  | .xregs, .value _ => kept
  | dst, .value v => kept.fillPending dst o.id v
  | _, .reject n => t.asideLost o (some (rejectDeferred o.va (if n = 20 then 2 else n)))
  | _, .poison off => t.asideLost o (some (poisonDeferred (poisonAddr o.va off) o.maj))
  | dst, .trap .. => kept.leaveEmpty dst o.id
  | _, _ => kept

/-- The answer to an access reaches the instruction it belongs to: one that was set aside, or that which the thread waits for or has
gone past. -/
def State.answered (s : State) (c t : Nat) (o : Out) (r : Result) : State :=
  if (s.thread c t).aside.any fun a => a.takes o.id (some o) then s.modThread c t fun th => th.asideIn o r
  else s.outcome c t o r

/-- A reply reaches a thread slot: the access leaves the thread's counts (R210) and its outcome is delivered. -/
def State.replied (s : State) (c t id : Nat) (r : Result) : State :=
  match (s.thread c t).outs.find? fun o => o.id == id with
  | none => s.waitAnswered c t id r
  | some o =>
    (s.modThread c t fun th => { th with outs := th.outs.filter fun o => o.id != id }).answered c t o r

/-- The thread is back at an instruction that was set aside (log entry 8): the first after an ERET or a release. -/
def Thread.asideDue (t : Thread) : Option Aside :=
  if t.fresh then t.aside.find? fun a => a.pc == t.pc && a.intrap == t.intrap else none

/-- The thread waits for the instruction again, and the answers that have come are given (R232). -/
def State.takeAside (s : State) (c t : Nat) (a : Aside) : State :=
  let s := s.modThread c t fun th =>
    { th with aside := th.aside.erase a, wait := some a.wait, life := .parked .reply, fresh := false }
  a.got.foldl (fun s x => match x.1 with
    | some o => s.outcome c t o x.2
    | none => s.waitIn c t a.wait.id x.2) s

/-- A failed CNT.ADD leaves the counter of a launch unchanged: the cause that a core records (R343). -/
def doneCause (r : Result) : Option Nat :=
  match r with
  | .trap cause _ _ => some cause
  | .poison _ => some 0x12
  | .reject _ => some 0x12
  | _ => none

/-- A refused addition is recorded in every bind record of the launch on the core (R343). -/
def State.doneRefused (s : State) (c l cause : Nat) : State :=
  (List.range 16).foldl (fun s t =>
    let b := s.bind c t
    if b.valid && b.launch == l then s.setBind c t { b with state := 3, cause := cause } else s) s

/-- A launch entry replaced. -/
def State.withLaunch (s : State) (l : Nat) (e : LaunchEnt) : State := { s with launches := tset l e s.launches }

/-- A core's addition to DONE has been answered (R343): the core has closed, and a refusal is recorded in every bind record
of the launch on it. -/
def State.doneAdded (s : State) (c l : Nat) (e : LaunchEnt) (r : Result) : State :=
  let e := { e with adding := tdel c e.adding, closed := insertNat c e.closed }
  match doneCause r with
  | none => ({ s with launches := tset l e s.launches }).launchCheck l
  | some cause => ((s.doneRefused c l cause).withLaunch l { e with endState := tset c (3, cause) e.endState }).launchCheck l

/-- MAJ of a typed operation (R45). -/
def typedMaj (maj : Nat) : Bool := decide (0x22 ≤ maj) && decide (maj ≤ 0x30)

/-- The item that a reply to a fenced core becomes: a PST performed, or a typed operation performed (R379, R385). -/
def fencedItem (t launch maj : Nat) (pa : Word) (r : Result) : Option RItem :=
  let base : RItem := { kind := 11, outcome := 1, slot := t, launch := launch, maj := maj, addr := pa }
  match r with
  | .pushDone took => some { base with kind := 10, addr := word (pa.toNat / 64 * 64), value := word took }
  | .value v => if typedMaj maj then some { base with value := v.setWidth 64 } else none
  | .done => if typedMaj maj then some base else none
  | _ => none

/-- A reply to a fenced core is consumed, and its result is reported (R379 step 2). -/
def State.fencedReply (s : State) (c t id : Nat) (r : Result) : State :=
  let th := s.thread c t
  match th.outs.find? fun o => o.id == id with
  | none => s
  | some o =>
    let pa := (s.resolve th o.va { r := true }).getD 0
    let s := s.modThread c t fun th => { th with outs := th.outs.filter fun o => o.id != id }
    match fencedItem t (th.launch.getD 0) o.maj (word pa) r with
    | some i => s.modCore c fun k => { k with fencing := k.fencing.map fun f => { f with items := f.items ++ [i] } }
    | none => s

/-- An answer to a request of a core: of its engines, of its addition to DONE, or of a thread. -/
def State.coreReply (s : State) (c t id : Nat) (r : Result) : State :=
  match s.engAnswer c id r with
  | some s => s
  | none =>
    match s.launches.find? fun e => tget? e.2.adding c == some id with
    | some (l, e) => s.doneAdded c l e r
    | none => if (s.coreAt c).fenced then s.fencedReply c t id r else s.replied c t id r

/-- The events that deliver replies. -/
inductive ReplyKind
  | reject | performed | fetch | push | value
  deriving DecidableEq, Repr

/-- The event that a reply belongs to. -/
def replyKind (r : Result) : ReplyKind :=
  match r with
  | .reject _ => .reject
  | .done => .performed
  | .line _ => .fetch
  | .pushDone _ => .push
  | .value _ | .poison _ | .trap .. => .value

/-- The replies of one kind. -/
def selReply (k : ReplyKind) (b : Body) : Option (Nat × Nat × Result) :=
  match b with
  | .reply t id r => if replyKind r = k then some (t, id, r) else none
  | _ => none

/-- Deliver the oldest reply of a channel when it is of a kind. -/
def replyEvent (k : ReplyKind) (src dst : Node) (s : State) : Out' :=
  onMsg src dst (selReply k) (fun m s => s.coreReply (Node.num dst) m.1 m.2.1 m.2.2) s

/-- REJECTION (R232). -/
def execRejection (src dst : Node) (s : State) : Out' := replyEvent .reject src dst s
/-- RESULT_FILL (R54, R268, R378): a value, a poisoned value, or the trap a typed operation is answered with. -/
def execResultFill (src dst : Node) (s : State) : Out' := replyEvent .value src dst s
/-- ACCESS_PERFORMED (R210). -/
def execAccessPerformed (src dst : Node) (s : State) : Out' := replyEvent .performed src dst s
/-- FETCH_FILL (R43, R300). -/
def execFetchFill (src dst : Node) (s : State) : Out' := replyEvent .fetch src dst s
/-- PUSH_COMPLETE (R215). -/
def execPushComplete (src dst : Node) (s : State) : Out' := replyEvent .push src dst s

/-! ### Deliveries and remote accesses -/

/-- A delivery as it reaches a network interface. -/
def selPut (b : Body) : Option InPut :=
  match b with
  | .rput who slot vec num val step => some ⟨who, slot, vec, num, val, step⟩
  | _ => none

/-- RPUT_DELIVERY (R250): the interface takes the delivery, and holds it while it may not be written. -/
def execRputDelivery (src dst : Node) (s : State) : Out' :=
  onMsg src dst selPut (fun p s => s.putArrive (Node.num dst) p) s

/-- A remote access at the core that holds the bytes (R194, R232, R243): rejected at a dead position, beyond the scratch
size, or in ways that an SPCFG takes away. -/
def State.meshPerform (s : State) (n : Nat) (who : Who) (off : Nat) (a : Access) : State :=
  let k := s.coreAt n
  let size := Access.bytes a
  if !s.liveCore n then s.answer (.core n) who (.reject 1)
  else if k.leaving off size then s.answer (.core n) who (.reject 20)
  else if off + size > k.scratch then s.answer (.core n) who (.reject 2)
  else
    let (m, b, r) := accCells k.spm k.spmBad off a
    (s.setCore n { k with spm := m, spmBad := b }).answer (.core n) who r

/-- MESH_ACCESS (R194). -/
def execMeshAccess (src dst : Node) (s : State) : Out' :=
  onMsg src dst (fun b => match b with | .mesh who off a => some (who, off, a) | _ => none)
    (fun m s => s.meshPerform (Node.num dst) m.1 m.2.1 m.2.2) s

/-! ### Page walks (R227, R229, R363 to R366) -/

/-- The walk of a thread ends in its fault, or is dropped for a prefetch (R231, R241). -/
def State.walkFail (s : State) (c t : Nat) (w : Walk) (reason level : Nat) : State :=
  let n : Need := ⟨w.read, w.write, w.exec⟩
  if w.drop then s.modThread c t fun th => { th with walk := none, life := .runnable, dropped := some th.pc }
  else
    (s.modThread c t fun th => { th with walk := none, life := .runnable }).trapBefore c t n.cause w.va
      (pfVal2 reason level) w.len

/-- A thread's walk is performed: the TLB is filled and the thread goes on, or the owner of the page is asked first. It waits while
a request on a line of its page-table words is in progress (R364). -/
def State.walkDone (s : State) (c t evict : Nat) (w : Walk) : State :=
  let th := s.thread c t
  let asid := th.asid.toNat
  let x := s.walkWith (s.coreAt c).ptrs asid th.ptbase w.va th.smode ⟨w.read, w.write, w.exec⟩
  if !x.lines.all s.lineQuiet then s
  else
    let s := s.walkTrace c x
    match x.leaf with
    | .fail r l => s.walkFail c t w r l
    | .found level off p =>
      let (s, owner) := s.fill c asid w.va w.write evict level off p
      match owner with
      | none => s.modThread c t fun th => { th with walk := none }
      | some o =>
        (s.modThread c t fun th => { th with walk := some { w with reclass := some off } }).send (.core c) (.core o)
          (.reclass c off asid)

/-- PAGE_WALK (R363): the walk of a thread, after the walk cache has given up some of its oldest entries (R366; log entry 97). -/
def execPageWalk (c t : Nat) (pick : WalkPick) (s : State) : Out' :=
  if !(coreOk c && slotOk t) then .fault .noSuchPart
  else
    match (s.thread c t).walk with
    | none => .next s
    | some w =>
      if w.reclass.isSome then .next s
      else .next ((s.modCore c fun k => { k with ptrs := k.ptrs.drop pick.forget }).walkDone c t pick.evict w)

/-- The owner of a page performs and acknowledges the oldest reclassify that a core has asked of it and that it can perform now: no
access of the page issued before it arrived is in progress. At a core that is being fenced the firmware acts for the owner, and the
walker waits for it (R380). -/
def State.reclaim (s : State) (owner c : Nat) : State :=
  let ready (x : Nat × Nat × Nat) : Bool :=
    x.1 == c && !((s.coreAt owner).fencing.isSome && pteBit (s.peekWord x.2.2 x.2.1).1 8) && s.reclassReady owner x.2.1
  match (s.coreAt owner).reclaims.find? ready with
  | none => s
  | some (_, pte, asid) =>
    ((s.modCore owner fun k => { k with reclaims := k.reclaims.erase (c, pte, asid) }).reclassify owner asid pte).send
      (.core owner) (.core c) (.reclassAck pte)

/-- RECLASSIFY (R229): one arrives, from when on the owner's accesses to the page wait, and the owner performs one it can perform. -/
def execReclassify (src dst : Node) (s : State) : Out' :=
  let o := Node.num dst
  if !chanOk src dst then .fault .noSuchPart
  else
    match s.pop src dst (fun b => match b with | .reclass c pte asid => some (c, pte, asid) | _ => none) with
    | none => .next (s.reclaim o (Node.num src))
    | some (x, s') => .next ((s'.modCore o fun k => { k with reclaims := k.reclaims ++ [x] }).reclaim o x.1)

/-- A walker of a thread that waits for the page of a PTE walks again. -/
def State.walkAgain (s : State) (c pte t : Nat) : State :=
  match (s.thread c t).walk with
  | some w =>
    if w.reclass == some pte then
      let w := { w with reclass := none }
      (s.modThread c t fun th => { th with walk := some w }).walkDone c t 0 w
    else s
  | none => s

/-- RECLASSIFY_ACK (R229): each walker of the core that waits for the page completes its fill. -/
def execReclassifyAck (src dst : Node) (s : State) : Out' :=
  onMsg src dst (fun b => match b with | .reclassAck pte => some pte | _ => none)
    (fun pte s => (List.range 16).foldl (fun s t => s.walkAgain (Node.num dst) pte t) s) s

/-! ### TLBINV (R361) -/

/-- A request of a core is still to be performed: of a thread, of a queued matrix command or the stores it has sent, or of its copy
engine. -/
def Core.awaits (k : Core) (id : Nat) : Bool :=
  (k.threads.any fun t => t.2.outs.any fun o => o.id == id || o.dst == .matrix id)
    || (k.mq.any fun m => m.id == id || m.got.any fun g => g.1 == id && g.2.2.isNone)
    || (k.cq.any fun m => m.id == id || match m.run with | some r => r.await == some id | none => false)
    || k.lateq.any fun x => x.id == some id || (x.place.isSome && x.cmd == id)

/-- The addition of a command's SIG is on its way: to its SSP, or to another device (R417). -/
def State.addsOut (s : State) (c cmd : Nat) : Bool :=
  (s.net.any fun m => match m.body with
    | .typed r => match r.who with
      | .sig dev core _ n => dev == s.devnum && core == c && n == cmd
      | .thread _ => false
    | _ => false)
  || s.podOut.any fun m => !m.acked && match m.body with
    | .request core _ 0 _ _ (.typed ..) => core == c
    | _ => false

/-- TLBINV_COMPLETE: every access issued under a removed entry has been performed. -/
def execTlbinvComplete (c t : Nat) (s : State) : Out' :=
  if !(coreOk c && slotOk t) then .fault .noSuchPart
  else
    match (s.thread c t).wait with
    | none => .next s
    | some w =>
      if w.kind = .tlbinv && w.got.all fun e => !(s.coreAt e.2.toNat).awaits e.1 && !s.addsOut e.2.toNat e.1 then
        .next (s.modThread c t fun th => th.finish w.len)
      else .next s

end Sys2Proof.Machine
end

