-- ==== Sys2Proof/Machine/Fabric.lean ====
section
/-! DEFINITION. The events of the L1s and the home slices (R191, R215, R221, R224 to R226, R237, R239, R246, R256, R414). -/

namespace Sys2Proof.Machine

open Sys2Proof

/-! ### At an L1 -/

/-- L1_GRANT (R224): a grant, data or acknowledgement; a line gives up its place for it where its set is full
(R225; log entry 90). -/
def execL1Grant (src dst : Node) (victim : Option Nat) (s : State) : Out' :=
  onMsg src dst (fun b => match b with | .grant line excl lv => some (line, excl, lv) | _ => none)
    (fun m s => (s.makeRoom (Node.num dst) m.1 victim).granted (Node.num dst) m.1 m.2.1 m.2.2) s

/-- L1_FORWARDED_READ (R224). -/
def execL1ForwardedRead (src dst : Node) (s : State) : Out' :=
  onMsg src dst (fun b => match b with | .fwd line false dest_ => some (line, dest_) | _ => none)
    (fun m s => s.forwarded (Node.num dst) m.1 false m.2) s

/-- L1_FORWARDED_READ_EXCLUSIVE (R224): also a recall to the home (R221, R226). -/
def execL1ForwardedReadExclusive (src dst : Node) (s : State) : Out' :=
  onMsg src dst (fun b => match b with | .fwd line true dest_ => some (line, dest_) | _ => none)
    (fun m s => s.forwarded (Node.num dst) m.1 true m.2) s

/-- L1_INVALIDATE (R224). -/
def execL1Invalidate (src dst : Node) (s : State) : Out' :=
  onMsg src dst (fun b => match b with | .inval line => some line | _ => none)
    (fun line s => s.invalidated (Node.num dst) line) s

/-- L1_WRITEBACK_ACK (R225). -/
def execL1WritebackAck (src dst : Node) (s : State) : Out' :=
  onMsg src dst (fun b => match b with | .wbAck line => some line | _ => none)
    (fun line s => s.wbAcked (Node.num dst) line) s

/-- PUSHED_COPY (R246): the copy of a line arrives. -/
def execPushedCopy (src dst : Node) (line : Nat) (s : State) : Out' :=
  onMsg src dst (fun b => match b with | .push l asid pid lv => if l = line then some (asid, pid, lv) else none | _ => none)
    (fun m s => s.pushArrive (Node.num dst) line m.1 m.2.1 m.2.2) s

/-! ### At a home slice -/

/-- A directory entry is in use. -/
def DirEnt.used (d : DirEnt) : Bool := d.owner.isSome || !d.sharers.isEmpty || d.busy.isSome || !d.queue.isEmpty

/-- DIRECTORY_RECALL (R226): a request needs an entry for a new line, and the slice's directory has none free: it takes that of
a resident line of the slice, whose copies are recalled and invalidated. -/
def State.dirRecall (s : State) (line : Nat) (rec_ : Option Nat) : State :=
  match rec_ with
  | none => s
  | some v =>
    let d := s.dirAt v
    if (s.dirAt line).used || lineSlice v != lineSlice line || d.busy.isSome || (d.owner.isNone && d.sharers.isEmpty) then s
    else s.homeArrive ⟨⟨s.devnum, 0, 0, 0⟩, d.asid, v, false, false, .flush⟩

/-- A home request of a kind at the oldest place of its channel. -/
def selHome (p : HomeKind → Bool) (b : Body) : Option HomeReq :=
  match b with
  | .home r => if p r.k then some r else none
  | _ => none

/-- An event in which a home slice orders a request. -/
def homeEvent (p : HomeKind → Bool) (src dst : Node) (rec_ : Option Nat) (s : State) : Out' :=
  onMsg src dst (selHome p) (fun r s => (s.dirRecall r.line rec_).homeArrive r) s

/-- HOME_READ (R221). -/
def execHomeRead (src dst : Node) (rec_ : Option Nat) (s : State) : Out' :=
  homeEvent (· == .read) src dst rec_ s
/-- HOME_READ_EXCLUSIVE (R221). -/
def execHomeReadExclusive (src dst : Node) (rec_ : Option Nat) (s : State) : Out' :=
  homeEvent (· == .readEx) src dst rec_ s
/-- HOME_UPGRADE (R414). -/
def execHomeUpgrade (src : Node) (dst : RecallAt) (s : State) : Out' := homeEvent (· == .upgrade) src dst.node dst.rec_ s

/-- An access that is not an atomic, or a flush (R191, R233, R239, R242). -/
def HomeKind.plainAccess : HomeKind → Bool
  | .access _ (.atomic ..) => false
  | .access .. | .flush => true
  | _ => false
/-- An atomic. -/
def HomeKind.atomicAccess : HomeKind → Bool
  | .access _ (.atomic ..) => true
  | _ => false
/-- A push store. -/
def HomeKind.isPush : HomeKind → Bool
  | .push .. => true
  | _ => false
/-- An element of a REDUCE. -/
def HomeKind.isReduce : HomeKind → Bool
  | .reduce .. => true
  | _ => false

/-- HOME_NC_ACCESS (R191): an access performed at its home slice, and the home's part of CFLUSH and CZERO. -/
def execHomeNcAccess (src dst : Node) (s : State) : Out' := homeEvent HomeKind.plainAccess src dst none s
/-- HOME_ATOMIC (R237). -/
def execHomeAtomic (src dst : Node) (s : State) : Out' := homeEvent HomeKind.atomicAccess src dst none s
/-- HOME_PUSH_STORE (R215). -/
def execHomePushStore (src : Node) (dst : RecallAt) (s : State) : Out' :=
  homeEvent HomeKind.isPush src dst.node dst.rec_ s
/-- REDUCE_ADD (R256): the addition is performed at the slot's home slice when every L1 copy of the line is gone. -/
def execReduceAdd (src dst : Node) (s : State) : Out' := homeEvent HomeKind.isReduce src dst none s

/-- HOME_WRITE_BACK (R225). -/
def execHomeWriteBack (src dst : Node) (s : State) : Out' :=
  onMsg src dst (fun b => match b with | .wb line asid priv lv => some (line, asid, priv, lv) | _ => none)
    (fun m s => s.homeWb (Node.num src) m.1 m.2.1 m.2.2.1 m.2.2.2) s

/-- HOME_EVICTION_NOTICE (R225). -/
def execHomeEvictionNotice (src dst : Node) (s : State) : Out' :=
  onMsg src dst (fun b => match b with | .evict line priv => some (line, priv) | _ => none)
    (fun m s => s.homeEvict (Node.num src) m.1 m.2) s

/-- HOME_INVALIDATE_ACK (R221). -/
def execHomeInvalidateAck (src dst : Node) (s : State) : Out' :=
  onMsg src dst (fun b => match b with | .snoopAck line info lv => some (line, info, lv) | _ => none)
    (fun m s => s.homeAck m.1 (Node.num src) m.2.1 m.2.2) s

/-- PUSH_OUTCOME (R215). -/
def execPushOutcome (src dst : Node) (s : State) : Out' :=
  onMsg src dst (fun b => match b with | .pushOut line pid ok => some (line, pid, ok) | _ => none)
    (fun m s => s.pushOutcomeAt (Node.num src) m.1 m.2.1 m.2.2) s

end Sys2Proof.Machine
end

