-- ==== Sys2Proof/Machine/Ssp.lean ====
section
/-! DEFINITION. The SSPs (R263 to R293): typed requests, waiter entries, limits, and the events of network barriers (R295,
R296). Each operation is one action on its object. -/

namespace Sys2Proof.Machine

open Sys2Proof

/-! ### Words -/

/-- Write a word at its home. -/
def State.sspPut (s : State) (asid off : Nat) (w : Word) : State :=
  (s.homeAcc asid off (.store 8 (w.setWidth 512))).1

/-- The word or its tag is poisoned (R269). -/
def State.sspBad (s : State) (asid off : Nat) : Bool :=
  bitOf (s.homeLine asid (off / 64)).bad (off % 64 / 8) || s.tagBad off

/-- A word with its tag (R289 to R291). -/
def State.sspInstall (s : State) (asid off : Nat) (w : Word) (tag : Nat) : State := (s.sspPut asid off w).setTag off tag

/-! ### Answers (R268, R272, R417) -/

/-- Answer a request. A SIG that failed gives its thread a deferred trap at the counter's address (R417). -/
def State.sspAnswer (s : State) (r : TypedReq) (res : Result) : State :=
  match r.who with
  | .thread w => s.answer (.slice (homeSlice (paOff r.pa) true)) w res
  | .sig dev core slot _ =>
    match res with
    | .trap cause _ v2 =>
      let v2 := if cause = 0x12 then v2 ||| (1 : Word) <<< 63 else v2
      if dev = s.devnum then s.defer core slot ⟨cause, r.va, v2⟩
      else if s.podGone.contains dev then s
      else { s with txn := s.txn + 1, podOut := s.podOut ++
        [⟨s.txn + 1, dev, .reply core slot 0 (.trap cause r.va v2), s.time.toNat, false⟩] }
    | _ => s

/-- A value as a reply carries it. -/
def wval (w : Word) : Result := .value (w.setWidth 512)

/-- The tag of a word in bits 63:60 of TRAPVAL2. -/
def State.tagTop (s : State) (off : Nat) : Nat := s.tag off * 2 ^ 60

/-- TYPEFAULT of a word (R270). -/
def State.sspType (s : State) (r : TypedReq) (va : Word) (off : Nat) : State :=
  s.sspAnswer r (.trap 0x09 va (word (s.tagTop off + r.maj)))
/-- OBJFAULT (R292). -/
def State.sspObj (s : State) (r : TypedReq) (reason : Nat) : State :=
  s.sspAnswer r (.trap 0x0B r.va (word (s.tagTop (paOff r.pa) + reason)))
/-- UNCORR kind 3 (R269, R378). -/
def State.sspPoison (s : State) (r : TypedReq) (va : Word) : State :=
  s.sspAnswer r (.trap 0x12 va (word (r.maj * 2 ^ 8 + 3)))

/-! ### Entries (R273, R274) -/

/-- The slice whose SSP holds an entry. -/
def Waiter.slice (w : Waiter) : Nat := homeSlice (paOff w.req.pa) true

/-- Entries of one slice. -/
def State.entriesOf (s : State) (n : Nat) : Nat := (s.waiters.filter fun w => w.slice == n).length

/-- Entries in the backing area. -/
def State.spilled (s : State) : Nat := (List.range 128).foldl (fun a n => a + (s.entriesOf n - 2048)) 0

/-- `k` entries can be had for an object: in its SSP, or in the backing area, which all slices share in units of 64 (R274). DESIGN CHOICE
(log entry 122): the area has its size alone, and what it holds lies outside memory. -/
def State.room (s : State) (off k : Nat) : Bool :=
  let n := s.entriesOf (homeSlice off true)
  decide (n + k - 2048 + s.spilled ≤ s.mgmt.backing * 64 + (n - 2048))

/-- DEADLINE of a limit (R275). -/
def State.deadline (s : State) (l : Lim) : Nat :=
  match l with
  | .wait n => if n.val = 0 then 0 else s.time.toNat + 2 ^ n.val
  | .try => 0

/-- Make an entry behind every other. -/
def State.addEntry (s : State) (r : TypedReq) (kind : EntryKind) (stage : Nat) (operand : Word) (deadline : Nat) : State :=
  { s with txn := s.txn + 1, waiters := s.waiters ++ [⟨s.txn + 1, kind, stage, r, operand, deadline, false⟩] }

/-- Remove an entry. -/
def State.dropEntry (s : State) (no : Nat) : State := { s with waiters := s.waiters.filter fun w => w.no != no }

/-- Replace an entry. -/
def State.setEntry (s : State) (w : Waiter) : State :=
  { s with waiters := s.waiters.map fun v => if v.no = w.no then w else v }

/-- Wake a waiter with a result. -/
def State.wake (s : State) (w : Waiter) (res : Result) : State := (s.dropEntry w.no).sspAnswer w.req res

/-- The waiting threads of an object, oldest first. -/
def State.waitersOf (s : State) (off : Nat) : List Waiter :=
  s.waiters.filter fun w => paOff w.req.pa == off && w.kind == .waiter

/-- The oldest waiter of an object with an operation. -/
def State.firstWaiter (s : State) (off : Nat) (p : TypedKind → Bool) : Option Waiter :=
  (s.waitersOf off).find? fun w => p w.req.k

/-- WAITLIMIT of an expiry or a failed try (R277). -/
def State.limitWord (s : State) (r : TypedReq) (done signalled : Bool) : Word :=
  let off := paOff r.pa
  let q := if s.typeOf off = 5 then (s.sspWord r.asid off).toNat % 2 ^ 40 else 0
  word (s.tagTop off + b2n done * 2 ^ 59 + b2n signalled * 2 ^ 58 + q)

/-- A request that must wait (R269 step 4, R275, R276): a try traps, and so does a request for which no entry can be had;
otherwise `act` makes its entry. -/
def State.mustWait (s : State) (r : TypedReq) (act : State → State) : State :=
  match r.lim with
  | .try => s.sspAnswer r (.trap 0x0A r.va (s.limitWord r false false))
  | .wait _ =>
    if s.room (paOff r.pa) 1 then act s else s.sspAnswer r (.trap 0x14 r.va (word (s.tagTop (paOff r.pa))))

/-- The entry of a waiting request. -/
def State.park_ (s : State) (r : TypedReq) (operand : Word) : State :=
  s.addEntry r .waiter 0 operand (s.deadline r.lim)

/-- An entry refers to a word: as its object, or as the lock of a CND.WAIT (R289 to R291). -/
def Waiter.refersTo (w : Waiter) (off : Nat) : Bool :=
  paOff w.req.pa == off || (w.req.k == .cndWait && paOff w.req.lockPa == off)

/-- Some entry refers to a word from `off` on. -/
def State.referred (s : State) (off n : Nat) : Bool :=
  (List.range n).any fun i => s.waiters.any fun w => w.refersTo (off + 8 * i)

/-! ### Plain words and counters (R278, R279) -/

/-- LDSY (R278). -/
def State.sspLdsy (s : State) (r : TypedReq) : State :=
  let off := paOff r.pa
  if s.tag off / 8 = 1 then
    let v := s.sspWord r.asid off
    match s.firstWaiter off (· == .stsy) with
    | some w => ((s.sspPut r.asid off w.req.b).sspAnswer r (wval v)).wake w .done
    | none => (s.setTag off 0).sspAnswer r (wval v)
  else s.mustWait r fun s => s.park_ r 0

/-- STSY (R278). -/
def State.sspStsy (s : State) (r : TypedReq) : State :=
  let off := paOff r.pa
  if s.tag off / 8 = 0 then
    let s := s.sspPut r.asid off r.b
    match s.firstWaiter off (· == .ldsy) with
    | some w => (s.wake w (wval r.b)).sspAnswer r .done
    | none => (s.setTag off 8).sspAnswer r .done
  else s.mustWait r fun s => s.park_ r 0

/-- Wake every CNT.WAIT whose threshold the counter has reached, oldest first (R279). -/
def State.wakeCounters (s : State) (v : Word) : List Waiter → State
  | [] => s
  | w :: l =>
    State.wakeCounters (if w.req.k = .cntWait && w.operand.sle v then s.wake w (wval v) else s) v l

/-- CNT.ADD and CNT.FADD (R279). -/
def State.sspAdd (s : State) (r : TypedReq) : State :=
  let off := paOff r.pa
  let old := s.sspWord r.asid off
  let s := s.sspPut r.asid off (old + r.b)
  let s := s.sspAnswer r (if r.k = .cntFadd then wval old else .done)
  s.wakeCounters (old + r.b) (s.waitersOf off)

/-- CNT.WAIT (R279). -/
def State.sspCntWait (s : State) (r : TypedReq) : State :=
  let v := s.sspWord r.asid (paOff r.pa)
  if r.b.sle v then s.sspAnswer r (wval v) else s.mustWait r fun s => s.park_ r r.b

/-! ### Barriers (R280 to R282) -/

/-- Word 0 of a barrier is malformed (R280). -/
def barBad (b : Word) : Bool := fld b 16 16 ≥ fld b 32 16 || fld b 32 16 == 0 || fld b 0 16 != 0

/-- Wake the waiters of a completed phase, oldest first (R280). -/
def State.wakeBarrier (s : State) (phase : Nat) (cw : Word) : List Waiter → State
  | [] => s
  | w :: l =>
    let s := match w.req.k with
      | .barArw => s.wake w (wval cw)
      | .barWait => if fld w.operand 0 16 != phase then s.wake w (wval (word phase)) else s
      | _ => s
    State.wakeBarrier s phase cw l

/-- The requester of an operation: device, core and slot. -/
def TypedReq.party (r : TypedReq) : Nat × Nat × Nat :=
  match r.who with
  | .thread w => (w.dev, w.core, w.slot)
  | .sig d c t _ => (d, c, t)

/-- BAR.ARR and BAR.ARW (R280, R281). -/
def State.sspArrive (s : State) (r : TypedReq) : State :=
  let off := paOff r.pa
  let b := s.sspWord r.asid off
  if barBad b then s.sspObj r 4
  else
    let old := fld b 48 16
    let arrived := fld b 16 16 + 1
    let first := s.waiters.find? fun w => paOff w.req.pa == off && w.kind == .phase
    if arrived = fld b 32 16 then
      let (dev, core, slot) := r.party
      let span := match first with
        | some w => min (s.time.toNat - w.operand.toNat) (2 ^ 50 - 1)
        | none => if fld b 16 16 = 0 && s.room off 1 then 0 else 2 ^ 50 - 1
      let phase := (old + 1) % 2 ^ 16
      let s := match first with | some w => s.dropEntry w.no | none => s
      let s := s.sample (.slice (homeSlice off true)) 4 slot span
      let s := s.sspPut r.asid (off + 8) (word (core * 2 ^ 54 + slot * 2 ^ 50 + span))
      let s := s.sspPut r.asid off (setFld (setFld b 48 16 phase) 16 16 0)
      let cw := dev * 2 ^ 16 + phase
      let s := s.sspAnswer r (wval (word (if r.k = .barArr then old else 2 ^ 31 + cw)))
      s.wakeBarrier phase (word cw) (s.waitersOf off)
    else
      let count (s : State) : State :=
        let s := s.sspPut r.asid off (setFld b 16 16 arrived)
        if fld b 16 16 = 0 && s.room off 1 then s.addEntry r .phase 0 s.time 0 else s
      if r.k = .barArr then (count s).sspAnswer r (wval (word old))
      else s.mustWait r fun s => count (s.park_ r (word old))

/-- BAR.WAIT (R280). -/
def State.sspBarWait (s : State) (r : TypedReq) : State :=
  let b := s.sspWord r.asid (paOff r.pa)
  if barBad b then s.sspObj r 4
  else if fld b 48 16 != fld r.b 0 16 then s.sspAnswer r (wval (word (fld b 48 16)))
  else s.mustWait r fun s => s.park_ r r.b

/-! ### Ticket locks (R283, R284) -/

/-- The entry that holds a ticket of a lock: a waiter, a void ticket, or a CND.WAIT that awaits the lock. -/
def Waiter.holds (w : Waiter) (lock ticket : Nat) : Bool :=
  w.operand.toNat == ticket &&
    ((paOff w.req.pa == lock && (w.kind == .void || (w.kind == .waiter && w.req.k == .lckAcq)))
      || (w.kind == .waiter && w.req.k == .cndWait && w.stage == 1 && paOff w.req.lockPa == lock))

/-- Advance serving past void tickets to the next waiter, which acquires the lock (R283). The first argument bounds the
void tickets. -/
def State.lockAdvance (s : State) (asid lock : Nat) : Nat → State
  | 0 => s
  | f + 1 =>
    let l := s.sspWord asid lock
    let serving := (fld l 0 32 + 1) % 2 ^ 32
    let s := s.sspPut asid lock (setFld l 0 32 serving)
    match s.waiters.find? fun w => w.holds lock serving with
    | none => s
    | some w =>
      if w.kind = .void then State.lockAdvance (s.dropEntry w.no) asid lock f
      else s.wake w .done

/-- LCK.REL at a lock (R283). -/
def State.lockRelease (s : State) (asid lock : Nat) : State := s.lockAdvance asid lock (s.waiters.length + 1)

/-- LCK.ACQ (R283). -/
def State.sspAcq (s : State) (r : TypedReq) : State :=
  let off := paOff r.pa
  let l := s.sspWord r.asid off
  let my := fld l 32 32
  let take (s : State) : State := s.sspPut r.asid off (setFld l 32 32 (my + 1))
  if fld l 0 32 = my then (take s).sspAnswer r .done
  else s.mustWait r fun s => (take s).park_ r (word my)

/-- LCK.REL (R283). -/
def State.sspRel (s : State) (r : TypedReq) : State :=
  let l := s.sspWord r.asid (paOff r.pa)
  if fld l 0 32 = fld l 32 32 then s.sspObj r 6
  else (s.sspAnswer r .done).lockRelease r.asid (paOff r.pa)

/-! ### Queues (R285 to R287) -/

/-- Capacity, element bytes, head, tail and W of a queue header (R265). -/
structure QHead where
  c    : Nat
  z    : Nat
  h    : Nat
  t    : Nat
  deriving DecidableEq, Repr

/-- The header of a queue. -/
def qHead (q : Word) : QHead := ⟨fld q 48 16, fld q 40 8, fld q 20 20, fld q 0 20⟩
/-- W: the largest multiple of c that does not exceed 2^20 (R265). -/
def QHead.wrap (q : QHead) : Nat := 2 ^ 20 / q.c * q.c
/-- Bytes of an element. -/
def QHead.size (q : QHead) : Nat := 8 * 2 ^ q.z
/-- n: the elements held. -/
def QHead.n (q : QHead) : Nat := (q.t + q.wrap - q.h % q.wrap) % q.wrap
/-- A malformed header (R285). -/
def QHead.bad (q : QHead) (off : Nat) : Bool :=
  q.c == 0 || decide (q.z > 3) || decide (off % 4096 + 64 + q.c * q.size > 4096) || decide (q.n > q.c)
/-- Offset of the slot of a position (R265). -/
def QHead.slot (q : QHead) (off j : Nat) : Nat := off + 64 + j % q.c * q.size

/-- The header of a queue at an offset. -/
def State.qAt (s : State) (asid off : Nat) : QHead := qHead (s.sspWord asid off)
/-- Write head or tail. -/
def State.setQ (s : State) (asid off : Nat) (q : QHead) : State :=
  s.sspPut asid off (setFld (setFld (s.sspWord asid off) 20 20 q.h) 0 20 q.t)

/-- r: the granted puts of a queue, oldest first (R286). -/
def State.grants (s : State) (off : Nat) : List Waiter :=
  s.waiters.filter fun w => paOff w.req.pa == off && w.kind == .granted

/-- Positions of a queue written behind granted puts whose data has not arrived: the tail passes them in their turn (R287). -/
def State.aheadOf (s : State) (off : Nat) : List Nat := (s.ahead.filter fun x => x.1 == off).map (·.2)

/-- The positions from the tail on that puts have taken (R287). -/
def State.reserved (s : State) (off : Nat) : Nat := (s.grants off).length + (s.aheadOf off).length

/-- Write an element into its slot: every word full (R286). -/
def State.writeSlot (s : State) (asid off : Nat) (q : QHead) (j : Nat) (data : Line) (bad : Bool) : State :=
  (List.range (q.size / 8)).foldl (fun s i =>
    let a := q.slot off j + 8 * i
    let s := s.sspInstall asid a (lineWord data i) 14
    if bad then (s.homeAcc asid a .taint).1 else s) s

/-- Read an element: every word empty (R286). -/
def State.readSlot (s : State) (asid off : Nat) (q : QHead) (j : Nat) : State × Line :=
  let size := q.size
  let a := q.slot off j
  let v := (List.range (size / 8)).foldl (fun acc i => acc + (s.sspWord asid (a + 8 * i)).toNat * 2 ^ (64 * i)) 0
  ((List.range (size / 8)).foldl (fun s i => s.setTag (a + 8 * i) 6) s, BitVec.ofNat 512 v)

/-- The first poisoned word of the slot of a position. -/
def State.slotBad (s : State) (asid off : Nat) (q : QHead) (j : Nat) : Option Nat :=
  ((List.range (q.size / 8)).map fun i => q.slot off j + 8 * i).find? fun o => s.sspBad asid o

/-- The tail passes each written position in order; a granted put whose position it passes is answered (R287). -/
def State.qAdvance (s : State) (asid off : Nat) : Nat → State
  | 0 => s
  | f + 1 =>
    let q := s.qAt asid off
    match (s.grants off).find? fun w => w.written && w.operand.toNat == q.t with
    | none =>
      if s.ahead.contains (off, q.t) then
        State.qAdvance (({ s with ahead := s.ahead.erase (off, q.t) } : State).setQ asid off { q with t := (q.t + 1) % q.wrap })
          asid off f
      else s
    | some w => State.qAdvance ((s.setQ asid off { q with t := (q.t + 1) % q.wrap }).wake w .done) asid off f

/-- A get takes the head element. A poisoned one is not taken: the get traps with UNCORR kind 3 and changes nothing (R268,
R286, R378). -/
def State.qTake (s : State) (off : Nat) (r : TypedReq) (q : QHead) : State × Result :=
  match s.slotBad r.asid off q q.h with
  | some o => (s, .trap 0x12 (r.va + word o - word off) (word (r.maj * 2 ^ 8 + 3)))
  | none =>
    let (s, v) := s.readSlot r.asid off q q.h
    (s.setQ r.asid off { q with h := (q.h + 1) % q.wrap }, .value v)

/-- Serve the waiters of a queue: elements to waiting gets, then grants to waiting puts (R286, R287). -/
def State.qServe (s : State) (asid off : Nat) : Nat → State
  | 0 => s
  | f + 1 =>
    let q := s.qAt asid off
    let get_ := if q.n > 0 then s.firstWaiter off (· == .qGet) else none
    match get_ with
    | some w =>
      let (s, res) := s.qTake off w.req q
      State.qServe (s.wake w res) asid off f
    | none =>
      let put := if q.n + s.reserved off < q.c then s.firstWaiter off (· == .qPut) else none
      match put with
      | none => s
      | some w =>
        let pos := (q.t + s.reserved off) % q.wrap
        let s := s.setEntry { w with kind := .granted, operand := word pos, deadline := 0 }
        let s := match w.req.who with
          | .thread p =>
            if p.dev = s.devnum then s.send (.slice (homeSlice off true)) (.core p.core) (.putAsk p.slot w.no)
            else { s with txn := s.txn + 1, podOut := s.podOut ++
              [⟨s.txn + 1, p.dev, .reply p.core p.slot p.id (.putAsk w.no), s.time.toNat, false⟩] }
          | .sig .. => s
        State.qServe s asid off f

/-- Enough turns to serve every waiter of a queue. -/
def State.qFuel (s : State) : Nat := 2 * s.waiters.length + 2

/-- Q.PUT (R286, R287). A put performed while granted puts hold the tail takes the position after theirs, which the tail passes once
theirs are written (log entry 119). -/
def State.sspPutQ (s : State) (r : TypedReq) : State :=
  let off := paOff r.pa
  let q := s.qAt r.asid off
  if q.bad off then s.sspObj r 4
  else
    let g := s.reserved off
    if q.n + g < q.c && (s.firstWaiter off (· == .qPut)).isNone then
      let pos := (q.t + g) % q.wrap
      let s := (s.writeSlot r.asid off q pos r.data false).sspAnswer r .done
      if g = 0 then (s.setQ r.asid off { q with t := (q.t + 1) % q.wrap }).qServe r.asid off s.qFuel
      else { s with ahead := s.ahead ++ [(off, pos)] }
    else s.mustWait r fun s => s.park_ r 0

/-- Q.GET (R286). -/
def State.sspGetQ (s : State) (r : TypedReq) : State :=
  let off := paOff r.pa
  let q := s.qAt r.asid off
  if q.bad off then s.sspObj r 4
  else if q.n > 0 then
    let (s, res) := s.qTake off r q
    let s := s.sspAnswer r res
    s.qServe r.asid off s.qFuel
  else s.mustWait r fun s => s.park_ r 0

/-- The data of a granted put arrives (R287). -/
def State.putArrived (s : State) (no : Nat) (data : Line) (bad : Bool) : State :=
  match s.waiters.find? fun w => w.no == no && w.kind == .granted with
  | none => s
  | some w =>
    let off := paOff w.req.pa
    let asid := w.req.asid
    let q := s.qAt asid off
    let s := (s.writeSlot asid off q w.operand.toNat data bad).setEntry { w with written := true }
    let s := s.qAdvance asid off (s.waiters.length + s.ahead.length + 1)
    s.qServe asid off s.qFuel

/-! ### Conditions (R288) -/

/-- CND.WAIT (R269, R288). -/
def State.sspCndWait (s : State) (r : TypedReq) : State :=
  let off := paOff r.pa
  let lock := paOff r.lockPa
  if !r.lockOk then s.sspObj r 7
  else if s.sspBad r.asid lock then s.sspPoison r r.b
  else if s.typeOf lock != 4 then s.sspType r r.b lock
  else
    let l := s.sspWord r.asid lock
    if fld l 0 32 = fld l 32 32 then s.sspObj r 6
    else s.mustWait r fun s =>
      let w := s.sspWord r.asid off
      let s := s.sspPut r.asid off (setFld w 0 32 (fld w 0 32 + 1))
      (s.park_ r 0).lockRelease r.asid lock

/-- A signalled waiter takes a ticket on its lock (R288). -/
def State.toLock (s : State) (w : Waiter) : State :=
  let lock := paOff w.req.lockPa
  let asid := w.req.asid
  let l := s.sspWord asid lock
  let my := fld l 32 32
  let s := s.sspPut asid lock (setFld l 32 32 (my + 1))
  if fld l 0 32 = my then s.wake w .done else s.setEntry { w with stage := 1, operand := word my }

/-- CND.SIG (R288). -/
def State.sspSignal (s : State) (r : TypedReq) (all_ : Bool) : State :=
  let off := paOff r.pa
  let w := s.sspWord r.asid off
  let ws := (s.waitersOf off).filter fun e => e.req.k == .cndWait && e.stage == 0
  let count := fld w 0 32
  let left := if all_ then 0 else count - 1
  let s := s.sspPut r.asid off (setFld (setFld w 32 32 (fld w 32 32 + 1)) 0 32 left)
  let s := s.sspAnswer r .done
  if all_ then ws.foldl (fun s e => s.toLock e) s
  else if count = 0 then s
  else match ws with | e :: _ => s.toLock e | [] => s

/-! ### Making and unmaking objects (R289 to R291) -/

/-- A well-formed initial value (R289). -/
def initOk (t : ObjType) (v : Word) : Bool :=
  match t with
  | .plain | .counter => true
  | .barrier => fld v 32 16 != 0 && fld v 0 32 == 0
  | .report => v == 0
  | .ticket => fld v 32 32 == fld v 0 32
  | .queue => fld v 48 16 ≥ 1 && fld v 40 8 ≤ 3 && fld v 0 40 == 0
  | .slot => false
  | .cond => fld v 0 32 == 0

/-- The alignment an object needs (R289). -/
def initAlign (t : ObjType) : Nat :=
  match t with
  | .barrier => 16
  | .queue => 64
  | _ => 8

/-- The words of a new object (R289). -/
def State.install (s : State) (asid off : Nat) (t : ObjType) (v : Word) (n : Nat) : State :=
  match t with
  | .plain => s.sspInstall asid off v 0
  | .counter => s.sspInstall asid off v 0x9
  | .barrier => (s.sspInstall asid off v 0xA).sspInstall asid (off + 8) 0 0xB
  | .report => s.sspInstall asid off 0 0xB
  | .ticket => s.sspInstall asid off v 0xC
  | .queue =>
    (List.range (n - 1)).foldl (fun s i => s.sspInstall asid (off + 8 * (i + 1)) 0 0x6) (s.sspInstall asid off v 0xD)
  | .slot => s
  | .cond => s.sspInstall asid off v 0xF

/-- TINIT (R289), its checks in their order. DESIGN CHOICE (log entry 120): a report at the first word of a page, whose barrier would lie on
another page, takes the TYPEFAULT of its own word. -/
def State.sspTinit (s : State) (r : TypedReq) (t : ObjType) : State :=
  let off := paOff r.pa
  let n := coveredWords t r.b
  let inPage := min n (pageWords off)
  let wrong : Option Nat :=
    if t = .report then
      if off % 4096 = 0 then some off
      else if s.typeOf (off - 8) != 2 then some (off - 8)
      else if s.typeOf off != 3 then some off else none
    else ((List.range inPage).map fun i => off + 8 * i).find? fun o => s.typeOf o != 0
  match wrong with
  | some o => s.sspType r (r.va + word o - word off) o
  | none =>
    if s.referred off inPage then s.sspObj r 3
    else if off % initAlign t != 0 then s.sspObj r 5
    else if n > pageWords off then s.sspObj r 1
    else if !initOk t r.b then s.sspObj r 2
    else (s.install r.asid off t r.b n).sspAnswer r .done

/-- TCLR (R290). -/
def State.sspTclr (s : State) (r : TypedReq) : State :=
  let off := paOff r.pa
  match s.objectWords r.asid off with
  | none => s.sspType r r.va off
  | some n =>
    if s.referred off n then s.sspObj r 3
    else ((List.range n).foldl (fun s i => s.sspInstall r.asid (off + 8 * i) 0 8) s).sspAnswer r .done

/-- TRAW (R291). DEDUCED (log entry 121): a word is referred to by the entries of which it is the object or the lock; a report word or a
slot of an object with entries is not. -/
def State.sspTraw (s : State) (r : TypedReq) (tag : Nat) : State :=
  let off := paOff r.pa
  if s.referred off 1 then s.sspObj r 3 else (s.sspInstall r.asid off r.b tag).sspAnswer r .done

/-! ### Requests (R269, R271) -/

/-- The type an operation needs (R267); none for TOBJ. -/
def TypedKind.needs : TypedKind → Option Nat
  | .ldsy | .stsy => some 0
  | .cntAdd | .cntFadd | .cntWait => some 1
  | .barArr | .barWait | .barArw => some 2
  | .lckAcq | .lckRel => some 4
  | .qPut | .qGet => some 5
  | .cndWait | .cndSigOne | .cndSigAll => some 7
  | .tinit _ | .traw _ | .tclr => none

/-- The operation itself, its word neither poisoned nor of another type. -/
def State.sspDo (s : State) (r : TypedReq) : State :=
  match r.k with
  | .ldsy => s.sspLdsy r
  | .stsy => s.sspStsy r
  | .cntAdd | .cntFadd => s.sspAdd r
  | .cntWait => s.sspCntWait r
  | .barArr | .barArw => s.sspArrive r
  | .barWait => s.sspBarWait r
  | .lckAcq => s.sspAcq r
  | .lckRel => s.sspRel r
  | .qPut => s.sspPutQ r
  | .qGet => s.sspGetQ r
  | .cndWait => s.sspCndWait r
  | .cndSigOne => s.sspSignal r false
  | .cndSigAll => s.sspSignal r true
  | .tinit t => s.sspTinit r t
  | .traw tag => s.sspTraw r tag
  | .tclr => s.sspTclr r

/-- A request at its SSP: the checks of R269 in their order, then the operation. -/
def State.sspRequest (s : State) (r : TypedReq) : State :=
  let off := paOff r.pa
  if s.sspBad r.asid off then s.sspPoison r r.va
  else
    match TypedKind.needs r.k with
    | some t => if s.typeOf off != t then s.sspType r r.va off else s.sspDo r
    | none => s.sspDo r

/-- OPERAND of an entry as the debug unit and the reports show it (R273): the lock's address for a CND.WAIT. -/
def Waiter.shown (w : Waiter) : Word :=
  if w.req.k = .cndWait && w.kind == .waiter then word w.req.lockPa else w.operand

/-! ### Limits and lost entries (R275, R277, R375) -/

/-- A CND.WAIT that has done its part, or a BAR.ARW that has arrived (R277). -/
def TypedKind.donePart (k : TypedKind) : Bool := k == .barArw || k == .cndWait

/-- A ticket that is not used any more stays at its lock as a void ticket (R284). -/
def State.voidTicket (s : State) (w : Waiter) : State :=
  if w.req.k = .lckAcq then s.setEntry { w with kind := .void, deadline := 0 }
  else s.setEntry { w with kind := .void, stage := 0, deadline := 0,
                           req := { w.req with pa := w.req.lockPa, k := .lckAcq } }

/-- A waiting request leaves its object in the object's order: a lock waiter leaves a void ticket, a CND.WAIT lowers the
waiter count or leaves a void ticket on its lock (R284, R288). -/
def State.withdraw (s : State) (w : Waiter) : State :=
  match w.req.k with
  | .lckAcq => s.voidTicket w
  | .cndWait =>
    if w.stage = 1 then s.voidTicket w
    else
      let off := paOff w.req.pa
      let c := s.sspWord w.req.asid off
      (s.sspPut w.req.asid off (setFld c 0 32 (fld c 0 32 - 1))).dropEntry w.no
  | _ => s.dropEntry w.no

/-- An entry whose limit has expired is removed, and its requester traps (R275, R277). -/
def State.expire (s : State) (w : Waiter) : State :=
  let v2 := s.limitWord w.req (TypedKind.donePart w.req.k) (w.req.k == .cndWait && w.stage == 1)
  (s.withdraw w).sspAnswer w.req (.trap 0x0A w.req.va v2)

/-- An entry past its deadline. -/
def State.expired (s : State) (w : Waiter) : Bool :=
  w.kind == .waiter && w.deadline != 0 && decide (w.deadline ≤ s.time.toNat)

/-- WAITER_EXPIRY (R275, R277). -/
def execWaiterExpiry (no : Nat) (s : State) : Out' :=
  match s.waiters.find? fun w => w.no == no with
  | none => .next s
  | some w => if s.expired w then .next (s.expire w) else .next s

/-- An entry lies in the backing area: 2,048 older ones fill its SSP (R274). -/
def State.isSpilled (s : State) (w : Waiter) : Bool :=
  decide (2048 ≤ ((s.waiters.takeWhile fun v => v.no != w.no).filter fun v => v.slice == w.slice).length)

/-- An SSP removes an expired entry within 1,024 ns, and a spilled one within 16,384 ns (R275). -/
def State.overdue (s : State) (w : Waiter) : Bool :=
  s.expired w && decide (w.deadline + (if s.isSpilled w then 16384 else 1024) ≤ s.time.toNat)

/-- The entries whose removal is due by now are removed. -/
def State.expireOverdue (s : State) : State := (s.waiters.filter s.overdue).foldl State.expire s

/-- The entry of a granted put is lost. Data that has been written stays, and the tail passes it in its turn (R287). A position that
others have been reserved behind becomes poison, as R387 has it for data that never comes; the last one is free again. DESIGN CHOICE
(log entry 131). -/
def State.loseGrant (s : State) (w : Waiter) : State :=
  let off := paOff w.req.pa
  let asid := w.req.asid
  let q := s.qAt asid off
  let pos := w.operand.toNat
  let last := (pos + 1) % q.wrap == (q.t + s.reserved off) % q.wrap
  let s' := s.dropEntry w.no
  let s' :=
    if w.written then { s' with ahead := s'.ahead ++ [(off, pos)] }
    else if last then s'
    else { s'.writeSlot asid off q pos 0 true with ahead := s'.ahead ++ [(off, pos)] }
  let s' := s'.qAdvance asid off (s'.waiters.length + s'.ahead.length + 1)
  s'.qServe asid off s'.qFuel

/-- WAITER_ENTRY_LOST (R375, R378): the entry is removed, and its requester traps with UNCORR kind 4. -/
def execWaiterEntryLost (no : Nat) (s : State) : Out' :=
  match s.waiters.find? fun w => w.no == no with
  | none => .next s
  | some w =>
    let lost : Result := .trap 0x12 w.req.va (word (w.req.maj * 2 ^ 8 + 4))
    match w.kind with
    | .waiter => .next ((s.dropEntry no).sspAnswer w.req lost)
    | .granted => .next ((s.loseGrant w).sspAnswer w.req lost)
    | _ => .next (s.dropEntry no)

/-! ### Granted puts (R287) -/

/-- PUT_DATA_REQUEST: the requester's network interface sends the data it holds. -/
def execPutDataRequest (src dst : Node) (s : State) : Out' :=
  onMsg src dst (fun b => match b with | .putAsk slot entry => some (slot, entry) | _ => none)
    (fun m s => s.send dst src (.putData m.2 (s.thread (Node.num dst) m.1).putBuf)) s

/-- PUT_DATA. -/
def execPutData (src dst : Node) (s : State) : Out' :=
  onMsg src dst (fun b => match b with | .putData entry data => some (entry, data) | _ => none)
    (fun m s => s.putArrived m.1 m.2 false) s

/-! ### Network barriers (R295, R296) -/

/-- The NBARs of a group at a core enter their episodes one after another (R295). -/
def State.nbTurns (s : State) (c g : Nat) : State := (List.range 16).foldl (fun s _ => s.nbEnter c g) s

/-- NBAR_NOTIFY: a notification arrives; it is kept until its round, unless its episode has expired here. -/
def execNbarNotify (src dst : Node) (s : State) : Out' :=
  onMsg src dst (fun b => match b with | .nbar g rank round parity => some (g, rank, round, parity) | _ => none)
    (fun m s =>
      let (g, rank, round, parity) := m
      let c := Node.num dst
      let nb := s.nbAt c g
      if nb.drop.contains (parity, round) then s.setNb c g { nb with drop := nb.drop.erase (parity, round) }
      else
        let s := s.setNb c g { nb with kept := nb.kept ++ [(parity, round, rank, s.time.toNat)] }
        (s.nbAdvance c g 11).nbTurns c g) s

/-- WAITLIMIT of an NBAR (R296). -/
def nbLimit (grp : Nat) (reset_ : Bool) (rank round : Nat) : Result :=
  .trap 0x0A (word grp) (word (rank * 2 ^ 16 + b2n reset_ * 2 ^ 8 + round))

/-- The rank an NBAR in its episode awaits. -/
def NbCur.awaited (k : NbCur) : Nat :=
  let n := k.members.length
  (k.rank + n - 2 ^ k.round % n) % n

/-- NBAR_EXPIRY (R296): the core's part in the episode ends, and its next NBAR joins the following episode. -/
def execNbarExpiry (c t : Nat) (s : State) : Out' :=
  if !(coreOk c && slotOk t) then .fault .noSuchPart
  else
    match (s.coreAt c).nb.find? fun e => match e.2.cur with
        | some k => k.slot == t && k.deadline != 0 && decide (k.deadline ≤ s.time.toNat)
        | none => false with
    | none => .next s
    | some (g, nb) =>
      match nb.cur with
      | none => .next s
      | some k =>
        let late := ((List.range (nbRounds k.members.length)).filter fun r =>
          r ≥ k.round && !(nb.kept.any fun e => e.1 == nb.parity && e.2.1 == r)).map fun r => (nb.parity, r)
        let s := s.setNb c g { nb with cur := none, parity := 1 - nb.parity, drop := nb.drop ++ late,
                                       kept := nb.kept.filter fun e => e.1 != nb.parity }
        let s := s.coreReply c t k.id (nbLimit g false k.awaited k.round)
        .next (s.nbTurns c g)

end Sys2Proof.Machine
end

