-- ==== Sys2Proof/Machine/Cancel.lean ====
section
/-! DEFINITION. Cancelling a parked typed operation, and issuing what was recorded in its place (R293). -/

namespace Sys2Proof.Machine

open Sys2Proof

/-- The instruction a word is. -/
def wordInstr (w : Nat) : Option Instr :=
  match decodeWord w with
  | .ok i => some i
  | .error _ => none

/-- An operation that R293 records. -/
def recordable (i : Instr) : Bool :=
  match i with
  | .ldsy .. | .stsy .. | .cntWait .. | .barWait .. | .qGet .. | .qPut .. | .lckAcq .. | .nbar .. => true
  | _ => false

/-- The recorded operation of the performing thread is issued with its recorded values, the data of a Q.PUT among them (R293, R392). -/
def State.reissueOp (s : State) (r : Reissue) : State :=
  match wordInstr r.word with
  | some (.ldsy l _ _ d) => typedOp r.word 59 .ldsy l r.a 0 none (gval d) 0 s 0
  | some (.stsy l _ _ _) => typedOp r.word 59 .stsy l r.a r.b none .none 0 s 0
  | some (.cntWait l _ _ _ d) => typedOp r.word 59 .cntWait l r.a r.b none (gval d) 0 s 0
  | some (.barWait l _ _ _ d) => typedOp r.word 59 .barWait l r.a r.b none (gval d) 0 s 0
  | some (.lckAcq l _ _) => typedOp r.word 59 .lckAcq l r.a 0 none .none 0 s 0
  | some (.qPut l _ _ _) => typedOp r.word 59 .qPut l r.a 0 none .none r.data s 0
  | some (.qGet l _ _ d) => typedOp r.word 59 .qGet l r.a 0 none (.v d) 0 s 0
  | some (.nbar l _ _ d) => nbarOp r.word l r.a d s 0
  | _ => s.modTh fun t => { t with reissue := none }

/-- A recorded operation is due at the thread's next issue. -/
def Thread.reissueDue (t : Thread) : Bool :=
  match t.reissue with
  | some r => r.pc == t.pc && r.intrap == t.intrap
  | none => false

/-- What is recorded for an operation: BAR.WAIT with the phase at arrival for a BAR.ARW that has arrived, LCK.ACQ on the
lock for a CND.WAIT that has begun to wait, the same operation otherwise, a Q.PUT with the data that the network interface holds (R293).
DESIGN CHOICE (log entry 123): the recorded operation keeps the limit of the cancelled one. -/
def Wait.record (w : Wait) (done : Bool) (operand : Word) (pc : Word) (intrap : Bool) (buf : Line) : Reissue :=
  match wordInstr w.word, done with
  | some (.barArw l t a d), true => ⟨wordOf (.barWait l t 0 a d), w.a, operand, pc, intrap, 0⟩
  | some (.cndWait l t _ a), true => ⟨wordOf (.lckAcq l t a), w.b, 0, pc, intrap, 0⟩
  | some (.qPut ..), _ => ⟨w.word, w.a, w.b, pc, intrap, buf⟩
  | _, _ => ⟨w.word, w.a, w.b, pc, intrap, 0⟩

/-- The parked operation of a thread is given up and recorded: the thread is runnable at the recorded operation. -/
def Thread.recordCancel (t : Thread) (w : Wait) (done : Bool) (operand : Word) : Thread :=
  let pc := t.pc + word w.len
  { (t.leaveEmpty w.dst w.id) with
    wait := none, life := .runnable, pc := pc, outs := t.outs.filter fun o => o.id != w.id,
    reissue := some (w.record done operand pc t.intrap t.putBuf) }

/-- The thread that made a typed request. -/
def TypedReq.by (r : TypedReq) (dev core slot id : Nat) : Bool := r.who == .thread ⟨dev, core, slot, id⟩

/-- A request of a typed operation that is still on its way to its SSP. -/
def typedInFlight (dev core slot id : Nat) (m : Msg) : Bool :=
  match m.body with
  | .typed r => r.by dev core slot id
  | _ => false

/-- The waiting entry of a request (R273); a granted put is not cancelled (R293). -/
def State.entryBy (s : State) (dev core slot id : Nat) : Option Waiter :=
  s.waiters.find? fun w => w.kind == .waiter && w.req.by dev core slot id

/-- The SSP removes a cancelled entry in its object's order, and its thread records the operation, or its device is told (R293). -/
def State.cancelEntry (s : State) (e : Waiter) : State :=
  match e.req.who with
  | .thread w =>
    let s := s.withdraw e
    if w.dev = s.devnum then
      match (s.thread w.core w.slot).wait with
      | some p => if p.id = w.id then s.modThread w.core w.slot fun th => th.recordCancel p true e.operand else s
      | none => s
    else
      { s with txn := s.txn + 1, podOut := s.podOut ++ [⟨s.txn + 1, w.dev,
        .reply w.core w.slot w.id (.cancelled e.stage e.shown e.deadline e.operand.toNat), s.time.toNat, false⟩] }
  | .sig .. => s

/-- Cancel the typed request of a thread at this device: its entry, or the entry it will make when it reaches its SSP. An operation
that is answered without one, or whose put is granted, completes (R293). -/
def State.cancelRequest (s : State) (w : Who) : State :=
  match s.entryBy w.dev w.core w.slot w.id with
  | some e => s.cancelEntry e
  | none =>
    if s.net.any (typedInFlight w.dev w.core w.slot w.id) && !s.cancels.contains w then { s with cancels := s.cancels ++ [w] } else s

/-- A request that was cancelled on its way has been performed: its entry is removed at once. -/
def State.cancelDue (s : State) (r : TypedReq) : State :=
  match r.who with
  | .thread w =>
    if s.cancels.contains w then
      let s := { s with cancels := s.cancels.filter (· != w) }
      match s.entryBy w.dev w.core w.slot w.id with
      | some e => s.cancelEntry e
      | none => s
    else s
  | .sig .. => s

/-- SSP_TYPED_REQUEST (R271). -/
def execSspTypedRequest (src dst : Node) (s : State) : Out' :=
  onMsg src dst (fun b => match b with | .typed r => some r | _ => none) (fun r s => (s.sspRequest r).cancelDue r) s

/-- Cancel the parked typed operation of a thread (R293): at its SSP, or by asking the home device of the object. -/
def State.cancelTyped (s : State) (c t : Nat) : State :=
  match (s.thread c t).wait with
  | none => s
  | some w =>
    if w.kind != .typed then s
    else
      match (s.thread c t).outs.find? fun o => o.id == w.id with
      | none => s
      | some o =>
        match o.path with
        | .pod d =>
          let b : PodOut := .request c t w.id (s.thread c t).asid.toNat none .cancel
          if s.podOut.any fun m => m.dev == d && m.body == b then s
          else { s with txn := s.txn + 1, podOut := s.podOut ++ [⟨s.txn + 1, d, b, s.time.toNat, false⟩] }
        | _ => s.cancelRequest ⟨s.devnum, c, t, w.id⟩

/-- Another device has removed the entry of a thread's operation. -/
def State.cancelAnswered (s : State) (c t id : Nat) (operand : Word) : State :=
  match (s.thread c t).wait with
  | some w => if w.kind = .typed && w.id = id then s.modThread c t fun th => th.recordCancel w true operand else s
  | none => s

/-- A parked NBAR is cancelled by pre-emption (R293, R389): it leaves its group's state at its core. -/
def State.cancelNbar (s : State) (c t : Nat) : State :=
  match (s.thread c t).wait with
  | none => s
  | some w =>
    if w.kind != .nbar then s
    else s.modThread c t fun th => th.recordCancel w false 0

end Sys2Proof.Machine
end

