-- ==== Sys2Proof/Machine/Power.lean ====
section
/-! DEFINITION. The power counter of half accesses saved (R59): the g registers that an instruction reads and writes, by R61 to R79
and R84. Which accesses the counter takes is the model's choice (log entry 100). -/

namespace Sys2Proof.Machine

open Sys2Proof

/-- The g registers that a 32-bit instruction reads, and those it writes (R61, R65 to R79). -/
def longUse (w : Nat) : List Nat × List Nat :=
  let a := w / 2 ^ 13 % 64
  let b := w / 2 ^ 19 % 64
  let d := w / 2 ^ 7 % 64
  let f := w / 2 ^ 27
  match w / 2 % 64 with
  | 0x01 | 0x0B | 0x1E | 0x1F => ([a, b], [d])
  | 0x02 | 0x03 | 0x04 | 0x05 | 0x06 | 0x0E | 0x13 | 0x18 | 0x19 | 0x22 | 0x27 | 0x29 | 0x31 => ([a], [d])
  | 0x07 | 0x08 | 0x32 | 0x33 => ([], [d])
  | 0x09 | 0x21 | 0x23 | 0x24 | 0x30 | 0x35 => ([a, b], [])
  | 0x0A | 0x1B | 0x1C | 0x2A | 0x2B | 0x2C | 0x2D | 0x2F | 0x34 => ([a], [])
  | 0x0C => if f = 4 then ([a], []) else if f = 5 then ([], [d]) else ([], [])
  | 0x0D => if f = 1 then ([], [d]) else ([a], [])
  | 0x11 => ([], [1])
  | 0x14 => if f = 4 then ([a, b], [d]) else if f = 5 || f = 9 then ([], [d]) else if f = 8 then ([a], []) else ([], [])
  | 0x15 => if f = 0 then ([a], []) else if f = 3 then ([], [d]) else ([], [])
  | 0x16 => (a :: (if f / 8 = 0 then [b] else []), [])
  | 0x1A => ([a, d], [])
  | 0x1D => (a :: (if f % 4 < 2 then [b] else []), [])
  | 0x20 => (if f < 2 then [] else [a], [])
  | 0x25 | 0x26 | 0x28 => ([a, b], [d])
  | 0x2E => ([a, b], [])
  | 0x36 => if f = 6 then ([a], [d]) else if f = 2 then ([a, b], []) else if f = 1 || f = 3 then ([], []) else ([a], [])
  | 0x3E => if f / 4 = 0 then ([a], []) else if f / 4 = 1 then ([b], [d]) else if f / 4 = 2 then ([a, b], []) else ([], [])
  | 0x3F =>
    if f = 0 then ([], [d]) else if f = 1 then ([d], []) else if f = 5 || f = 6 then ([a, b], []) else
      if f = 9 then ([a], [d]) else ([], [])
  | _ => ([], [])

/-- The g registers that a 16-bit form reads and writes (R84). -/
def shortUse (h : Nat) : List Nat × List Nat :=
  let x := h / 2 ^ 5 % 32
  let y := h / 2 ^ 10 % 64
  match h / 2 % 16 with
  | 0 => ([y], [x])
  | 1 | 2 | 3 | 4 | 5 => ([x, y], [x])
  | 6 | 8 | 9 => ([x], [x])
  | 7 => ([], [x])
  | 10 => ([8 + y % 8], [x])
  | 11 => ([x, 8 + y % 8], [])
  | 15 => ([1], [])
  | _ => ([], [])

/-- The g registers that an instruction reads and writes. -/
def gUse (i : Instr) : List Nat × List Nat := if lengthOf i = 2 then shortUse (wordOf i) else longUse (wordOf i)

/-- The full registers of a list, other than g0, whose tag shows an unchanged upper half (R53, R59). -/
def Thread.halves (t : Thread) (l : List Nat) : Nat :=
  (l.filter fun n => n != 0 && t.gs n == .full && t.tag n != 2).length

/-- The thread's instruction trapped with ILLEGAL or PRIVILEGED, and so updated no count (R87). -/
def refusedAtIssue (before after : Thread) : Bool :=
  match after.life with
  | .stopped c => c == 1 || c == 2
  | _ => !before.intrap && after.intrap && after.trappc == before.pc && after.pc == after.vector
    && (fld after.trapcause 0 8 == 1 || fld after.trapcause 0 8 == 2)

/-- The half accesses that an instruction saves: of the registers it has read, and of those it has written by now. -/
def savedHalves (i : Instr) (before after : Thread) : Nat :=
  let u := gUse i
  if refusedAtIssue before after then 0 else before.halves u.1 + after.halves u.2

end Sys2Proof.Machine
end

