-- ==== Sys2Proof/Machine/Fetch.lean ====
section
/-! DEFINITION. Fetching the next instruction of a thread (R39, R42, R43, R300), PC breakpoints (R397), and one turn of a
core's rotation (R298). -/

namespace Sys2Proof.Machine

open Sys2Proof

/-! ### The fetch buffer -/

/-- A line of the exit page (R336): C.MISC TEXIT stands at its first halfword. -/
def exitLine (va : Word) : Line :=
  let n := va.toNat % 4096 / 64
  if n = 0 then linePut (Config.exitPage 0) 0 2 0x005C else Config.exitPage n

/-- The fetch of a line for a halfword: a trap, a wait, or the buffer filled (R42, R43, R336, R378, R386). -/
def State.refill (s : State) (c t : Nat) (a : Word) : State × Bool :=
  let th := s.thread c t
  let bad (cause : Nat) (v2 : Word) : State × Bool := (s.takeTrap c t cause a v2 th.pc false, false)
  if isMesh a then bad 0x07 (if vaBad a then pfVal2 4 0 else (Config.fetchReason a).setWidth 64)
  else if onExitPage a then
    match permReason false false true true th.smode { x := true } with
    | some why => bad 0x07 (pfVal2 why 1)
    | none => (s.modThread c t fun th => { th with fb := some ⟨word (a.toNat / 64 * 64), exitLine a, 0⟩ }, true)
  else
    match (s.coreAt c).translate th.asid.toNat th.smode a { x := true } with
    | .bad r l => bad 0x07 (pfVal2 r l)
    | .miss => (s.startWalk a { x := true } 4, false)
    | .ok e pa =>
      let p : Place := .glob e (pa / 64 * 64)
      let base := word (a.toNat / 64 * 64)
      if s.gone p then bad 0x12 (word (1 * 2 ^ 16 + 5))
      else
        match s.reclaimHold c [p] with
        | some pte => (s.park (.reclaim pte), false)
        | none =>
        let (s', r) := s.perform p base 0 .fetch .fetch false
        match r with
        | some (.line lv) => (s'.modThread c t fun th => { th with fb := some ⟨base, lv.data, lv.bad⟩ }, true)
        | some _ => (s', false)
        | none => (s'.park (.fetch (s.txn + 1)), false)

/-- A halfword of the fetch buffer; a poisoned one gives UNCORR kind 2 (R378). -/
def State.bufHalf (s : State) (c t : Nat) (b : FetchBuf) (a : Word) : State × Option Nat :=
  if bitOf b.bad (a.toNat % 64 / 8) then (s.takeTrap c t 0x12 a 2 (s.thread c t).pc false, none)
  else (s, some (lineNum b.data (a.toNat % 64) 2))

/-- The halfword at an address: from the buffer, or after a refill. None when the thread trapped or waits. -/
def State.halfAt (s : State) (c t : Nat) (a : Word) : State × Option Nat :=
  match (s.thread c t).fb with
  | some b =>
    if b.base = word (a.toNat / 64 * 64) then s.bufHalf c t b a
    else
      match s.refill c t a with
      | (s, true) => match (s.thread c t).fb with | some b => s.bufHalf c t b a | none => (s, none)
      | (s, false) => (s, none)
  | none =>
    match s.refill c t a with
    | (s, true) => match (s.thread c t).fb with | some b => s.bufHalf c t b a | none => (s, none)
    | (s, false) => (s, none)

/-- The word of the next instruction and its length (R39). The first halfword of one that crosses into the next line is
kept while that line is fetched. -/
def State.fetchWord (s : State) (c t : Nat) : State × Option (Nat × Nat) :=
  let pc := (s.thread c t).pc
  let first : State × Option Nat := match (s.thread c t).half with
    | some (p, h) => if p = pc then (s, some h) else s.halfAt c t pc
    | none => s.halfAt c t pc
  match first with
  | (s, none) => (s, none)
  | (s, some h) =>
    if h % 2 = 0 then (s.modThread c t fun th => { th with half := none }, some (h, 2))
    else
      match (s.modThread c t fun th => { th with half := some (pc, h) }).halfAt c t (pc + 2) with
      | (s, none) => (s, none)
      | (s, some h2) => (s.modThread c t fun th => { th with half := none }, some (h + h2 * 2 ^ 16, 4))

/-! ### Breakpoints (R397) -/

/-- The first PC breakpoint that matches (R397). -/
def Thread.breakpoint (t : Thread) : Option Nat :=
  if t.fresh then none
  else (List.range 4).find? fun i =>
    let b := tget t.brk i 0
    bitOf b 0 && t.pc == word (fld b 1 56 * 2)
      && (fld b 62 2 == 0 || (fld b 62 2 == 1 && !t.smode) || (fld b 62 2 == 2 && t.smode))

/-- BREAK of a PC breakpoint (R399). -/
def State.breakTrap (s : State) (c t n len : Nat) : State :=
  s.takeTrap c t 0x0F (s.thread c t).pc (word (2 ^ 63 + n)) (s.thread c t).pc (len == 2)

/-! ### The next instruction -/

/-- The instruction that a word is, or the event of a word that names nothing (R86). -/
def instrOf (w len : Nat) : Instr :=
  match decodeWord w with
  | .ok i => i
  | .error _ => .wordThatNamesNothing (BitVec.ofNat 32 w) (len == 2)

/-- The thread may go on: it is live and neither waits nor is held. -/
def Thread.runs (t : Thread) : Bool := t.life == .runnable && !t.held

/-- Traps that come before the next instruction (R232, R395): one that fell due during a hold, then a deferred one. -/
def State.takeOwed (s : State) (c t : Nat) : State :=
  match (s.thread c t).owed with
  | some (d, len) =>
    if (s.thread c t).wait.isSome then s
    else (s.modThread c t fun th => { th with owed := none }).takeTrap c t d.cause d.v1 d.v2 (s.thread c t).pc (len == 2)
  | none => if (s.thread c t).takesDeferred then s.takeDeferred c t else s

/-- What the thread was parked for has come. -/
def State.parkDone (s : State) (c t : Nat) : Bool :=
  match (s.thread c t).life with
  | .parked why => s.parkOver c t why
  | _ => true

/-- A recorded operation is issued in place of the next instruction (R392), as the first since an ERET or a release (R397); one
that is not due any more is dropped. -/
def State.takeReissue (s : State) (c t : Nat) (r : Reissue) : State :=
  let s := s.reissueOp r
  if (s.thread c t).wait.isSome then s.modThread c t fun th => { th with reissue := none, fresh := false } else s

/-- A recorded operation that the thread has gone past is dropped. -/
def Thread.dropReissue (t : Thread) : Thread :=
  match t.reissue with
  | some r => if r.intrap == t.intrap && r.pc != t.pc then { t with reissue := none } else t
  | none => t

/-- The thread is to issue an instruction anew: one that was set aside there is none of it any more (log entry 8), nor is a PREF
elsewhere whose walk has failed. -/
def Thread.dropAside (t : Thread) : Thread :=
  { t with aside := t.aside.filter fun a => !(a.pc == t.pc && a.intrap == t.intrap),
           dropped := t.dropped.filter fun a => a == t.pc }

/-- The instruction that parked before it acted, while the thread is still at it (R43, R88). -/
def Thread.kept (t : Thread) : Option Instr := t.fetched.bind fun f => if f.1 = t.pc then some f.2 else none

/-- Where a thread whose wait is over goes on: behind a WAITG, WAITV, WAITK or WFI, which is complete, and at its instruction
otherwise (R301, R359). -/
def Thread.wakePc (t : Thread) : Word :=
  match t.life with
  | .parked (.awaitReg ..) | .parked .wfi => t.pc + 4
  | _ => t.pc

/-- What a parked thread waited for has come: it runs on (R297). -/
def State.wakeUp (s : State) (c t : Nat) : State :=
  if (s.thread c t).wait.isSome || !s.parkDone c t then s
  else s.modThread c t fun th => { th with life := .runnable, pc := th.wakePc }

/-- The parked threads of a core whose condition has been met are runnable from this cycle on, whatever another thread takes before
their turn (R297). -/
def State.wakeParked (s : State) (c : Nat) : State :=
  (tkeys (s.coreAt c).threads).foldl (fun s t => match (s.thread c t).life with
    | .parked _ => s.wakeUp c t
    | _ => s) s

/-- The end of a STEP (R396): the thread is held again; the stop is recorded when STEP is armed, and the thread enters its
handler otherwise, unless its instruction trapped. -/
def State.stepEnd (s : State) (c t : Nat) (trapped : Bool) : State :=
  let th := s.thread c t
  let s := s.setThread c t { th with stepping := false, stepped := none }
  if bitOf th.arm 2 then
    s.modThread c t fun th => { th with held := true, stopInfo := some ⟨0x11, th.pc, 0⟩ }
  else
    let s := if trapped || !th.live then s else s.takeTrap c t 0x11 th.pc 0 th.pc false
    s.modThread c t fun th => { th with held := th.live }

/-- The slot-0 thread of a leader that has executed STRM.END, back at the instruction behind it from a handler while its flight lasts
(R321). -/
def State.streamLeft (s : State) (c t : Nat) : Bool :=
  match t, tget? s.flights c with
  | 0, some f => f.formed && f.left.contains c && !(s.thread c t).intrap
      && (match f.items.getLast? with | some i => i.next == (s.thread c t).pc | none => false)
  | _, _ => false

/-- A thread that is ready begins its next instruction: the end of a STEP, pending traps, the fetch, breakpoints (R88
steps 1 and 2). One that parked before it acted repeats only what follows (R88). A trap taken here ends a STEP (R396). None when no
instruction comes of it. DESIGN CHOICE (log entry 134): an UNCORR of the fetch comes before a PC breakpoint at the same address, as
PFEXEC does. -/
def State.begin_ (s : State) (c t : Nat) : State × Option (Instr × Nat) :=
  let s := ({ s with cur := (c, t) } : State).wakeUp c t
  match (s.thread c t).runs, (s.thread c t).stepped with
  | true, some was => (s.stepEnd c t ((s.thread c t).intrap && !was), none)
  | _, _ =>
    let stepped := (s.thread c t).stepping
    let before := s.thread c t
    let s := s.takeOwed c t
    let th := s.thread c t
    if !th.runs || (stepped && th != before) then (s, none)
    else if s.streamLeft c t then (s.park .streamEnd, none)
    else
      match th.asideDue, th.reissueDue, th.reissue with
      | some a, _, _ => (s.takeAside c t a, none)
      | none, true, some r => (s.takeReissue c t r, none)
      | none, _, _ =>
        let s := s.modThread c t fun th => { th.dropReissue.dropAside with fetched := none }
        match th.kept with
        | some i => (s, some (i, lengthOf i))
        | none =>
          match s.fetchWord c t with
          | (s, none) => (s, none)
          | (s, some (w, len)) =>
            match (s.thread c t).breakpoint with
            | some n => (s.breakTrap c t n len, none)
            | none => (s, some (instrOf w len, len))

/-! ### After an instruction -/

/-- A wait that counts as not having issued (R55, R56, R298), and any wait before the instruction acts. -/
def Park.before : Park → Bool
  | .reply | .awaitReg .. | .wfi | .drain | .lead | .join | .streamEnd => false
  | _ => true

/-- A wait of R88 step 5 (R298). -/
def Park.step5 : Park → Bool
  | .source .. | .dest .. | .destFull .. => true
  | _ => false

/-- The instruction has not acted: its thread is parked before it. -/
def Thread.notIssued (t : Thread) : Bool :=
  match t.life with
  | .parked why => t.wait.isNone && why.before
  | _ => false

/-- A wait whose instruction issues, or goes on without issuing, at its end (R301, R350, R396). -/
def Thread.stepWaits (t : Thread) : Bool :=
  t.awaitsEnd || match t.life with
    | .parked _ => true
    | _ => false

/-- What follows an instruction that has been issued, or has parked (R59, R298, R396, R397). -/
def State.after (s : State) (c t : Nat) (i : Option Instr) (before : Thread) : State :=
  let th := s.thread c t
  if th.notIssued then
    match i with
    | some i => s.setThread c t { th with fetched := some (th.pc, i) }
    | none => s
  else
    let s := match i with
      | some i => (s.modThread c t fun th => { th with fresh := th.fresh && i == .eret }).modCore c fun k =>
          { k with halves := k.halves + savedHalves i before th }
      | none => s
    if !(before.stepping && (s.thread c t).stepping) then s
    else if th.stepWaits then s.modThread c t fun th => { th with stepped := some before.intrap }
    else s.stepEnd c t (th.intrap && !before.intrap)

/-! ### The rotation (R298, R299) -/

/-- The slot may be given the cycle: it takes part in the rotation and has not issued in the last three cycles (R298). -/
def State.eligible (s : State) (c t : Nat) : Bool :=
  s.inTurn c t && match tget? (s.coreAt c).issued t with
    | some n => decide (4 ≤ ((s.coreAt c).cycle - word n).toNat)
    | none => true

/-- The slots in the order of the rotation. -/
def rotation (ptr : Nat) : List Nat := (List.range 16).map fun i => (ptr + i) % 16

/-- A slot that yielded is passed over: some other runnable slot has still to be offered a cycle, and fewer than 2N cycles have
passed (R301). -/
def State.yields (s : State) (c t : Nat) (offered : List Nat) : Bool :=
  let k := s.coreAt c
  match (s.thread c t).yielded with
  | none => false
  | some (n, l) =>
    decide ((k.cycle - word n).toNat < 2 * Part.slots k.part) && l.any fun u => s.inTurn c u && !offered.contains u

/-- The slot that a cycle goes to: the first in turn that may be given it and does not yield it (R298, R301), with the slots
offered the cycle. -/
def State.chooseFrom (s : State) (c : Nat) (offered : List Nat) : List Nat → Option Nat × List Nat
  | [] => (none, offered)
  | t :: r =>
    if s.eligible c t && !s.yields c t offered then (some t, t :: offered) else State.chooseFrom s c (t :: offered) r

/-- The slot that the next cycle of a core goes to. -/
def State.chosen (s : State) (c : Nat) : Option Nat × List Nat := s.chooseFrom c [] (rotation (s.coreAt c).ptr)

/-- The slots offered a cycle no longer hold back one that yielded; the slot that the cycle goes to has used its turn (R301). -/
def State.passOver (s : State) (c : Nat) (x : Option Nat × List Nat) : State :=
  (List.range 16).foldl (fun s t =>
    match (s.thread c t).yielded with
    | none => s
    | some (n, l) =>
      s.modThread c t fun th =>
        { th with yielded := if x.1 == some t then none else some (n, l.filter fun u => !x.2.contains u) }) s

/-- A core cycle passes: KPUTs that are due are written back (R302). -/
def State.tick (s : State) (c : Nat) : State := (s.modCore c fun k => { k with cycle := k.cycle + 1 }).writeBack c

/-- The groups on which an NBAR of a core waits to begin its episode (R295). -/
def Core.nbWaiting (k : Core) : List Nat := (k.nb.filter fun e => e.2.cur.isNone && !e.2.queue.isEmpty).map (·.1)

/-- What comes before each cycle of a core: deliveries that nothing holds are written (R250), an NBAR whose release holds begins
(R295), and parked threads whose condition has been met are runnable (R297). -/
def State.serve (s : State) (c : Nat) : State :=
  let s := s.settlePuts c
  ((s.coreAt c).nbWaiting.foldl (fun s g => s.nbTurns c g) s).wakeParked c

/-- A slot has issued in a cycle: the cycle is noted (R298), and the gap since its last issue is a sample of the core's sheets (R403). -/
def State.noteIssue (s : State) (c t cycle : Nat) : State :=
  let s := match tget? (s.coreAt c).issued t with
    | some n => s.sample (.core c) 8 t (word cycle - word n).toNat
    | none => s
  s.modCore c fun k => { k with issued := tset t cycle k.issued }

/-- The turn of a slot is over: the pointer moves on, and an issue is noted (R298). -/
def State.turnOver (s : State) (c t : Nat) (cycle : Nat) (before : Thread) (i : Option Instr) : State :=
  let s := s.after c t i before
  let th := s.thread c t
  let issued := match th.life with
    | .parked why => !(th.wait.isNone && (why.step5 || i.isNone))
    | _ => true
  (if issued then s.noteIssue c t cycle else s).modCore c fun k => { k with ptr := (t + 1) % 16 }

/-- One core cycle outside a stream: the instruction the cycle issues with the state before it, or the state after a cycle
that issues none. -/
inductive Turn
  | none (s : State)
  | issue (i : Instr) (t : Nat) (before : Thread) (cycle : Nat) (s : State)
  deriving DecidableEq, Repr

/-- The choice of a core cycle. In the stop bath of an SPCFG a core issues nothing (R243). -/
def State.turn (s : State) (c : Nat) : Turn :=
  if !s.liveCore c then .none s
  else if (s.coreAt c).spcfg.isSome || s.alarm.isSome then .none ((s.serve c).tick c)
  else
    let s := s.serve c
    let cycle := (s.coreAt c).cycle.toNat
    let x := s.chosen c
    let s := s.passOver c x
    match x.1 with
    | none => .none (s.tick c)
    | some t =>
      let before := s.thread c t
      match s.begin_ c t with
      | (s, some (i, _)) => .issue i t (s.thread c t) cycle s
      | (s, none) => .none ((s.turnOver c t cycle before none).tick c)

/-- A cycle of the rotation of a core, of which no event comes. -/
def State.rotate (s : State) (ex : Instr → State → Out') (c : Nat) : State :=
  match s.turn c with
  | .none s => s
  | .issue i t before cycle s =>
    match ex i s with
    | .next s' => (s'.turnOver c t cycle before (some i)).tick c
    | _ => s

/-! ### Time and the agenda -/

/-- An event, as against an encoded instruction, which only a thread performs. -/
def isEvent (i : Instr) : Bool :=
  match i with
  | .wordThatNamesNothing .. => false
  | i => (encode i).isNone

/-- A core outside any stop bath, alarm or flight whose slot 0 is a live S-mode thread with nothing pending; its fetch
buffer holds the instruction at the pc (log entry 20). -/
def Thread.placed (t : Thread) (nbits w : Nat) : Thread :=
  let pc := word (t.pc.toNat / 64 * 64)
  { t with life := .runnable, held := false, pc := pc, status := setBit (setBit t.status 0 true) 2 false,
           fb := some ⟨pc, BitVec.ofNat 512 (w % 2 ^ nbits), 0⟩, half := none, fetched := none, walk := none, wait := none, owed := none,
           deferred := [], aside := [], dropped := none, brk := [], yielded := none, stepping := false, stepped := none, reissue := none }

/-- The instruction with the bits `w` is the next that the core in focus fetches and performs. -/
def State.placeWord (s : State) (nbits w : Nat) : State :=
  let c := s.focus
  let k := s.coreAt c
  { s.setCore c { k with fenced := false, spcfg := none, repart := none, flight := none, ptr := 0, issued := [],
                         threads := tset 0 ((s.thread c 0).placed nbits w) k.threads } with
    agenda := [], alarm := none }

/-- WORD_THAT_NAMES_NOTHING (R40, R86, R87): ILLEGAL. -/
def execWordThatNamesNothing (w : BitVec 32) (short : Bool) (s : State) : Out' :=
  .next (s.illegal (if short then w.toNat % 2 ^ 16 else w.toNat) (if short then 2 else 4))

end Sys2Proof.Machine
end

