-- ==== Sys2Proof/Machine/Flights.lean ====
section
/-! DEFINITION. Flights (R308 to R324): formation, the stream cycle, freezes, stream faults, and the end of a stream. A
stream cycle issues one wavefront: every core's step k with one sum k + dx + dy (R313). -/

namespace Sys2Proof.Machine

open Sys2Proof

/-! ### Formation (R310) -/

/-- STREAMFAULT in the slot-0 thread of a core (R320). A thread that is held takes it when it next issues (R395), and one
whose step still awaits its reply when the step is complete (R319). -/
def State.streamFault0 (s : State) (c reason cause : Nat) (v : Word) (pc : Word) : State :=
  let th := s.thread c 0
  let v2 := word (cause * 2 ^ 8 + reason)
  if th.wait.isSome then s.setThread c 0 { th with owed := some (⟨0x13, v, v2⟩, 4) }
  else
    let s := s.setThread c 0 { th with walk := none, life := .runnable, pc := pc, fetched := none }
    if th.held then s.modThread c 0 fun th => { th with owed := some (⟨0x13, v, v2⟩, 4) }
    else s.takeTrap c 0 0x13 v v2 pc false

/-- A formation fault: the flight is given up and its leader traps (R310). -/
def State.formFault (s : State) (leader reason v : Nat) : State :=
  (s.dropForming leader).streamFault0 leader reason 0 (word v) (s.thread leader 0).pc

/-- A request arrives at a core (R310): it is refused, or waits there, or is accepted at once. -/
def State.joinArrive (s : State) (c l : Nat) : State :=
  if s.refuses c l then s.formFault l 3 c
  else
    let s := s.modCore c fun k => { k with joins := k.joins ++ [l] }
    if (s.thread c 0).life = .parked .join && !s.hasAccepted c then s.acceptNext c else s

/-- JOIN_REQUEST (R310): the oldest request of the channel; when there is none, one of that leader that waits at the core and that
the core refuses by now. -/
def execJoinRequest (src dst : Node) (s : State) : Out' :=
  if !chanOk src dst then .fault .noSuchPart
  else
    let c := Node.num dst
    let l := Node.num src
    match s.pop src dst (fun b => match b with | .join l => some l | _ => none) with
    | some (l, s') => .next (s'.joinArrive c l)
    | none =>
      if src == .core l && dst == .core c && (s.coreAt c).joins.contains l && s.refuses c l then .next (s.formFault l 3 c)
      else .next s

/-- STREAMPOS of a core at formation (R322). -/
def posOf (f : Flight) (leader c : Nat) : Word :=
  let (dx, dy) := flightPos leader c
  word (2 ^ 63 + b2n (c = leader) * 2 ^ 62 + f.w * 2 ^ 48 + f.h * 2 ^ 44 + dy * 2 ^ 40 + dx * 2 ^ 36)

/-- FLIGHT_FORM (R310, R311): every core has accepted; all run at the span clock from one edge. -/
def execFlightForm (leader : Nat) (s : State) : Out' :=
  if !coreOk leader then .fault .noSuchPart
  else
    match tget? s.flights leader with
    | none => .next s
    | some f =>
      let l := f.cores leader
      if f.formed || !(l.all fun c => f.accepted.contains c && s.liveCore c) then .next s
      else
        let clock := l.foldl (fun m c => min m (s.tested c)) (s.tested leader)
        let start := (s.thread leader 0).pc + 4
        let s1 : State := { s with flights := tset leader { f with formed := true, clock := clock, start := start } s.flights }
        let s1 := l.foldl (fun s c => (s.modCore c fun k => { k with flight := some leader, spos := posOf f leader c }).modThread
          c 0 fun t => { t with life := .runnable }) s1
        .next (State.noteFreq s (s1.modThread leader 0 fun t => { t with pc := start }) l)

/-- FORMATION_TIMEOUT (R310). -/
def execFormationTimeout (leader : Nat) (s : State) : Out' :=
  if !coreOk leader then .fault .noSuchPart
  else
    match tget? s.flights leader with
    | none => .next s
    | some f =>
      if f.formed || f.deadline = 0 || s.time.toNat < f.deadline then .next s
      else
        match (f.cores leader).find? fun c => !f.accepted.contains c with
        | none => .next s
        | some c => .next (s.formFault leader 4 c)

/-! ### Items (R312, R315, R318) -/

/-- A control transfer: one bubble follows it (R315). -/
def isBranch (i : Instr) : Bool :=
  match i with
  | .br .. | .jal .. | .brp .. | .jalr .. | .cBr .. | .cBrp .. | .cRet => true
  | _ => false

/-- An instruction a stream never carries (R318). -/
def streamNever (i : Instr) : Bool :=
  match i with
  | .yield | .cMiscYield | .texit | .cMiscTexit | .tspawn .. | .repart .. | .strmLead .. | .strmJoin | .spcfg ..
  | .eret | .wfi => true
  | _ => false

/-- The cores that still issue steps: they have neither left nor raised a fault. -/
def Flight.active (f : Flight) (leader : Nat) : List Nat :=
  (f.cores leader).filter fun c => !f.left.contains c && !f.origins.contains c

/-- The stream address of a step: of its item, or where the stream goes on (R319). -/
def Flight.addr (f : Flight) (k : Nat) : Word :=
  match f.items[k]? with
  | some i => i.pc
  | none => match f.items.getLast? with | some i => i.next | none => f.start

/-- The cores that have a step to issue: the leader, and those its items have reached (R312, R319). -/
def Flight.supplied (f : Flight) (leader : Nat) : List Nat :=
  (f.active leader).filter fun c => c == leader || decide (tget f.steps c 0 < f.items.length)

/-- The wavefront that is due. -/
def Flight.due (f : Flight) (leader : Nat) : Option Nat :=
  (f.supplied leader).foldl (fun m c =>
    let w := waveOf leader c (tget f.steps c 0)
    match m with | some v => some (min v w) | none => some w) none

/-- A flight changed by a function. -/
def State.modFlight (s : State) (l : Nat) (g : Flight → Flight) : State :=
  match tget? s.flights l with
  | some f => { s with flights := tset l (g f) s.flights }
  | none => s

/-! ### Deliveries inside a flight (R317) -/

/-- Requests that wait between two cores up to the next delivery of the stream arrive in their order. -/
def State.streamPuts (s : State) (c : Nat) : Nat → State
  | 0 => s
  | f + 1 =>
    let due := s.net.find? fun m => m.dst == .core c && (match m.body with | .rput _ _ _ _ _ (some _) => true | _ => false)
    match due with
    | none => s
    | some d =>
      let first := s.net.find? fun m => m.src == d.src && m.dst == d.dst &&
        (match m.body with | .rput .. | .mesh .. => true | _ => false)
      match first with
      | none => s
      | some m =>
        let s' := { s with net := s.net.erase m }
        match m.body, selPut m.body with
        | _, some p => State.streamPuts (s'.putArrive c p) c f
        | .mesh who off a, none => State.streamPuts (s'.meshPerform c who off a) c f
        | _, none => s

/-! ### One step of one core (R312, R315) -/

/-- The outcome of a step: it is executed, or it is not ready and this is what its core has begun for it. -/
inductive StepRes
  | ran (s : State) (item : Option Item)
  | held (s : State)
  deriving DecidableEq, Repr

/-- The state an instruction answers; the encoded instructions have no other outcome. -/
def outState (o : Out') (s : State) : State := match o with | .next s => s | _ => s

/-- Slot 0 may take its step: neither held nor waiting (R316, R324). -/
def State.stepReady (s : State) (c : Nat) : Bool :=
  let t := s.thread c 0
  !t.held && (t.owed.isSome || s.ready c 0)

/-- A core performs an instruction of the stream at an address; `next` is where the leader has it go on. -/
def State.streamInstr (s : State) (ex : Instr → State → Out') (c : Nat) (i : Instr) (next : Word) : State :=
  let s1 := { s with cur := (c, 0), stream := some next }
  let before := s1.thread c 0
  let s2 := outState (ex i s1) s1
  { s2.after c 0 (some i) before with stream := none }

/-- A trap that is due at a step is taken in its place (R319). -/
def State.streamOwed (s : State) (c : Nat) : State :=
  { ({ s with stream := some 0 } : State).takeOwed c 0 with stream := none }

/-- A step of a core other than the leader: the item at its own state. A trap that an earlier step of the core owes is taken at that
step, which counts as not executed (R319); a step woken from step 5 of R88 passes no breakpoint again. -/
def State.followStep (s : State) (ex : Instr → State → Out') (c : Nat) (item : Item) : StepRes :=
  if !s.stepReady c then .held s
  else
    let s := s.wakeUp c 0
    let th := s.thread c 0
    let earlier := th.awaitsEnd || th.owed.isSome
    let s := if earlier then s else s.modThread c 0 fun t => { t with pc := item.pc, life := .runnable }
    let s1 := s.streamOwed c
    if s1.thread c 0 != s.thread c 0 then .ran s1 none
    else
      match item.instr with
      | none => .ran s none
      | some i =>
        let kept := (s.thread c 0).kept.isSome
        let s := s.modThread c 0 fun t => { t with fetched := none }
        match if kept then none else (s.thread c 0).breakpoint with
        | some n =>
          .ran { ({ s with stream := some item.next } : State).breakTrap c 0 n (if item.short then 2 else 4) with stream := none } none
        | none =>
          let s' := s.streamInstr ex c i item.next
          if (s'.thread c 0).notIssued then .held s' else .ran s' none

/-- Where the stream goes on after an instruction of its leader: past one that awaits its end (R316), or one that trapped. -/
def Thread.streamNext (t : Thread) (pc : Word) (len : Nat) (trapped : Bool) : Word :=
  if trapped || t.awaitsEnd then pc + word len else t.pc

/-- The item a leader issues next: a bubble after a branch, or its next instruction. A word that a stream never carries raises
STREAMFAULT reason 5 as the leader decodes it, before any check of its issue (R318; log entry 99). -/
def State.leadStep (s : State) (ex : Instr → State → Out') (l : Nat) (f : Flight) : StepRes :=
  if !s.stepReady l then .held s
  else
    let s := s.wakeUp l 0
    let bubble := match f.items.getLast? with
      | some it => (match it.instr with | some i => isBranch i | none => false)
      | none => false
    let pc := (s.thread l 0).pc
    let s0 := s.streamOwed l
    if s0.thread l 0 != s.thread l 0 then .ran s0 none
    else if bubble then .ran s (some ⟨pc, 0, false, none, pc⟩)
    else
      match ({ s with stream := some 0 } : State).begin_ l 0 with
      | (s1, none) =>
        let s1 := { s1 with stream := none }
        let t := s1.thread l 0
        if t.notIssued || (t.held && !(tget s1.flights l f).origins.contains l) then .held s1 else .ran s1 none
      | (s1, some (i, len)) =>
        if streamNever i then
          .ran { s1.takeTrap l 0 0x13 (word (wordOf i)) 5 pc (len == 2) with stream := none } none
        else
          let s2 := { s1 with stream := none }.streamInstr ex l i 0
          let t := s2.thread l 0
          if t.notIssued then .held s2
          else
            let trapped := (tget s2.flights l f).origins.contains l
            if trapped && (match i with | .jalr .. | .cRet => true | _ => false) then .ran s2 none
            else .ran s2 (some ⟨pc, wordOf i, len == 2, some i, t.streamNext pc len trapped⟩)

/-- The step that is due at a core. -/
def State.coreStep (s : State) (ex : Instr → State → Out') (l c : Nat) : StepRes :=
  match tget? s.flights l with
  | none => .held s
  | some f =>
    let k := tget f.steps c 0
    match f.items[k]? with
    | some item => if c = l then s.leadStep ex l f else s.followStep ex c item
    | none => if c = l then s.leadStep ex l f else .held s

/-- A core has executed its step: STREAMPOS.STEP rises, unless the step raised a fault (R319, R322). -/
def State.stepped (s : State) (l c : Nat) : State :=
  match tget? s.flights l with
  | none => s
  | some f =>
    if f.origins.contains c then s
    else
      let k := tget f.steps c 0 + 1
      (s.modFlight l fun f => { f with steps := tset c k f.steps }).modCore c fun q => { q with spos := setFld q.spos 0 32 k }

/-- One step of one core applied; it is an issue of slot 0 (R298). -/
def State.applyStep (s : State) (ex : Instr → State → Out') (l c : Nat) : State :=
  match s.coreStep ex l c with
  | .ran s' item =>
    let s' := s'.noteIssue c 0 (s'.coreAt c).cycle.toNat
    let s' := match item with
      | some it => s'.modFlight l fun f => { f with items := f.items ++ [it] }
      | none => s'
    s'.stepped l c
  | .held s' => s'

/-- Whether the step due at a core can issue. -/
def StepRes.issues : StepRes → Bool
  | .ran .. => true
  | .held _ => false

/-! ### A span-clock cycle (R313, R314, R316) -/

/-- Cycles of a core's rotation, at each of some cores. -/
def State.rotateAll (s : State) (ex : Instr → State → Out') (cs : List Nat) : State := cs.foldl (fun s c => s.rotate ex c) s

/-- A stream cycle: the wavefront that is due issues at every core it has reached, and the others give the cycle to their rotation;
when one of its steps is not ready, the flight freezes, what those steps have begun goes on, and the cycle goes to the rotation
(R314, R316). A step is judged at its own cycle (log entry 143). -/
def State.wavefront (s : State) (ex : Instr → State → Out') (l w : Nat) (f : Flight) (cs : List Nat) : State :=
  let front := (f.supplied l).filter fun c => waveOf l c (tget f.steps c 0) == w
  let stuck := front.filter fun c => !(s.coreStep ex l c).issues
  if stuck.isEmpty then
    let s := front.foldl (fun s c => (s.applyStep ex l c).tick c) s
    (s.rotateAll ex (cs.filter fun c => !front.contains c)).modFlight l fun f => { f with odd := true }
  else
    let s := (stuck.foldl (fun s c => s.applyStep ex l c) s).modFlight l fun f => { f with frozen := true, calm := 0 }
    s.rotateAll ex cs

/-- No core of a flight holds it (R316, R324). -/
def State.unheld (s : State) (l : Nat) (f : Flight) : Bool := (f.supplied l).all fun c => s.stepReady c

/-- One span-clock cycle of a formed flight, at every core that has not left it. Every second cycle that is not frozen is a
stream cycle; the others go to the rotations (R314). A freeze ends 8 cycles after the last core drops HOLD (R316), and from 8 cycles
after a stream fault no step issues (R319), which a fault that ends the freeze leaves none (R407). -/
def State.streamCycle (s : State) (ex : Instr → State → Out') (l : Nat) : State :=
  match tget? s.flights l with
  | none => s
  | some f =>
    if !f.formed then s
    else
      let cs := (f.cores l).filter fun c => !f.left.contains c
      let s := cs.foldl (fun s c => ((s.streamPuts c (s.net.length + 1)).settlePuts c).wakeParked c) s
      let f := { f with frozen := f.frozen && !(decide (8 ≤ f.calm) && s.unheld l f) }
      let s := s.modFlight l fun _ => f
      let stopped := s.alarm.isSome || (f.due l).isNone || f.stop == some 0
      let s :=
        if f.frozen then
          s.rotateAll ex cs |>.modFlight l fun g => { g with calm := if s.unheld l f then f.calm + 1 else 0 }
        else if f.odd || stopped then (s.rotateAll ex cs).modFlight l fun g => { g with odd := false }
        else s.wavefront ex l ((f.due l).getD 0) f cs
      s.modFlight l fun g => { g with stop := g.stop.map (· - 1) }

/-- FREEZE_END (R316): 8 cycles have passed since a core of the flight last held. -/
def execFreezeEnd (leader : Nat) (s : State) : Out' :=
  if !coreOk leader then .fault .noSuchPart
  else
    match tget? s.flights leader with
    | none => .next s
    | some f =>
      if f.frozen && decide (8 ≤ f.calm) && s.unheld leader f then
        .next (s.modFlight leader fun f => { f with frozen := false })
      else .next s

/-! ### The end of a flight (R319, R321) -/

/-- Every core leaves a flight that ends by a fault: the slot-0 threads named take STREAMFAULT, and the flight is gone. -/
def State.endFlight (s : State) (l reason cause v : Nat) (spare : Nat → Bool) : State :=
  match tget? s.flights l with
  | none => s
  | some f =>
    let cores := f.cores l
    let s := (cores.filter fun c => !f.left.contains c).foldl (fun s c => s.leaveFlight l c) s
    let parked := cores.filter fun c => !spare c && (!f.left.contains c || (c = l && (s.thread c 0).life = .parked .streamEnd))
    let s := parked.foldl (fun s c =>
      if (s.thread c 0).live then
        s.streamFault0 c reason cause (word v) (if f.left.contains c then (s.thread c 0).pc else f.addr (tget f.steps c 0))
      else s) s
    { cores.foldl (fun s c => s.settlePuts c) s with flights := tdel l s.flights }

/-- FLIGHT_ABORT (R319): the eight cycles after the fault have passed, and the steps that were issued are complete. -/
def execFlightAbort (leader : Nat) (s : State) : Out' :=
  if !coreOk leader then .fault .noSuchPart
  else
    match tget? s.flights leader with
    | none => .next s
    | some f =>
      let complete := (f.active leader).all fun c => (s.thread c 0).wait.isNone
      match f.origins with
      | [] => .next s
      | o :: _ => if f.stop == some 0 && complete then .next (s.endFlight leader 6 f.cause o f.origins.contains) else .next s

/-- FLIGHT_END (R321): every core has executed STRM.END. -/
def execFlightEnd (leader : Nat) (s : State) : Out' :=
  if !coreOk leader then .fault .noSuchPart
  else
    match tget? s.flights leader with
    | none => .next s
    | some f =>
      if f.formed && ((f.cores leader).all fun c => f.left.contains c) then
        .next (({ s with flights := tdel leader s.flights }).modThread leader 0 fun t =>
          if t.life = Life.parked .streamEnd then { t with life := .runnable } else t)
      else .next s

end Sys2Proof.Machine
end

