-- ==== Sys2Proof/Machine/Device.lean ====
section
/-! DEFINITION. Bring-up (R38), time (R330), clocks (R31, R37), the group table (R342), changes in stop bath (R243, R307),
and the doorbell (R351). -/

namespace Sys2Proof.Machine

open Sys2Proof

/-- The device works: bring-up has finished (R38) and no alarm has been raised (R374). -/
def State.up (s : State) : Bool := s.bring == 8 && s.alarm.isNone

/-! ### Bring-up (R27 to R30, R33, R38) -/

/-- A fuse entry that a position can hold (R27, R29). -/
def fuseOk (e : BitVec 32) : Bool :=
  if bitOf e 31 then
    fld e 26 5 == 0 && decide (fld e 24 2 ≤ 2) && fld e 16 8 == 0 && decide (2450 ≤ fld e 0 16)
      && decide (fld e 0 16 ≤ 3100) && fld e 0 16 % 25 == 0
  else e == 0

/-- Entry 768 of the speed table (R30). -/
def fuseSummary (l : List (BitVec 32)) : BitVec 32 :=
  let live := l.filter fun e => bitOf e 31
  BitVec.ofNat 32 (live.length * 2 ^ 22 + live.foldl (fun a e => a + fld e 0 16) 0)

/-- The fuses of a package that is shipped (R18, R27). -/
def fusesOk (f : Fuses) : Bool :=
  f.speed.length == 768 && f.speed.all fuseOk && decide (736 ≤ fld (fuseSummary f.speed) 22 10)
    && decide (1987000 ≤ fld (fuseSummary f.speed) 0 22)

/-- COLD_RESET (R38 steps 1 to 5): everything starts anew but the configuration area of the SPI flash (R33) and the model's
own agenda. -/
def execColdReset (f : Fuses) (s : State) : Out' :=
  if !fusesOk f then .fault .noSuchPart
  else
    .next { State.reset with
      speed := f.speed ++ [fuseSummary f.speed],
      bypass := (List.range 768).filter fun c => !bitOf (f.speed.getD c 0) 31,
      boots := s.boots + 1, mgmt := { stored := s.mgmt.stored }, agenda := s.agenda, focus := s.focus }

/-- Bring-up stands before a step: no step has failed, and no alarm has been raised (R38, R374). -/
def State.before (s : State) (step : Nat) : Bool := s.bring + 1 == step && s.bringFail.isNone && s.alarm.isNone

/-- A bring-up step fails (R38): one that COLD_RESET performs, found when it ends, or a later one that is due. The cores stay in
reset, and no further step is taken. -/
def State.bringFails (s : State) (step cause : Nat) : State :=
  if (s.before step && decide (step ≤ 8)) || (s.before 6 && decide (1 ≤ step ∧ step ≤ 5)) || (s.before 7 && step == 8) then
    { s with bringFail := some (step, cause), rootKey := s.rootKey && decide (5 < step) }
  else s

/-- PTP_FIRST_LOCK (R38 step 6, R330). -/
def execPtpFirstLock (ns : Word) (s : State) : Out' :=
  if s.before 6 then .next { s with time := ns, frac := 0, ppm := 0, locked := true, bring := 6 } else .next s

/-- BRING_UP_RELEASE (R38 steps 7 and 8): DEVNUM from the configuration area; without a number there the step waits. -/
def execBringUpRelease (s : State) : Out' :=
  match s.mgmt.stored with
  | none => .next s
  | some n =>
    if s.before 7 then
      .next { s with devnum := n, bring := 8, groups := [], tt := [], cores := [] }
    else .next s

/-- A rate held within a bound. -/
def clampInt (b i : Int) : Int := if i < -b then -b else if i > b then b else i

/-- PTP_MESSAGE (R330): the servo corrects TIME by frequency alone, at most 200 ppm away from nominal. -/
def execPtpMessage (ppm : Int) (s : State) : Out' :=
  if s.locked && s.alarm.isNone then .next { s with ppm := clampInt 200 ppm, holdover := false } else .next s

/-- GRANDMASTER_LOSS (R330): TIME runs on the module oscillator within 10 ppm. -/
def execGrandmasterLoss (s : State) : Out' :=
  if s.locked && s.alarm.isNone then
    .next { s with ppm := clampInt 10 (Config.oscillator s.txn), holdover := true, txn := s.txn + 1 }
  else .next s

/-! ### Clocks (R31, R37) and the doorbell (R351) -/

/-- The cores whose clock follows a core's: those of its flight (R31, R311). -/
def State.clocked (s : State) (c : Nat) : List Nat :=
  match (s.coreAt c).flight with
  | some l => match tget? s.flights l with | some f => f.cores l | none => [c]
  | none => [c]

/-- Management allows a core a frequency. -/
def State.setFreq (s : State) (c mhz : Nat) : State :=
  State.noteFreq s (s.modCore c fun k => { k with mhz := if mhz = s.tested c then none else some mhz }) (s.clocked c)

/-- FREQ_CHANGE (R31): a multiple of 25 MHz from 1,500 MHz to the tested frequency. -/
def execFreqChange (c mhz : Nat) (s : State) : Out' :=
  if !coreOk c then .fault .noSuchPart
  else if s.up && s.liveCore c && mhz % 25 = 0 && decide (1500 ≤ mhz) && decide (mhz ≤ s.tested c) then
    .next (s.setFreq c mhz)
  else .next s

/-- DIE_THROTTLE (R37): every live core of the die is lowered by 25 MHz. -/
def execDieThrottle (d : Nat) (s : State) : Out' :=
  if 4 ≤ d then .fault .noSuchPart
  else if s.up then
    .next (((List.range 768).filter fun c => dieOf c == d && s.liveCore c).foldl (fun s c =>
      if 1525 ≤ s.allowed c then s.setFreq c (s.allowed c - 25) else s) s)
  else .next s

/-- A bit of INTPEND is set in every live thread of a core (R351). -/
def Core.post (k : Core) (bit : Nat) : Core :=
  { k with threads := k.threads.map fun e =>
      (e.1, if e.2.live then { e.2 with intpend := setBit e.2.intpend bit true } else e.2) }

/-- FIRMWARE_DOORBELL (R351). -/
def execFirmwareDoorbell (c : Nat) (s : State) : Out' :=
  if !coreOk c then .fault .noSuchPart else .next (s.modCore c fun k => k.post 0)

/-! ### The group table (R340 to R342) -/

/-- A map with the bits of dead positions cleared. -/
def State.mapOf (s : State) (ws : List Word) : BitVec 768 :=
  let m := BitVec.ofNat 768 (ws.foldr (fun w acc => w.toNat + acc * 2 ^ 64) 0)
  (List.range 768).foldl (fun m c => if s.present c then m else setBit m c false) m

/-- Groups a core belongs to. -/
def State.groupCount (s : State) (c : Nat) : Nat := (s.groups.filter fun g => bitOf g.2 c).length

/-- The NBAR state of a group is reset at a core: each NBAR there traps with WAITLIMIT and bit 8 (R296). DESIGN CHOICE (log entry 128): so do
NBARs of other launches when a pre-emption resets the state (R293). -/
def State.nbReset (s : State) (c g : Nat) : State :=
  let nb := s.nbAt c g
  let s := s.modCore c fun k => { k with nb := tdel g k.nb }
  let s := match nb.cur with
    | some k => s.coreReply c k.slot k.id (nbLimit g true k.awaited k.round)
    | none => s
  nb.queue.foldl (fun s q => s.coreReply c q.slot q.id (nbLimit g true 0 0)) s

/-- A notification of a group. -/
def nbarOf (g : Nat) (m : Msg) : Bool :=
  match m.body with
  | .nbar h _ _ _ => h == g
  | _ => false

/-- The NBAR state of a group is reset at cores, and its notifications on their way are discarded. -/
def State.nbResetAll (s : State) (g : Nat) (l : List Nat) : State :=
  l.foldl (fun s c => s.nbReset c g) { s with net := s.net.filter fun m => !nbarOf g m }

/-- The live core of lowest number that a map would put into a fifth group (R342). -/
def State.fifthGroup (s : State) (g : Nat) (ws : List Word) : Option Nat :=
  let old := tget s.groups g 0
  let new := s.mapOf ws
  (List.range 768).find? fun c => s.liveCore c && bitOf new c && s.groupCount c - b2n (bitOf old c) ≥ 4

/-- A group entry takes a map (R342): GROUPS of each core that joins or leaves, and the NBAR state of old and new members. -/
def State.setGroup (s : State) (g : Nat) (ws : List Word) : State :=
  let old := tget s.groups g 0
  let new := s.mapOf ws
  let s := { s with groups := if new = 0 then tdel g s.groups else tset g new s.groups }
  let s := ((List.range 768).filter fun c => bitOf old c != bitOf new c).foldl (fun s c => s.modCore c fun k => k.post 2) s
  s.nbResetAll g ((List.range 768).filter fun c => bitOf old c || bitOf new c)

/-- The dispatch unit performs a GRPSET (R342): the check of four groups, then the new entry. -/
def State.grpset (s : State) (who : Who) (g : Nat) (ws : List Word) : State :=
  match s.fifthGroup g ws with
  | some c => s.answer .dispatch who (.trap 0x0B (word g) (word (c * 2 ^ 16 + 9)))
  | none => (s.setGroup g ws).answer .dispatch who .done

/-- The management firmware writes a group entry through the same unit with the same checks (R342). -/
def State.firmwareGroup (s : State) (g : Nat) (ws : List Word) : State :=
  if s.up && decide (g < 256) && (s.fifthGroup g ws).isNone then s.setGroup g ws else s

/-- GRPSET_PERFORM (R342). -/
def execGrpsetPerform (src dst : Node) (s : State) : Out' :=
  onMsg src dst (fun b => match b with | .grpset who g ws => some (who, g, ws) | _ => none)
    (fun m s => s.grpset m.1 m.2.1 m.2.2) s

/-! ### SPCFG (R243) -/

/-- Bytes of a destination row (R253). -/
def Desc.dstBytes (d : Desc) : Nat :=
  match d.op with
  | 0 => d.len
  | 1 => d.len * codeBytes d.dcode
  | 2 => rowStride (tyOf d.dcode) d.len
  | 3 => d.len * 16
  | _ => d.len * 12

/-- The first byte of a range that lies in ways a core gives up. -/
def State.inWays (s : State) (c limit : Nat) (va : Word) (n : Nat) : Option Word :=
  if !isMesh va then none
  else
    match meshTarget s.devnum c va with
    | some (dev, x, y, off) =>
      if dev = s.devnum && y * 32 + x = c && off + n > limit then some (va + word (limit - off)) else none
    | none => none

/-- The first byte of a copy command in ways its core gives up. -/
def State.copyInWays (s : State) (c limit : Nat) (m : CopyCmd) : Option Word :=
  let d := descOf m.x
  let rows := (List.range d.rows).findSome? fun (j : Nat) =>
    match s.inWays c limit (d.src + wordI (j * d.sstr)) d.srcBytes with
    | some a => some a
    | none => s.inWays c limit (d.dst + wordI (j * d.dstr)) d.dstBytes
  match rows with
  | some a => some a
  | none => if tget m.x 5 0 = 0 then none else s.inWays c limit (tget m.x 5 0) 64

/-- The thread that waits in stop bath goes on behind its SPCFG. -/
def State.drained (s : State) (c t : Nat) : State :=
  s.modThread c t fun th => if th.life = .parked .drain then { th with life := .runnable, pc := th.pc + 4 } else th

/-- Lines of a core's L1 leave it, the least recently used first, until every set fits its places (R25). -/
def State.fitL1 (s : State) (c : Nat) : State :=
  let k := s.coreAt c
  let rest := (k.l1.map (·.1)).filter fun l => !k.lru.contains l
  (k.lru ++ rest).foldl (fun s line =>
    match (s.coreAt c).lineAt line with
    | some l => if l.st.placed && (s.coreAt c).setFull line then s.evictLine c line else s
    | none => s) s

/-- The scratchpad of a core takes a size (R243 step 4): ways that leave lose their content; when ways join, the lines they hold,
which the event names, leave the L1 with what no longer fits. -/
def State.resize (s : State) (c w : Nat) (evicted : List Nat) : State :=
  let k := s.coreAt c
  if w < k.ways then
    s.setCore c { k with ways := w, spm := k.spm.filter (fun e => decide (e.1 < w * 131072)),
                         spmBad := k.spmBad.filter (fun i => decide (i < w * 16384)) }
  else if k.ways < w then
    ((evicted.foldl (fun s line => s.evictLine c line) s).modCore c fun k => { k with ways := w }).fitL1 c
  else s

/-- SPCFG_APPLY (R243 steps 3 to 5): the drains are over; writes that a finished command still makes (R214) are part of them. The
scratchpad grows once no line of the L1 awaits an upgrade, so that every line can leave its way (log entry 90). -/
def execSpcfgApply (c : Nat) (evicted : List Nat) (s : State) : Out' :=
  if !coreOk c then .fault .noSuchPart
  else
    match (s.coreAt c).spcfg with
    | none => .next s
    | some (t, w) =>
      let running := match (s.coreAt c).cq with | m :: _ => m.run.isSome | [] => false
      let upgrading := decide ((s.coreAt c).ways < w) && (s.coreAt c).l1.any fun e => e.2.st == .sm || e.2.st == .om
      if running || upgrading || !(s.coreAt c).mq.isEmpty || !(s.coreAt c).lateq.isEmpty then .next s
      else
        let old := (s.coreAt c).ways
        let stop (m : CopyCmd) : CopyCmd :=
          if w < old then
            match s.copyInWays c (w * 131072) m with
            | some a => { m with run := some { stop := some (a, 20) } }
            | none => m
          else m
        let s := s.modCore c fun k => { k with cq := k.cq.map stop, spcfg := none }
        .next ((s.resize c w evicted).drained c t)

/-! ### REPART (R307) -/

/-- REPART_APPLY (R307 steps 2 to 4): every other slot is not live and the queues are empty; the REPART thread ends. -/
def execRepartApply (c : Nat) (s : State) : Out' :=
  if !coreOk c then .fault .noSuchPart
  else
    match (s.coreAt c).repart with
    | none => .next s
    | some (t, p) =>
      let k := s.coreAt c
      let quiet := (k.liveSlots.all fun i => i == t) && k.mq.isEmpty && k.cq.isEmpty && k.lateq.isEmpty && k.kw.isEmpty
        && k.flight.isNone && relReady .pod (s.thread c t).outs && (s.thread c t).life == .parked .drain && !(s.thread c t).held
      if !quiet then .next s
      else .next ((s.endThread c t 2 0).modCore c fun k => { k with part := p, repart := none, threads := [] })

end Sys2Proof.Machine
end

