-- ==== Sys2Proof/Machine/Dispatcher.lean ====
section
/-! DEFINITION. The dispatch unit (R333 to R346): bind records, the start of threads, the distributor, additions to DONE,
and timed releases. -/

namespace Sys2Proof.Machine

open Sys2Proof

/-! ### Bind records (R334, R335) -/

/-- BIND_RECORD_WRITE (R334). A record whose reserved fields are not zero is rejected (R7). A write that binds a launch of the firmware's own first admits it (R335). -/
def execBindRecordWrite (c t : Nat) (r : BindWrite) (s : State) : Out' :=
  if !(coreOk c && slotOk t) then .fault .noSuchPart
  else if !s.up || !r.zeroOk then .next s
  else
    let put (s : State) (l : Nat) : State :=
      s.setBind c t { s.bind c t with valid := r.valid, launch := l % 64, rank := r.rank % 1024, smode := r.smode }
    match r.own with
    | none => .next (put s r.launch)
    | some ws =>
      match s.recordShape ws, s.freeLaunch with
      | none, some l =>
        if s.mgmt.reserved.contains (recAsid ws) then .next (put (s.newLaunch l ws 0 none true) l) else .next s
      | _, _ => .next s

/-! ### The start of a thread (R335, R336, R370) -/

/-- A thread's first state (R336), with the settings that the firmware makes for the bind (R335, R362). -/
def State.freshThread (s : State) (t l : Nat) (e : LaunchEnt) (b : BindRec) : Thread :=
  let asid := recAsid e.words
  let (vec, win) := tget s.mgmt.policy asid (0, 0)
  let n := e.parts.length
  { life := .runnable, pc := recWord e.words 0,
    g := [(1, exitAddr), (2, recWord e.words 4), (3, word (b.rank * (recTpc e.words + 1) + t)), (4, word b.rank),
          (5, word n), (6, recWord e.words 6)],
    status := if b.smode then 1 else 0, asid := BitVec.ofNat 16 asid, ptbase := tget s.mgmt.ptbase asid 0,
    trapvec := vec, meshwin := win, launch := some l, rank := word b.rank, count := word n }

/-- The core clears what the previous launch left, and no translation survives (R366, R370). L1 lines have been evicted before. -/
def Core.scrub (k : Core) : Core :=
  { k with l1 := [], lru := [], spm := [], spmBad := [], tlb := [], ptrs := [] }

/-- Settings of a core at the first thread of a launch (R163, R247, R302). -/
def State.firstThread (s : State) (c asid : Nat) : State :=
  s.modCore c fun k =>
    let k := if k.lastAsid == some asid || k.lastAsid.isNone then k else k.scrub
    { k.matrixReset with k := [], kst := [], kw := [], lastAsid := some asid }

/-- The operand of a resumed weight latch or follow-on (R166): own scratchpad bytes, or physical lines. -/
def State.resumeRange (s : State) (c : Nat) (th : Thread) (va : Word) (len : Nat) : OpRange :=
  if isMesh va then
    match meshTarget s.devnum c va with
    | some (_, _, _, off) => { own := (off, len) }
    | none => {}
  else
    { lines := (List.range (len / 64 + 1)).filterMap fun i => (s.resolve th (va + word (64 * i)) { r := true }).map (· / 64) }

/-- A copy command of an image re-enters the queue as its thread issued it (R392). -/
def State.resumeCopy (s : State) (c t : Nat) (th : Thread) (w : Nat) (x : Tab Word) : State :=
  let (g, sc, r, q, d, m) : Bool × Scope × Bool × Bool × GReg × Bool := match wordInstr w with
    | some (.cpy g sc r q d) => (g, sc, r, q, d, false)
    | some (.cpym g sc r q d) => (g, sc, r, q, d, true)
    | _ => (false, .core, false, false, 0, false)
  let id := s.txn + 1
  let f := if m then followOf (tget x 6 0) (tget x 7 0) else none
  let bytes := match f with | some f => f.bytes (s.coreAt c).depthAfter | none => 0
  let rng := if m then s.resumeRange c th (tget x 7 0) bytes else {}
  let sig := g || (match f with | some f => f.sig | none => false)
  let ctx : Ctx := { slot := t, smode := th.smode, asid := th.asid, ptbase := th.ptbase, meshwin := th.meshwin,
                     launch := th.launch, acq := q, rel := r, sig := g, sc := sc, sigVa := tget x 3 0,
                     sigPa := if sig then (s.resolve th (tget x 3 0) { r := true, w := true }).getD 0 else 0, before := [] }
  let s := s.newId.modCore c fun k => { k with cq := k.cq ++ [⟨id, w, ctx, d, m, x, bytes, rng.own, rng.lines, none⟩] }
  s.modThread c t fun th => th.markG d (.pending id .copy (tget x 1 0))

/-- The weight latch of an image is loaded by an MWL of its format and source (R392). -/
def State.resumeLatch (s : State) (c t : Nat) (th : Thread) (code : Nat) (src : Word) : State :=
  let f := tyOf code
  let rng := s.resumeRange c th src (tileBytes f)
  let ctx : Ctx := { slot := t, smode := th.smode, asid := th.asid, ptbase := th.ptbase, meshwin := th.meshwin,
                     launch := th.launch, acq := false, rel := false, sig := false, sc := .core, sigVa := 0, sigPa := 0,
                     before := [] }
  let cmd : MatCmd := ⟨s.txn + 1, wordOf (.mwl false .core false false false 0 f), ctx, .mwl f src, rng.own, rng.lines,
    [], false, []⟩
  s.newId.modCore c fun k => { k with mq := k.mq ++ [cmd] }

/-- A thread resumes from its image (R392, R393). -/
def State.resumeThread (s : State) (c l : Nat) (e : LaunchEnt) (i : Image) (first : Bool) : State :=
  let asid := recAsid e.words
  let th := { i.thread with ptbase := tget s.mgmt.ptbase asid 0, launch := some l, rank := word i.rank,
                            count := word e.parts.length }
  let s := s.modCore c fun k =>
    let k := if first then { k with k := i.k, kst := i.kst } else k
    { k with tiles := i.tiles.foldl (fun ts x => tset x.1 { x.2 with holder := some i.slot } ts) k.tiles }
  let s := s.setThread c i.slot th
  let s := match i.latch with
    | some (code, src) => s.resumeLatch c i.slot th code src
    | none => s
  i.copies.foldl (fun s x => s.resumeCopy c i.slot th x.1 x.2) s

/-- The thread to start is a launch's first on a core whose previous launch ran under another ASID (R370). -/
def Core.newAsid (k : Core) (c : Nat) (e : LaunchEnt) : Bool :=
  !e.begun.contains c && k.lastAsid.isSome && k.lastAsid != some (recAsid e.words)

/-- The conditions under which the dispatch unit starts the thread of a record (R335, R381, R392). Under another ASID it waits for a
copy command that has started, which leaves no byte in the staging buffer (R370). -/
def State.canStart (s : State) (c t : Nat) (e : LaunchEnt) : Bool :=
  let k := s.coreAt c
  (!k.newAsid c e || k.cq.all fun m => m.run.isNone) &&
  s.liveCore c && !(s.thread c t).live && !k.bath && k.flight.isNone && k.lateq.isEmpty && Part.code k.part == recPart e.words
    && e.save.isNone && (if e.resumed then e.images.any (fun i => e.parts.idxOf? c == some i.rank && i.slot == t)
        else decide (t < recTpc e.words + 1))

/-- Lines that the previous launch left in the L1 are evicted before the first thread of another ASID starts (R370). -/
def State.mustEvict (s : State) (c : Nat) (e : LaunchEnt) : Bool :=
  (s.coreAt c).newAsid c e && !(s.coreAt c).l1.isEmpty

/-- The thread of a record starts. -/
def State.startThread (s : State) (c t : Nat) (e : LaunchEnt) (b : BindRec) : State :=
  let first := !e.begun.contains c
  let asid := recAsid e.words
  let s := if first then s.firstThread c asid else s
  let s := s.modCore c fun k => { k with quota := (tget? s.mgmt.quota asid).getD s.mgmt.defaultQuota }
  let e := { e with begun := insertNat c e.begun }
  let s := (s.withLaunch b.launch e).setBind c t { b with state := 1 }
  match e.images.find? fun i => i.rank == b.rank && i.slot == t with
  | some i => s.resumeThread c b.launch e i first
  | none => s.setThread c t (s.freshThread t b.launch e b)

/-- THREAD_START (R335). -/
def execThreadStart (c t : Nat) (s : State) : Out' :=
  if !(coreOk c && slotOk t) then .fault .noSuchPart
  else
    let b := s.bind c t
    match tget? s.launches b.launch with
    | none => .next s
    | some e =>
      if !(s.up && b.valid && b.state = 0) then .next s
      else if e.parts.idxOf? c != some b.rank then
        let e := { e with endState := tset c (3, 0xFE) e.endState }
        .next ((s.setBind c t { b with state := 3, cause := 0xFE }).withLaunch b.launch e)
      else if !s.canStart c t e then .next s
      else if s.mustEvict c e then .next ((s.coreAt c).l1.foldl (fun s l => s.evictLine c l.1) s)
      else .next (s.startThread c t e b)

/-! ### The distributor (R338, R339) -/

/-- The range with the most indices left, equal counts to the lower core (R339). -/
def mostLeft (r : Tab Range) : Option (Nat × Range) :=
  r.foldl (fun best x =>
    if x.2.left = 0 then best
    else match best with
      | some b => if x.2.left > b.2.left then some x else best
      | none => some x) none

/-- The answer to a TNEXT of a core and the launch's ranges after it (R306, R338, R339). -/
def LaunchEnt.tnext (e : LaunchEnt) (c : Nat) : Word × LaunchEnt :=
  let r := tget e.ranges c ⟨0, 0⟩
  if r.left > 0 then (word r.next, { e with ranges := tset c ⟨r.next + 1, r.left - 1⟩ e.ranges })
  else
    match (if recBal e.words then mostLeft e.ranges else none) with
    | some (k, r) => (word (r.next + r.left - 1), { e with ranges := tset k ⟨r.next, r.left - 1⟩ e.ranges })
    | none => (wordI (-1), e)

/-- DISTRIBUTOR_TNEXT_REQUEST (R338). -/
def execDistributorTnextRequest (src dst : Node) (s : State) : Out' :=
  onMsg src dst (fun b => match b with | .tnext who l => some (who, l) | _ => none)
    (fun m s =>
      match tget? s.launches m.2 with
      | none => s.answer .dispatch m.1 (wval (wordI (-1)))
      | some e =>
        let (v, e) := e.tnext m.1.core
        (s.withLaunch m.2 e).answer .dispatch m.1 (wval v)) s

/-! ### Additions to DONE (R305, R343) -/

/-- The slots that a launch runs on a participant. -/
def LaunchEnt.slots (e : LaunchEnt) (c : Nat) : List Nat :=
  if e.resumed then (e.images.filter fun i => e.parts.idxOf? c == some i.rank).map (·.slot)
  else List.range (recTpc e.words + 1)

/-- The last thread of a launch on a core has ended and its queues are empty (R305, R343). -/
def State.coreEnded (s : State) (c l : Nat) (e : LaunchEnt) : Bool :=
  let k := s.coreAt c
  let recs := (List.range 16).filter fun t => (s.bind c t).valid && (s.bind c t).launch == l
  e.parts.contains c && !e.closed.contains c && (tget? e.adding c).isNone && e.save.isNone && !recs.isEmpty
    && (e.firmware || (e.slots c).all fun t => recs.contains t)
    && recs.all (fun t => decide ((s.bind c t).state ≥ 2))
    && k.threads.all (fun th => !(th.2.live && th.2.launch == some l)) && k.mq.isEmpty && k.cq.isEmpty && k.lateq.isEmpty
    && !k.fenced

/-- An addition to DONE that cannot be made is recorded, and the core has ended (R343). -/
def State.doneFails (s : State) (c l cause : Nat) (e : LaunchEnt) : State :=
  ((s.doneRefused c l cause).withLaunch l
    { e with closed := insertNat c e.closed, endState := tset c (3, cause) e.endState }).launchCheck l

/-- The addition is checked as a typed operation of the launch's ASID and sent to its SSP. It waits while a request on a line of the
page-table words is in progress (R364). -/
def State.addDone (s : State) (c l : Nat) (e : LaunchEnt) : State :=
  let va := recWord e.words 5
  let asid := recAsid e.words
  if isMesh va then s.doneFails c l 0x09 e
  else
    let x := s.walkWith [] asid (tget s.mgmt.ptbase asid 0) va true { r := true, w := true }
    match x.leaf with
    | .fail .. => s.doneFails c l 0x06 e
    | .found level off p =>
      if !x.lines.all s.lineQuiet then s
      else if !pteBit p 5 then s.doneFails c l 0x09 e
      else
        let (s, _) := s.fill c asid va true 0 level off p
        let pa := (leafEntry asid va.toNat level off p false false).pa va.toNat
        if s.podGone.contains (paDev pa) then s.doneFails c l 0x12 e
        else
          let id := s.txn + 1
          let r : TypedReq := { who := .thread ⟨s.devnum, c, 0, id⟩, k := .cntAdd, maj := 0x24, pa := pa, va := va, b := 1,
                                lockPa := 0, lockOk := true, lim := .wait 0, data := 0, asid := asid }
          ((s.newId.withLaunch l { e with adding := tset c id e.adding }).sendTyped (.core c) r)

/-- CORE_DONE_ADD (R343). -/
def execCoreDoneAdd (c : Nat) (s : State) : Out' :=
  if !coreOk c then .fault .noSuchPart
  else if !s.up then .next s
  else
    match s.launches.find? fun e => s.coreEnded c e.1 e.2 with
    | none => .next s
    | some (l, e) => .next (s.addDone c l e)

/-! ### Pre-emption is ordered (R346, R389) -/

/-- Step 1: each flight with a core of the launch ends with reason 7, and every thread of the launch is held. -/
def State.holdLaunch (s : State) (l : Nat) (e : LaunchEnt) : State :=
  let hit := s.flights.filterMap fun f =>
    if f.2.formed then ((f.2.cores f.1).find? fun c => e.parts.contains c && !f.2.left.contains c).map fun c => (f.1, c)
    else none
  let s := hit.foldl (fun s x => s.endFlight x.1 7 0 x.2 (fun _ => false)) s
  e.parts.foldl (fun s c => s.modCore c fun k => { k with threads := k.threads.map fun th =>
    (th.1, if th.2.live && th.2.launch == some l then { th.2 with held := true } else th.2) }) s

/-- The pre-emption of a launch is ordered with a save base, by a host request or by a timed entry. -/
def State.orderPreempt (s : State) (l base : Nat) (who : Option (Nat × Nat)) : State :=
  match tget? s.launches l with
  | none => s
  | some e => (s.holdLaunch l e).withLaunch l { e with save := some (base, who) }

/-! ### Timed releases (R345, R346) -/

/-- A release of time `n` finds its previous launch unfinished (R346). DESIGN CHOICE (log entry 141): one release of a PREEMPT entry
waits for its pre-emption, and a further one is dropped and counted as R346 has it for QUEUE. -/
def State.overrun (s : State) (j l n : Nat) (t : TtEnt) : State :=
  let late (t : TtEnt) : TtEnt := if t.waiting.isSome then TtEnt.miss t else { t with waiting := some n }
  match t.rule with
  | 1 => { s with tt := tset j (late t) s.tt }
  | 2 =>
    let s : State := { s with tt := tset j (late t) s.tt }
    match tget? s.launches l with
    | some e => if e.save.isSome then s else s.orderPreempt l t.save none
    | none => s
  | _ => { s with tt := tset j (TtEnt.miss t) s.tt }

/-- A release of entry `j` at its time `n`: the next one is fixed, and the record is admitted unless the previous launch still runs. -/
def State.release (s : State) (j n : Nat) (t : TtEnt) : State :=
  let t := { t with next := if t.period = 0 then none else some (n + t.period) }
  let s : State := { s with tt := tset j t s.tt }
  match t.launch with
  | some l => s.overrun j l n t
  | none => s.admitTimed j n

/-- The release time of an entry. -/
def TtEnt.due (t : TtEnt) : Option Nat := if t.valid then t.next else none

/-- A release of a valid entry comes before that of entry `j` at time `n`: by its time, then by its index (R345). -/
def State.releasedBefore (s : State) (j n : Nat) : Bool :=
  s.tt.any fun e => match e.2.due with
    | some m => decide (m < n) || (m == n && decide (e.1 < j))
    | none => false

/-- TIMED_RELEASE (R345): entry `j` has reached its release time, and no entry is due before it. -/
def execTimedRelease (j : Nat) (s : State) : Out' :=
  match tget? s.tt j with
  | none => .next s
  | some t =>
    match t.due with
    | none => .next s
    | some n => if !(s.up && decide (n ≤ s.time.toNat)) || s.releasedBefore j n then .next s else .next (s.release j n t)

/-- The releases whose time passed 2,000 ns ago or earlier are made, in their order (R345). -/
def State.releaseOverdue : Nat → State → State
  | 0, s => s
  | f + 1, s =>
    match s.tt.find? fun e => match e.2.due with
      | some n => decide (n + 2000 ≤ s.time.toNat) && !s.releasedBefore e.1 n
      | none => false with
    | some (j, t) => State.releaseOverdue f (s.release j (t.due.getD 0) t)
    | none => s

/-- Nanoseconds of the nominal oscillator pass: TIME counts once the device has locked to PTP, at the rate the servo or
the oscillator in holdover gives it (R38, R330). Entries whose removal falls due are removed (R275), and releases that may wait no
longer are made (R345). -/
def State.elapse (s : State) (ns : Nat) : State :=
  if s.locked then
    let t := s.frac + ns * (1000000 + s.ppm).toNat
    let s : State := { s with time := s.time + word (t / 1000000), frac := t % 1000000 }
    let s := s.expireOverdue
    if s.up then State.releaseOverdue (s.tt.length * (t / 1000000 + 2001)) s else s
  else s

end Sys2Proof.Machine
end

