-- ==== Sys2Proof/Machine/Images.lean ====
section
/-! DEFINITION. Thread images and debug snapshots (R390, R391, R401), and the reading of an image (R392). -/

namespace Sys2Proof.Machine

open Sys2Proof

/-! ### Writing (R390, R391) -/

/-- Bits from a rule, bit i for i below n. -/
def bitsOf (n : Nat) (f : Nat → Bool) : Nat := (List.range n).foldl (fun a i => a + b2n (f i) * 2 ^ i) 0

/-- What surrounds a thread in its image: the tiles and latch it holds, its queued copy commands, and its place. -/
structure ImageCtx where
  kind   : Nat
  tiles  : List Nat
  latch  : Bool
  copies : List CopyCmd
  deriving DecidableEq, Repr

/-- The recorded operation of a thread; none for one that it has gone past. -/
def Thread.request (t : Thread) : Option Reissue := if t.reissueDue then t.reissue else none

/-- The first four words, origin, time and stop cause (R390). -/
def imageHead (s : State) (c t : Nat) (x : ImageCtx) (tail : Nat) : List Byte :=
  let th := s.thread c t
  let k := s.coreAt c
  let w0 := 1 + x.kind * 2 ^ 8 + Part.code k.part * 2 ^ 16 + b2n th.request.isSome * 2 ^ 18 + b2n x.latch * 2 ^ 19
    + bitsOf 4 (fun i => x.tiles.contains i) * 2 ^ 20 + x.copies.length * 2 ^ 24
  let len := 0x1400 + tail + 80 * x.copies.length
  let stop := if x.kind = 3 then th.stopInfo.getD ⟨0, 0, 0⟩ else ⟨0, 0, 0⟩
  leBytes 8 w0 ++ leBytes 8 len ++ leBytes 8 (c + s.devnum * 2 ^ 10 + t * 2 ^ 25) ++ leBytes 8 s.time.toNat
    ++ leBytes 8 stop.cause ++ leBytes 8 stop.v1.toNat ++ leBytes 8 stop.v2.toNat ++ leBytes 8 0

/-- The control block (R391). A snapshot shows the width tags as they stand; an image holds those that match the values, as a RESUME asks
(R392 reason 3; log entry 2). -/
def controlBlock (s : State) (c t : Nat) (latch snapshot : Bool) : List Byte :=
  let th := s.thread c t
  let k := s.coreAt c
  let regs : List Word := [th.pc, th.status, th.trapvec, th.trappc, th.trapcause, th.trapval, th.trapval2, th.trapsave,
    th.intpend, th.intmask, th.fpflags, th.asid.setWidth 64, th.meshwin, k.spos]
  let gFull := bitsOf (Part.gRegs k.part) fun i => th.gs i == .full
  let vFull := bitsOf (Part.vRegs k.part) fun i => th.vs i == .full
  let tags (b : Nat) : Nat := (List.range 32).foldl (fun a i =>
    a + (if b + i < Part.gRegs k.part then if snapshot then th.tag (b + i) else widthTag (th.gv (b + i)) else 0) * 2 ^ (2 * i)) 0
  let req := th.request.getD ⟨0, 0, 0, 0, false, 0⟩
  (regs.flatMap fun w => leBytes 8 w.toNat) ++ leBytes 8 gFull ++ leBytes 8 (tags 0) ++ leBytes 8 (tags 32)
    ++ leBytes 8 vFull ++ leBytes 8 (bitsOf 8 th.pv + bitsOf 8 (fun i => k.ks i == .full) * 2 ^ 8)
    ++ leBytes 8 (if latch then TyCode.code k.active.format + b2n k.active.valid * 2 ^ 4 else 0)
    ++ leBytes 8 (if latch then k.active.src.toNat else 0)
    ++ leBytes 8 req.word ++ leBytes 8 req.a.toNat ++ leBytes 8 req.b.toNat

/-- The register and data of a recorded Q.PUT. -/
def Reissue.put (r : Reissue) : Option (Nat × Line) :=
  match wordInstr r.word with | some (.qPut _ _ b _) => some (b.val, r.data) | _ => none

/-- The registers of an image (R390); those beyond the partition are zero. `put` is a recorded Q.PUT, whose data stands as its v[B] (R293;
log entry 124). -/
def imageRegs (s : State) (c t : Nat) (put : Option (Nat × Line)) : List Byte :=
  let th := s.thread c t
  let k := s.coreAt c
  ((List.range 64).flatMap fun i => leBytes 8 (if i < Part.gRegs k.part then (th.gv i).toNat else 0))
    ++ ((List.range 8).flatMap fun i => leBytes 8 (th.xv i).toNat)
    ++ ((List.range 8).flatMap fun i => leBytes 8 (th.mv i).toNat)
    ++ ((List.range 8).flatMap fun i => leBytes 8 (k.kv i).toNat) ++ leBytes 64 0
    ++ ((List.range 64).flatMap fun i => leBytes 64 (if i < Part.vRegs k.part then
      (match put with | some (b, data) => if i = b then data else th.vv i | none => th.vv i).toNat else 0))

/-- The entry of a copy command (R390). -/
def copyEntry (m : CopyCmd) : List Byte :=
  leBytes 8 m.word ++ ((List.range 8).flatMap fun i => leBytes 8 (tget m.x i 0).toNat) ++ leBytes 8 0

/-- A thread image, or with kind 3 a snapshot, which holds the status of every tile in place of tile images (R390, R401). -/
def imageOf (s : State) (c t : Nat) (x : ImageCtx) : List Byte :=
  let k := s.coreAt c
  let tiles := if x.kind = 3 then (List.range 4).flatMap fun i => leBytes 8 (k.tile i).status.toNat
    else x.tiles.flatMap fun i => tileImage (k.tile i)
  let put := if x.kind = 3 then none else (s.thread c t).request.bind Reissue.put
  imageHead s c t x tiles.length ++ controlBlock s c t x.latch (x.kind == 3) ++ imageRegs s c t put ++ tiles ++ x.copies.flatMap copyEntry

/-! ### Reading (R392) -/

/-- Bytes with their places: a word of 8 bytes at an offset. -/
def word8 (b : List Byte) (off : Nat) : Nat := leNat ((b.drop off).take 8)

/-- The registers, control block and marks of an image as a thread. A register saved empty becomes armed (R392). -/
def imageThread (b : List Byte) (p : Part) (ptbase : Word) : Thread :=
  let w (i : Nat) : Word := word (word8 b (0x40 + 8 * i))
  let w0 := word8 b 0
  let g := (List.range (Part.gRegs p)).foldl (fun m i => tset i (word (word8 b (0x100 + 8 * i))) m) ([] : Tab Word)
  let v := (List.range (Part.vRegs p)).foldl (fun m i =>
    tset i (BitVec.ofNat 512 (leNat ((b.drop (0x400 + 64 * i)).take 64))) m) ([] : Tab Line)
  let empty (n full : Nat) : Tab RegSt := (List.range n).foldl (fun m i => if full.testBit i then m else tset i .armed m) []
  let eight (off : Nat) : Tab Word := (List.range 8).foldl (fun m i => tset i (word (word8 b (off + 8 * i))) m) []
  let req := word8 b 0xE8
  let bReg := match wordInstr req with | some (.qPut _ _ r _) => tget v r 0 | _ => 0
  { life := .runnable, pc := w 0, status := w 1, trapvec := w 2, trappc := w 3, trapcause := w 4, trapval := w 5,
    trapval2 := w 6, trapsave := w 7, intpend := w 8, intmask := w 9, fpflags := w 10, asid := (w 11).setWidth 16,
    meshwin := w 12, ptbase := ptbase, g := g, v := v, gst := (empty (Part.gRegs p) (word8 b 0xB0)).filter (·.1 != 0),
    vst := empty (Part.vRegs p) (word8 b 0xC8), p := BitVec.ofNat 8 (word8 b 0xD0), x := eight 0x300, m := eight 0x340,
    reissue := if w0.testBit 18 then
      some ⟨req % 2 ^ 32, word (word8 b 0xF0), word (word8 b 0xF8), w 0, bitOf (w 1) 2, bReg⟩ else none }

/-- Number of tiles and of copy entries, as an image's first word gives them. -/
def imageCounts (w0 : Nat) : Nat × Nat :=
  (((List.range 4).filter fun i => w0.testBit (20 + i)).length, w0 / 2 ^ 24 % 64)

/-- Length of an image (R390). -/
def imageLength (w0 : Nat) : Nat := 0x1400 + imageBytes * (imageCounts w0).1 + 80 * (imageCounts w0).2

/-- Every byte of a range of an image is zero. -/
def imageZero (b : List Byte) (off n : Nat) : Bool := ((b.drop off).take n).all fun x => x == 0

/-- The reserved fields of the system registers that a control block holds are zero (R7, R391): STATUS, TRAPVEC, TRAPPC,
TRAPCAUSE, INTPEND, INTMASK, FPFLAGS, ASID, MESHWIN and STREAMPOS. -/
def imageReserved (b : List Byte) : Bool :=
  [(0x048, sysMask 0x004), (0x050, sysMask 0x010), (0x058, sysMask 0x011), (0x060, sysMask 0x012), (0x080, sysMask 0x016),
    (0x088, sysMask 0x017), (0x090, sysMask 0x018), (0x098, sysMask 0x005), (0x0A0, sysMask 0x007),
    (0x0A8, 0xC01FFFF0FFFFFFFF#64)].all fun x => (word (word8 b x.1) &&& ~~~x.2) == 0

/-- The zero fields of an image's copy entries: the bits above the 32 of its word, and the last word (R390). -/
def imageCopyZero (b : List Byte) : Bool :=
  let w0 := word8 b 0
  let base := 0x1400 + imageBytes * (imageCounts w0).1
  (List.range (imageCounts w0).2).all fun i => imageZero b (base + 80 * i + 4) 4 && imageZero b (base + 80 * i + 72) 8

/-- The registers beyond the partition of an image are zero (R390). -/
def imageBeyond (b : List Byte) : Bool :=
  match partOf (word8 b 0 / 2 ^ 16 % 4) with
  | some p =>
    imageZero b (0x100 + 8 * Part.gRegs p) (8 * (64 - Part.gRegs p))
      && imageZero b (0x400 + 64 * Part.vRegs p) (64 * (64 - Part.vRegs p))
  | none => true

/-- Zero fields and lengths of an image (reason 2 of R392). DESIGN CHOICE (log entry 125): so counts an odd PC, which no thread may hold
(R41). -/
def imageShape (b : List Byte) : Bool :=
  let w0 := word8 b 0
  w0 / 2 ^ 8 % 2 ^ 8 == 2 && w0 / 2 ^ 30 == 0 && (imageCounts w0).2 ≤ 32 && word8 b 8 == imageLength w0
    && word8 b 0x10 / 2 ^ 29 == 0 && imageZero b 0x20 32 && imageZero b 0x3C0 64 && word8 b 0xD0 / 2 ^ 16 == 0
    && word8 b 0xD8 / 2 ^ 5 == 0 && (w0.testBit 19 || (word8 b 0xD8 == 0 && word8 b 0xE0 == 0))
    && word8 b 0xE8 / 2 ^ 32 == 0 && (w0.testBit 18 || (word8 b 0xE8 == 0 && word8 b 0xF0 == 0 && word8 b 0xF8 == 0))
    && word8 b 0x40 % 2 == 0 && imageReserved b && imageBeyond b && imageCopyZero b

/-- Width tags of an image match its values (reason 3, R59). -/
def imageTags (b : List Byte) : Bool :=
  (List.range 64).all fun i =>
    let tag := word8 b (if i < 32 then 0xB8 else 0xC0) / 2 ^ (2 * (i % 32)) % 4
    tag == widthTag (word (word8 b (0x100 + 8 * i)))

/-- Offset and number of each saved tile. -/
def imageTiles (w0 : Nat) : List (Nat × Nat) :=
  let l := (List.range 4).filter fun i => w0.testBit (20 + i)
  (List.range l.length).map fun i => (l.getD i 0, 0x1400 + imageBytes * i)

/-- The words of a tile image. -/
def tileWords (b : List Byte) (off : Nat) : List (Nat × Bool) :=
  (List.range (imageBytes / 8)).map fun i => (word8 b (off + 8 * i), false)

/-- The copy entries of an image: word and x registers. -/
def imageCopies (b : List Byte) : List (Nat × Tab Word) :=
  let w0 := word8 b 0
  let base := 0x1400 + imageBytes * (imageCounts w0).1
  (List.range (imageCounts w0).2).map fun i =>
    (word8 b (base + 80 * i),
      (List.range 8).foldl (fun m j => tset j (word (word8 b (base + 80 * i + 8 + 8 * j))) m) ([] : Tab Word))

/-- The first byte of a range is accessible from a core (R252), translated by a walk. -/
def State.resumeByte (s : State) (c : Nat) (th : Thread) (va : Word) (n : Need) : Bool :=
  if isMesh va then (s.meshCheck c th.meshwin va 1).isSome else (s.resolve th va n).isSome

/-- A copy entry passes the issue checks of R251 and R252 (reason 6). -/
def State.copyEntryOk (s : State) (c : Nat) (th : Thread) (e : Nat × Tab Word) : Bool :=
  let d := descOf e.2
  let x5 := tget e.2 5 0
  let common (sig : Bool) : Bool :=
    (d.reason e.2 sig).isNone && s.resumeByte c th d.src { r := true } && s.resumeByte c th d.dst { w := true }
      && (!sig || (s.resolve th (tget e.2 3 0) { r := true, w := true }).isSome)
      && (x5 == 0 || s.resumeByte c th x5 { w := true })
  match wordInstr e.1 with
  | some (.cpy g _ _ _ _) => common g
  | some (.cpym g _ _ _ _) =>
    match followOf (tget e.2 6 0) (tget e.2 7 0) with
    | some f => common (g || f.sig)
    | none => false
  | _ => false

/-- The REASON that an image breaks a rule of R392 with, for a participant. -/
def State.imageReason (s : State) (c : Nat) (ws : List Word) (b : List Byte) (p : Part) (th : Thread) : Option Nat :=
  let w0 := word8 b 0
  if w0 % 2 ^ 8 != 1 then some 1
  else if !imageShape b then some 2
  else if !imageTags b then some 3
  else if w0 / 2 ^ 16 % 4 != Part.code p || th.asid.toNat != recAsid ws then some 4
  else if !((imageTiles w0).all fun t => imageOk (tileWords b t.2)) then some 5
  else if !((imageCopies b).all fun e => s.copyEntryOk c th e) then some 6
  else if w0.testBit 18 && !(match wordInstr (word8 b 0xE8) with | some i => recordable i | none => false) then some 7
  else none

/-- An image as the launch keeps it until its thread starts. -/
def imageHeld (b : List Byte) (rank slot : Nat) (th : Thread) : Image :=
  let w0 := word8 b 0
  { rank := rank, slot := slot, thread := th,
    k := (List.range 8).foldl (fun m i => tset i (word (word8 b (0x380 + 8 * i))) m) ([] : Tab Word),
    kst := (List.range 8).foldl (fun m i =>
      if (word8 b 0xD0).testBit (8 + i) then m else tset i RegSt.empty m) ([] : Tab RegSt),
    tiles := (imageTiles w0).map fun t => (t.1, imageTile (tileWords b t.2) slot),
    latch := if w0.testBit 19 then some (word8 b 0xD8 % 16, word (word8 b 0xE0)) else none,
    copies := imageCopies b }

end Sys2Proof.Machine
end

