-- ==== Sys2Proof/Machine/Debug.lean ====
section
/-! DEFINITION. The debug unit (R394 to R401): holding and releasing threads, steps, snapshots and parked-on records, register
writes, arming, READLINE, contact sheets (R402), and cancellation (R293). Each operation answers the state and what the
reply carries. -/

namespace Sys2Proof.Machine

open Sys2Proof

/-- STATUS, REASON and payload of a reply (R326). -/
structure Ans where
  status  : Nat := 0
  reason  : Nat := 0
  payload : List Byte := []
  deriving DecidableEq, Repr

/-- A malformed request: STATUS 1 and no effect. -/
def malformed (s : State) : State × Ans := (s, { status := 1 })

/-! ### Selections (R394) -/

/-- The cores a HOLD or RELEASE names; none for a dead core. -/
def State.selCores (s : State) (d : DebugSel) : Option (List Nat) :=
  if d.core = 0xFFFF then some (s.members d.group)
  else if s.liveCore d.core then some [d.core] else none

/-- The threads a HOLD or RELEASE names; none for a dead core or a slot that is not live. -/
def State.selThreads (s : State) (d : DebugSel) : Option (List (Nat × Nat)) :=
  match s.selCores d with
  | none => none
  | some l =>
    if d.core = 0xFFFF || d.slot = 0xFF then
      some (l.flatMap fun c => (s.coreAt c).liveSlots.map fun t => (c, t))
    else if d.slot < 16 && (s.thread d.core d.slot).live then some [(d.core, d.slot)] else none

/-- The one live thread of a live core that a selector names. -/
def State.selOne (s : State) (d : DebugSel) : Option (Nat × Nat) :=
  if s.liveCore d.core && decide (d.slot < 16) && (s.thread d.core d.slot).live then some (d.core, d.slot) else none

/-- The launch of a thread is being pre-empted: the thread stays held (R389). -/
def State.saving (s : State) (th : Thread) : Bool :=
  match th.launch with
  | none => false
  | some l => match tget? s.launches l with | some e => e.save.isSome | none => false

/-- A thread is held; its next snapshot shows no stop (R395, R401). -/
def Thread.hold (t : Thread) : Thread :=
  if t.held then t else { t with held := true, stopInfo := none, stepping := false, stepped := none }

/-- A thread is released: its first instruction matches no breakpoint (R397). -/
def Thread.release (t : Thread) : Thread :=
  if t.held then { t with held := false, stepping := false, stepped := none, fresh := true } else t

/-- HOLD (R395). The reply gives the TIME of each core. -/
def State.dbgHold (s : State) (d : DebugSel) : State × Ans :=
  match s.selThreads d with
  | none => malformed s
  | some l =>
    (l.foldl (fun s x => s.modThread x.1 x.2 Thread.hold) s,
      { payload := ((s.selCores d).getD []).flatMap fun _ => leBytes 8 s.time.toNat })

/-- RELEASE (R394). -/
def State.dbgRelease (s : State) (d : DebugSel) : State × Ans :=
  match s.selThreads d with
  | none => malformed s
  | some l => (l.foldl (fun s x => if s.saving (s.thread x.1 x.2) then s else s.modThread x.1 x.2 Thread.release) s, {})

/-- STEP (R396). -/
def State.dbgStep (s : State) (d : DebugSel) : State × Ans :=
  match s.selOne d with
  | none => malformed s
  | some (c, t) =>
    let th := s.thread c t
    if !th.held || s.saving th then malformed s
    else if t = 0 && (s.coreAt c).flight.isSome then (s, { status := 4, reason := 3 })
    else (s.setThread c t { th with held := false, stepping := true, stepped := none, fresh := true }, {})

/-! ### READ (R401) -/

/-- The producer code of WHY 1 and 2. -/
def producerCode (r : RegSt) : Nat :=
  match r with
  | .pending _ .load _ => 1
  | .pending _ .typed _ => 2
  | .pending _ .atomic _ => 3
  | .pending _ .copy _ => 4
  | .pending _ .nbar _ => 5
  | .pending _ .kwrite _ => 6
  | _ => 0

/-- The address of a pending load. -/
def loadAddr (r : RegSt) : Word :=
  match r with
  | .pending _ .load a => a
  | _ => 0

/-- A register of a thread or of its core. -/
def State.regOf (s : State) (c t : Nat) (cls : RegClass) (n : Nat) : RegSt :=
  match cls with
  | .g => (s.thread c t).gs n
  | .v => (s.thread c t).vs n
  | .k => (s.coreAt c).ks n

/-- MAJ of the instruction at a thread's pc: the one that has parked, or what the fetch buffer holds. -/
def Thread.nextMaj (t : Thread) : Nat :=
  let parked := t.fetched.bind fun f => if f.1 = t.pc then some (majOf f.2) else none
  let h : Nat := match t.half, t.fb with
    | some (p, h), _ => if p = t.pc then h else 0
    | none, some b => if b.base = word (t.pc.toNat / 64 * 64) then lineNum b.data (t.pc.toNat % 64) 2 else 0
    | none, none => 0
  let held := if h % 2 = 1 then h / 2 % 64
    else match decodeWord h with
      | .ok i => majOf i
      | .error _ => 0
  parked.getD held

/-- MAJ of an issued instruction that awaits its reply. -/
def Wait.maj (w : Wait) : Nat := if w.kind == .typed || w.kind == .nbar then w.word / 2 % 64 else w.word

/-- A parked-on record: WHY, the bits above 15 of its first word, and three words. -/
structure ParkedOn where
  why : Nat
  hi  : Nat := 0
  w1  : Word := 0
  w2  : Word := 0
  w3  : Word := 0
  deriving DecidableEq, Repr

/-- LIM of a request that may wait; none for one that never does (R271, R276). -/
def Wait.lim (w : Wait) : Option Lim :=
  match wordInstr w.word with
  | some (.ldsy l ..) | some (.stsy l ..) | some (.cntWait l ..) | some (.barArw l ..) | some (.barWait l ..) | some (.lckAcq l ..)
  | some (.qPut l ..) | some (.qGet l ..) | some (.cndWait l ..) => some l
  | _ => none

/-- The request of a thread makes no waiter entry: it never waits, or it is a try. -/
def Wait.tries (w : Wait) : Bool := w.lim.isNone || w.lim == some .try

/-- OPERAND of an entry as the request of a thread gives it, where it does: a threshold, a phase, the address of a lock, or 0 where the
entry holds none or is not made (R273). -/
def State.ownOperand (s : State) (th : Thread) (w : Wait) : Option Word :=
  if w.tries then some 0
  else
    match wordInstr w.word with
    | some (.cntWait ..) | some (.barWait ..) => some w.b
    | some (.cndWait ..) => (s.resolve th w.b { r := true, w := true }).map word
    | some (.ldsy ..) | some (.stsy ..) | some (.qGet ..) => some 0
    | _ => none

/-- The entry of a request has DEADLINE 0: it has no limit, or it is not made (R275). -/
def Wait.unlimited (w : Wait) : Bool := w.tries || w.lim == some (.wait 0)

/-- A typed operation that awaits its reply: its home, its object, and its entry's OPERAND and DEADLINE. Of an entry at another device
what the request itself gives is shown, and the rest is a free value (log entry 63). -/
def State.parkedTyped (s : State) (c t : Nat) (w : Wait) : ParkedOn :=
  let e := s.waiters.find? fun e => e.req.by s.devnum c t w.id
  let pa := match e with
    | some e => e.req.pa
    | none => (s.resolve (s.thread c t) w.a { r := true, w := true }).getD 0
  let far := if paDev pa = s.devnum then (0, 0) else Config.remoteEntry w.id s.time.toNat
  { why := 3, hi := paDev pa + homeSlice (paOff pa) true * 2 ^ 16, w1 := word pa,
    w2 := match e with | some e => e.shown | none => if paDev pa = s.devnum then 0 else (s.ownOperand (s.thread c t) w).getD far.1,
    w3 := match e with | some e => word e.deadline | none => if w.unlimited then 0 else far.2 }

/-- An NBAR: the round and rank awaited of the one in its episode. -/
def State.parkedNbar (s : State) (c t : Nat) (w : Wait) : ParkedOn :=
  match (s.nbAt c w.a.toNat).cur with
  | some k =>
    if k.slot = t then
      { why := 4, hi := k.round, w1 := w.a, w2 := word (k.awaited * 2 ^ 16 + k.members.getD k.awaited 0), w3 := word k.deadline }
    else { why := 4, w1 := w.a }
  | none => { why := 4, w1 := w.a }

/-- A core that holds a frozen flight (R316). -/
def State.holder (s : State) (l : Nat) : Option Nat :=
  match tget? s.flights l with
  | some f => if f.frozen then (f.active l).find? fun c => !s.stepReady c else none
  | none => none

/-- What a thread waits on (R401). Waits that the table does not name answer 0xFF. -/
def State.parkedOn (s : State) (c t : Nat) : ParkedOn :=
  let th := s.thread c t
  let reg (why : Nat) (cls : RegClass) (n : Nat) : ParkedOn :=
    { why := why, hi := producerCode (s.regOf c t cls n), w1 := word (regKey cls n),
      w2 := if why = 1 then loadAddr (s.regOf c t cls n) else 0 }
  let stream : Option Nat := if t = 0 then (s.coreAt c).flight else none
  match th.life with
  | .parked why =>
    match why with
    | .source r n => reg 1 r n
    | .dest r n | .destFull r n => reg 2 r n
    | .awaitReg r n => { why := 10, w1 := word (regKey r n) }
    | .count m => { why := 7, hi := m % 8 }
    | .order sc => { why := 8, hi := Scope.code sc }
    | .acquire =>
      { why := 8, hi := match th.acq.find? fun i => th.outs.any fun o => o.id == i.1 with
                        | some i => Scope.code i.2
                        | none => 0 }
    | .fetch id => { why := 9, w1 := match th.outs.find? fun o => o.id == id with | some o => o.va | none => th.pc }
    | .walk => match th.walk with
      | some w => if w.exec then { why := 9, w1 := w.va } else { why := 0xFF }
      | none => { why := 0xFF }
    | .matrixFull => { why := 5 }
    | .copyFull => { why := 6 }
    | .wfi => { why := 12, w1 := th.intmask }
    | .bath | .repart | .drain => { why := 14 }
    | .reply =>
      match th.wait with
      | none => { why := 0xFF }
      | some w =>
        match w.kind with
        | .typed => s.parkedTyped c t w
        | .nbar => s.parkedNbar c t w
        | .tnext => { why := 11 }
        | _ => { why := 0xFF }
    | _ => { why := 0xFF }
  | .runnable =>
    match stream.bind s.holder with
    | some n => { why := 13, w1 := word n }
    | none => { why := 0, hi := if th.held then 1 else if stream.isSome then 2 else 0 }
  | _ => { why := 0xFF }

/-- The bytes of the parked-on record. -/
def State.parkedBytes (s : State) (c t : Nat) : List Byte :=
  let p := s.parkedOn c t
  let th := s.thread c t
  let maj := match th.wait with | some w => w.maj | none => th.nextMaj
  leBytes 8 (p.why + maj * 2 ^ 8 + p.hi * 2 ^ 16) ++ leBytes 8 p.w1.toNat ++ leBytes 8 p.w2.toNat ++ leBytes 8 p.w3.toNat

/-- Queued copy commands of a thread that have not started. -/
def Core.queuedBy (k : Core) (t : Nat) : List CopyCmd := k.cq.filter fun m => m.ctx.slot == t && m.run.isNone

/-- READ (R401). A stopped thread is read until its slot is bound again (R353), and every slot of a fenced core (R379). -/
def State.dbgRead (s : State) (d : DebugSel) : State × Ans :=
  let th := s.thread d.core d.slot
  let stopped := match th.life with | .stopped _ => true | _ => false
  let ok := decide (d.slot < 16) && s.present d.core && ((s.coreAt d.core).fenced || th.live || stopped)
  if !ok then malformed s
  else
    let k := s.coreAt d.core
    let x : ImageCtx :=
      { kind := 3, tiles := (List.range 4).filter fun i => (k.tile i).holder == some d.slot,
        latch := k.active.valid && k.active.holder == d.slot, copies := k.queuedBy d.slot }
    (s, { payload := imageOf s d.core d.slot x ++ s.parkedBytes d.core d.slot })

/-! ### WRITE and ARM (R394) -/

/-- WRITE: class 0 g, 1 v, 2 k (R398, R401), and 3 p, 4 m, 5 x, which have no full/empty bit (R51); the width tag follows the value
(R59). DESIGN CHOICE (log entry 132): the spec gives no code for p, m and x. -/
def State.dbgWrite (s : State) (d : DebugSel) (cls num : Nat) (val : Line) (full : Bool) : State × Ans :=
  match s.selOne d with
  | none => malformed s
  | some (c, t) =>
    let p := (s.coreAt c).part
    if !(s.thread c t).held then malformed s
    else
      match cls with
      | 0 =>
        if !inPart p .g num then malformed s
        else (s.modThread c t fun th =>
          let th := th.putG num (val.setWidth 64)
          if full then th else th.markG num .empty, {})
      | 1 =>
        if !inPart p .v num then malformed s
        else (s.modThread c t fun th =>
          let th := th.putV num val
          if full then th else th.markV num .empty, {})
      | 2 =>
        if num ≥ 8 then malformed s
        else (s.modCore c fun k =>
          let k := k.putK num (val.setWidth 64)
          if full then k else { k with kst := tset num .empty k.kst }, {})
      | 3 => if num ≥ 8 then malformed s else (s.modThread c t fun th => th.putP num (bitOf val 0), {})
      | 4 => if num ≥ 8 then malformed s else (s.modThread c t fun th => th.putM num (val.setWidth 64), {})
      | 5 => if num ≥ 8 then malformed s else (s.modThread c t fun th => th.putX num (val.setWidth 64), {})
      | _ => malformed s

/-- ARM: the stops, BRK0 to BRK3 and WCH0 to WCH3, each a value that SWR could write. -/
def State.dbgArm (s : State) (d : DebugSel) (bits : BitVec 3) (brk wch : List Word) : State × Ans :=
  match s.selOne d with
  | none => malformed s
  | some (c, t) =>
    let ok := brk.length == 4 && wch.length == 4 && (brk.all fun v => sysLegal 0x060 v) && (wch.all fun v => sysLegal 0x064 v)
    if !ok then malformed s
    else
      let tab (l : List Word) : Tab Word := (List.range 4).map fun i => (i, l.getD i 0)
      (s.modThread c t fun th => { th with arm := bits, brk := tab brk, wch := tab wch }, {})

/-! ### READLINE (R394) -/

/-- The code of an L1 state in a READLINE reply; 0 is I. -/
def L1St.code : L1St → Nat
  | .mod => 1
  | .own => 2
  | .exc => 3
  | .shr => 4
  | .is => 5
  | .im => 6
  | .sm => 7
  | .om => 8
  | .mi => 9
  | .ei => 10

/-- The code of an entry kind (R273). -/
def EntryKind.code : EntryKind → Nat
  | .waiter => 0
  | .void => 1
  | .phase => 2
  | .granted => 3

/-- A waiter entry in the layout of R273. -/
def Waiter.bytes (w : Waiter) : List Byte :=
  let (d, c, t) := w.req.party
  leBytes 8 (w.req.maj * 2 ^ 58 + EntryKind.code w.kind * 2 ^ 56 + w.stage * 2 ^ 54 + w.req.pa)
    ++ leBytes 8 (d * 2 ^ 34 + c * 2 ^ 24 + t * 2 ^ 20) ++ leBytes 8 w.shown.toNat ++ leBytes 8 w.deadline

/-- READLINE: the state and PM of a line in an L1, the owner and sharers of a directory entry, or the entries of an
object. -/
def State.dbgLine (s : State) (q : LineQuery) : State × Ans :=
  match q with
  | .l1 c line =>
    if !s.liveCore c then malformed s
    else
      let l := (s.coreAt c).lineAt line
      (s, { payload := match l with
        | some l => leBytes 1 (L1St.code l.st) ++ leBytes 1 (b2n l.pm)
        | none => leBytes 2 0 })
  | .directory line =>
    let d := s.dirAt line
    (s, { payload := leBytes 2 (d.owner.getD 0xFFFF) ++ leBytes 96 (bitsOf 768 fun c => d.sharers.contains c) })
  | .waiters o => (s, { payload := (s.waiters.filter fun w => paOff w.req.pa == o).flatMap Waiter.bytes })

/-! ### Contact sheets (R402, R403) -/

/-- A place that can hold sheets. -/
def State.sheetPlace (s : State) (p : SheetPlace) : Bool :=
  match p with
  | .core n => s.liveCore n
  | .slice n => decide (n < 128)

/-- SHEET: configures a sheet, or reads it. -/
def State.dbgSheet (s : State) (p : SheetPlace) (i : Nat) (control : Option Word) : State × Ans :=
  if !(s.sheetPlace p && decide (i < 8)) then malformed s
  else
    match control with
    | none => (s, { payload := sheetBytes (s.sheetAt p i) })
    | some w =>
      let core := match p with | .core _ => true | .slice _ => false
      if controlOk core w then (s.setSheet p i (newSheet w), {}) else malformed s

/-- The sample of a source that the state holds when it is sampled (R403): the depth of the matrix queue and PSHCNT.COUNT of a core;
the wait list and the spilled entries of a slice. The other sources measure times and rates, which come with the event (log entry 101). -/
def State.sheetValue (s : State) (p : SheetPlace) (source v : Nat) : Nat :=
  match p, source with
  | .core n, 5 => (s.coreAt n).mq.length
  | .core n, 6 => (s.coreAt n).pmCount
  | .slice n, 2 => s.entriesOf n
  | .slice n, 3 => s.entriesOf n - 2048
  | _, _ => v

/-- CONTACT_SHEET_SAMPLE (R402): an enabled sheet takes a sample of its source, which a thread slot may have caused; a source that is
sampled as it arises has none of this event. -/
def execContactSheetSample (p : SheetPlace) (i : Nat) (x : SheetSample) (s : State) : Out' :=
  let ok := match p with | .core n => coreOk n | .slice n => decide (n < 128)
  if !(ok && decide (i < 8)) then .fault .noSuchPart
  else
    let source := fld (word (tget (s.sheetAt p i) 0 0)) 48 8
    let v := s.sheetValue p source x.value
    if !ownSource p source && s.sheetTakes p i x.slot && decide (v < 2 ^ 64) then .next (s.setSheet p i (sheetSample (s.sheetAt p i) v))
    else .next s

/-! ### CANCEL (R293, R394) -/

/-- CANCEL: the parked typed operation of a held thread is cancelled, and the thread is runnable at the recorded operation.
A flight that its slot 0 takes part in ends with reason 7 (R320). -/
def State.dbgCancel (s : State) (d : DebugSel) : State × Ans :=
  match s.selOne d with
  | none => malformed s
  | some (c, t) =>
    let typed := match (s.thread c t).wait with | some w => w.kind == .typed | none => false
    if !(s.thread c t).held || s.saving (s.thread c t) then malformed s
    else if !typed then (s, {})
    else
      let s := (s.cancelTyped c t).modThread c t fun th => { th with held := false, stepping := false, stepped := none }
      match t, (s.coreAt c).flight with
      | 0, some l => (s.endFlight l 7 0 c (fun _ => false), {})
      | _, _ => (s, {})

end Sys2Proof.Machine
end

