-- ==== Sys2Proof/Machine/Preempt.lean ====
section
/-! DEFINITION. Pre-emption (R389) and resumption (R392). -/

namespace Sys2Proof.Machine

open Sys2Proof

/-! ### PREEMPT is ordered (R389) -/

/-- Offset of an image from the save base (R389). -/
def imageOff (rank slot : Nat) : Nat := 262144 * (16 * rank + slot)
/-- Offset of the pre-emption list from the save base (R389). -/
def listOff (n : Nat) : Nat := 262144 * 16 * n

/-- A typed word of the pool lies in a range of local offsets: a byte of the carve-out holds the tags of two words (R263). -/
def State.typedIn (s : State) (off n : Nat) : Bool :=
  s.mem.any fun e => inCarve e.1 && [0, 8].any fun i =>
    let o := 0x7C00000000 + (e.1 - 0x7E00000000) * 16 + i
    s.typeOf o != 0 && decide (off < o + 8 ∧ o < off + n)

/-- The management core may write a range: it reaches no carve-out and holds no typed word (R264). -/
def State.mayWrite (s : State) (off n : Nat) : Bool := !meetsCarve off n && !s.typedIn off n

/-- The management core writes bytes word by word under an ASID; a word of the carve-out or a typed one is refused (R264). -/
def State.mgmtWords (s : State) (asid : Nat) : Nat → Nat → List Byte → State
  | 0, _, _ => s
  | f + 1, off, bs =>
    if bs.isEmpty then s
    else
      let n := min bs.length (8 - off % 8)
      let refused := inCarve off || (inPool off && s.typeOf (off / 8 * 8) != 0)
      let s := if refused then s else s.pokeBytes asid off (bs.take n)
      State.mgmtWords s asid f (off + n) (bs.drop n)

/-- The management core writes bytes of local memory. -/
def State.mgmtWrite (s : State) (asid off : Nat) (bs : List Byte) : State := s.mgmtWords asid bs.length off bs

/-- PREEMPT: launch number and save base. The answer comes when the list has been written; none until then. -/
def State.dbgPreempt (s : State) (l base src seq : Nat) : State × Option Ans :=
  match tget? s.launches l with
  | none => (s, some { status := 1 })
  | some e =>
    let n := e.parts.length
    if base % 4096 != 0 || base / 2 ^ 39 != s.devnum then (s, some { status := 1 })
    else if (base + listOff n + 16 * n - 1) / 2 ^ 39 != s.devnum then (s, some { status := 1 })
    else if meetsCarve (paOff base) (listOff n + 16 * n) then (s, some { status := 4, reason := 1 })
    else if e.save.isSome then (s, some { status := 3 })
    else (s.orderPreempt l base (some (src, seq)), none)

/-! ### Draining (R389 steps 2 to 5) -/

/-- The live threads of a launch on a core. -/
def State.launchSlots (s : State) (c l : Nat) : List Nat :=
  (s.coreAt c).liveSlots.filter fun t => (s.thread c t).launch == some l

/-- The live threads of a launch. -/
def State.launchThreads (s : State) (l : Nat) (e : LaunchEnt) : List (Nat × Nat) :=
  e.parts.flatMap fun c => (s.launchSlots c l).map fun t => (c, t)

/-- The group of an NBAR a thread is parked in. -/
def State.nbarGroup (s : State) (x : Nat × Nat) : Option Nat :=
  match (s.thread x.1 x.2).wait with
  | some w => if w.kind = .nbar then some w.a.toNat else none
  | none => none

/-- A thread that forms a flight or waits to join one, or waits for the drain of a REPART, gives that up; its image issues
the instruction again. -/
def State.unform (s : State) (c t : Nat) : State :=
  match (s.thread c t).life with
  | .parked .lead | .parked .join | .parked .drain =>
    (s.leaveForming c t).modThread c t fun th => { th with life := .runnable }
  | _ => s

/-- Step 2: every parked typed operation and every parked NBAR is cancelled, and the NBAR state of the groups concerned is
reset at every member. -/
def State.cancelAll (s : State) (l : Nat) (e : LaunchEnt) : State :=
  let xs := s.launchThreads l e
  let groups := (xs.filterMap s.nbarGroup).eraseDups
  let s := xs.foldl (fun s x => ((s.unform x.1 x.2).cancelTyped x.1 x.2).cancelNbar x.1 x.2) s
  groups.foldl (fun s g => s.nbResetAll g (s.members g)) s

/-- A command belongs to a launch. -/
def Ctx.of (x : Ctx) (l : Nat) : Bool := x.launch == some l

/-- The answers to an instruction that was set aside are its whole outcome: not those of a GRPSET or a TLBINV, which are issued
again. -/
def Aside.whole (a : Aside) : Bool := a.wait.kind != .grpset && a.wait.kind != .tlbinv

/-- Every answer to an instruction that was set aside has come. -/
def Aside.answered (a : Aside) : Bool := !a.whole || decide (a.wait.left ≤ a.got.length)

/-- An instruction that was set aside has been performed, and is not issued again (R2): its answers have come, none is a trap, and it
has done more than to read. -/
def Aside.performed (a : Aside) : Bool :=
  a.answered && (a.got.all fun x => match x.2 with | .trap .. => false | _ => true) && match a.wait.kind with
    | .store | .matrix | .tnext => true
    | _ => false

/-- Its values are delivered where no register was emptied for them: MSTAT and TNEXT. -/
def Aside.deliver (a : Aside) (t : Thread) : Thread :=
  match a.wait.kind, a.got.head? with
  | .store, _ => t
  | _, some (none, .value v) => t.deliver a.wait.dst v
  | _, _ => t

/-- The image of a thread resumes behind an instruction that was set aside and has been performed: TRAPPC moves past it (log entry
8). -/
def Thread.settleAside (t : Thread) : Thread :=
  let t' := t.aside.foldl (fun t a =>
    if a.performed && t.trappc == a.pc && t.pc != a.pc then { a.deliver t with trappc := t.trappc + word a.wait.len } else t) t
  { t' with aside := [] }

/-- Steps 2 to 5 are over: no thread of the launch awaits a reply or an access, every KPUT has written its register, its matrix
commands are performed and the latch they filled is active, and its copy commands have made every write or are queued by live
threads. -/
def State.drainedLaunch (s : State) (l : Nat) (e : LaunchEnt) : Bool :=
  e.adding.isEmpty
    && (s.launchThreads l e).all (fun x =>
      let th := s.thread x.1 x.2
      th.wait.isNone && th.aside.all Aside.answered && th.outs.all fun o => o.dst == .fetch)
    && e.parts.all (fun c =>
      let k := s.coreAt c
      k.mq.all (fun m => !m.ctx.of l) && k.shadow.isNone && k.lateq.all (fun x => !x.ctx.of l)
        && k.kw.all (fun w => !(s.launchSlots c l).contains w.slot) && k.cq.all fun m => !m.ctx.of l || (m.run.isNone && s.copyHeld c m))

/-! ### Images and the list (R389 steps 6 and 7) -/

/-- A trap that fell due during the hold, or a deferred one, is taken, so that the image holds it; a recorded operation stays
due. -/
def State.settle (s : State) (c t : Nat) : State :=
  let s := match (s.thread c t).asideDue with
    | some a => if a.whole then s.takeAside c t a else s
    | none => s
  let due := (s.thread c t).reissueDue
  let s := (s.modThread c t fun th => { th.settleAside with held := false, walk := none }).takeOwed c t
  s.modThread c t fun th =>
    { th with held := true, reissue := match th.reissue with
        | some r => if due then some { r with pc := th.pc, intrap := th.intrap } else none
        | none => none }

/-- The thread of a launch whose image saves what a slot holds: the slot itself, or the launch's lowest live slot when the
slot is not live. -/
def State.saver (s : State) (c l slot : Nat) : Option Nat :=
  if (s.launchSlots c l).contains slot then some slot
  else if (s.thread c slot).live then none
  else (s.launchSlots c l).head?

/-- The tiles that a thread's image saves. -/
def State.savedTiles (s : State) (c l t : Nat) : List Nat :=
  (List.range 4).filter fun i =>
    let tile := (s.coreAt c).tile i
    (tile.live || tile.anchor != 0) && s.saver c l (tile.holder.getD 16) == some t

/-- What surrounds a thread in its image. -/
def State.saveCtx (s : State) (c l t : Nat) : ImageCtx :=
  let k := s.coreAt c
  { kind := 2, tiles := s.savedTiles c l t, latch := k.active.valid && s.saver c l k.active.holder == some t,
    copies := k.queuedBy t }

/-- Where the images of a launch go and what they hold, with the ASID each is written under (R389). -/
def State.imagesOf (s : State) (l base : Nat) (e : LaunchEnt) : List (Nat × Nat × List Byte) :=
  (s.launchThreads l e).map fun x =>
    ((s.thread x.1 x.2).asid.toNat, paOff base + imageOff (e.parts.findIdx (· == x.1)) x.2,
      imageOf s x.1 x.2 (s.saveCtx x.1 l x.2))

/-- The pre-emption list: tiles left and slots saved, in rank order (R389). -/
def State.listBytes (s : State) (l : Nat) (e : LaunchEnt) : List Byte :=
  e.parts.flatMap fun c =>
    let r := tget e.ranges c ⟨0, 0⟩
    let tiles := if r.left = 0 then 2 ^ 64 - 1 else r.next + (r.next + r.left - 1) * 2 ^ 32
    leBytes 8 tiles ++ leBytes 8 (bitsOf 16 fun t => (s.launchSlots c l).contains t)

/-- Every slot of the launch becomes not live, and its queued copy commands are gone. -/
def State.freeSlots (s : State) (l : Nat) (e : LaunchEnt) : State :=
  let s := e.parts.foldl (fun s c => s.modCore c fun k => { k with cq := k.cq.filter fun m => !m.ctx.of l }) s
  (s.launchThreads l e).foldl (fun s x => (s.noteEnd x.1 x.2 3 0xFD).setThread x.1 x.2 {}) s

/-- The traps of the threads of a launch that fell due are taken. -/
def State.settleAll (s : State) (l : Nat) (e : LaunchEnt) : State := (s.launchThreads l e).foldl (fun s x => s.settle x.1 x.2) s

/-- What steps 6 and 7 write: the images and the list (R389). -/
def State.saveWrites (s : State) (l base : Nat) (e : LaunchEnt) : List (Nat × Nat × List Byte) :=
  s.imagesOf l base e ++ [(recAsid e.words, paOff base + listOff e.parts.length, s.listBytes l e)]

/-- No request is in progress on a line that the images and the list go to. -/
def State.saveQuiet (s : State) (l base : Nat) (e : LaunchEnt) : Bool :=
  ((s.settleAll l e).saveWrites l base e).all fun x => s.bytesQuiet x.2.1 x.2.2.length

/-- A part of what is to be written is refused (R264). -/
def State.saveRefused (s : State) (l base : Nat) (e : LaunchEnt) : Bool :=
  ((s.settleAll l e).saveWrites l base e).any fun x => !s.mayWrite x.2.1 x.2.2.length

/-- Steps 6 and 7: the images and the list are written, and the launch completes with result 2. -/
def State.saveLaunch (s : State) (l base : Nat) (e : LaunchEnt) : State :=
  let s := s.settleAll l e
  let s := (s.saveWrites l base e).foldl (fun s x => s.mgmtWrite x.1 x.2.1 x.2.2) s
  let s := s.freeSlots l e
  match tget? s.launches l with
  | some e => s.completeLaunch l e 2 (leBytes 8 (base + listOff e.parts.length))
  | none => s

/-! ### RESUME (R392) -/

/-- An entry of a pre-emption list: the range left and the slot mask. -/
def listEntry (b : List Byte) (rank : Nat) : Range × Nat :=
  let w := word8 b (16 * rank)
  let mask := word8 b (16 * rank + 8) % 2 ^ 16
  let first := w % 2 ^ 32
  let last := w / 2 ^ 32
  if w = 2 ^ 64 - 1 then (⟨0, 0⟩, mask) else (⟨first, last + 1 - first⟩, mask)

/-- The zero bits of the entries of a list (R389). -/
def listZero (b : List Byte) (n : Nat) : Bool := (List.range n).all fun r => word8 b (16 * r + 8) / 2 ^ 16 == 0

/-- The images that a list names, rank by rank: rank, slot, bytes. -/
def State.readImages (s : State) (asid base : Nat) (b : List Byte) (n : Nat) : List (Nat × Nat × List Byte) :=
  (List.range n).flatMap fun r =>
    ((List.range 16).filter fun t => (listEntry b r).2.testBit t).map fun t =>
      let off := paOff base + imageOff r t
      let w0 := word8 (s.peekBytes asid off 8) 0
      (r, t, s.peekBytes asid off (imageLength w0))

/-- The ranges of local memory that a RESUME reads under its ASID (R372, R392). -/
def State.resumeReads (s : State) (asid record base list : Nat) : List (Nat × Nat) :=
  match s.readRecord asid record with
  | none => []
  | some ws =>
    let n := (s.members (recGroup ws)).length
    (paOff record, 64) :: (if (s.recordReason ws asid).isSome || s.freeLaunch.isNone then [] else
      (paOff list, 16 * n) :: (s.readImages asid base (s.peekBytes asid (paOff list) (16 * n)) n).map fun x =>
        (paOff base + imageOff x.1 x.2.1, x.2.2.length))

/-- The number of entries a list has, as its place from the save base tells (R389); a list elsewhere is taken to have as many
as the group has live members. -/
def listCount (base list n : Nat) : Nat :=
  if list > base && (list - base) % (262144 * 16) = 0 then (list - base) / (262144 * 16) else n

/-- The REASON an image is refused with (R392); one of a slot beyond the partition counts as of another PART. -/
def State.imageWrong (s : State) (ws : List Word) (parts : List Nat) (x : Nat × Nat × List Byte) : Option Nat :=
  match partOf (recPart ws) with
  | none => some 4
  | some p =>
    let th := imageThread x.2.2 p (tget s.mgmt.ptbase (recAsid ws) 0)
    match s.imageReason (parts.getD x.1 0) ws x.2.2 p th with
    | some r => some r
    | none => if x.2.1 ≥ Part.slots p then some 4 else none

/-- Two images of one rank hold one tile, or more than one of them the latch (reason 8 of R392). -/
def imagesClash (l : List Image) : Bool :=
  l.any fun i => l.any fun j => i.rank == j.rank && i.slot != j.slot &&
    ((i.latch.isSome && j.latch.isSome) || i.tiles.any fun t => j.tiles.any fun u => t.1 == u.1)

/-- A resumed launch takes its table entry: ranges and images from the list, and the participants without an image as
ended. -/
def State.resumeLaunch (s : State) (l : Nat) (ws : List Word) (src : Nat) (b : List Byte) (images : List Image) : State :=
  let s := s.newLaunch l ws src none false
  match tget? s.launches l with
  | none => s
  | some e =>
    let ranks := List.range e.parts.length
    let e := { e with ranges := ranks.map (fun r => (e.parts.getD r 0, (listEntry b r).1)), resumed := true, images := images,
                      closed := (ranks.filter fun r => (listEntry b r).2 == 0).map fun r => e.parts.getD r 0 }
    (s.withLaunch l e).launchCheck l

/-- RESUME: the record is admitted as R332 lays down, then the list and every image are checked. The reply carries the
launch number. -/
def State.dbgResume (s : State) (asid src record base list : Nat) : State × Ans :=
  if (record / 2 ^ 39 == s.devnum && meetsCarve (paOff record) 64) then (s, { status := 4, reason := 1 })
  else if base / 2 ^ 39 != s.devnum || list / 2 ^ 39 != s.devnum then (s, { status := 1 })
  else
    let s := (s.resumeReads asid record base list).foldl (fun s x => s.readUnder asid x.1 x.2) s
    match s.readRecord asid record with
    | none => (s, { status := 5, reason := 8 })
    | some ws =>
      match s.recordReason ws asid, s.freeLaunch with
      | some r, _ => (s, { status := 5, reason := r })
      | none, none => (s, { status := 3 })
      | none, some l =>
        let parts := s.members (recGroup ws)
        let n := parts.length
        if listCount base list n != n then (s, { status := 4, reason := 8 })
        else if meetsCarve (paOff list) (16 * n) then (s, { status := 4, reason := 1 })
        else
          let b := s.peekBytes asid (paOff list) (16 * n)
          let raw := s.readImages asid base b n
          if raw.any (fun x => meetsCarve (paOff base + imageOff x.1 x.2.1) x.2.2.length) then (s, { status := 4, reason := 1 })
          else if !listZero b n then (s, { status := 4, reason := 2 })
          else
          match raw.findSome? (s.imageWrong ws parts) with
          | some r => (s, { status := 4, reason := r })
          | none =>
            let p := (partOf (recPart ws)).getD .p16
            let images := raw.map fun x =>
              imageHeld x.2.2 x.1 x.2.1 (imageThread x.2.2 p (tget s.mgmt.ptbase (recAsid ws) 0))
            if imagesClash images then (s, { status := 4, reason := 8 })
            else (s.resumeLaunch l ws src b images, { payload := leBytes 1 l })

end Sys2Proof.Machine
end

