-- ==== Sys2Proof/Machine/Recovery.lean ====
section
/-! DEFINITION. The security alarm (R373, R374), background checking (R375, R376), fencing (R379 to R382), failure reports
(R383 to R385), and unreachable devices (R386 to R388). -/

namespace Sys2Proof.Machine

open Sys2Proof

/-! ### The security alarm (R374) -/

/-- The payload of a 0xC3 notice. -/
def Alarm.bytes (a : Alarm) : List Byte :=
  leBytes 8 a.time.toNat ++ leBytes 4 a.causes.toNat ++ leBytes 2 a.dies.toNat ++ leBytes 2 0 ++ leBytes 4 a.reading
    ++ leBytes 4 0

/-- The alarm: keys erased, everything stopped, and core SRAM, slices, waiter entries and registers zero. HBM keeps its
ciphertext. The reading belongs to a sensor, so it is 0 for TAMPER, ATTEST and COMMAND alone. -/
def State.raiseAlarm (s : State) (causes : BitVec 6) (dies : BitVec 4) (reading : Nat) : State :=
  if causes = 0 || s.alarm.isSome then s
  else
    let a : Alarm := ⟨s.time, causes, dies, if fld causes 0 3 = 0 then 0 else reading % 2 ^ 32⟩
    let s : State := { s with
      rootKey := false, cores := [], dir := [], pushes := [], waiters := [], ahead := [], launches := [], binds := [], tt := [],
      podOut := [], progress := [], flights := [], sliceSheets := [], net := [], alarm := some a }
    s.notify s.noticeAddr 0xC3 0 0 a.bytes

/-- SECURITY_ALARM (R373, R374): monitored from bring-up step 5 onward. -/
def execSecurityAlarm (causes : BitVec 6) (dies : BitVec 4) (reading : Nat) (s : State) : Out' :=
  .next (s.raiseAlarm causes dies reading)

/-! ### Background checking (R375, R376) -/

/-- MERRLOG after an error: the most recent error, and the count of corrected ones (R376). -/
def merrNote (w : Word) (unit cls loc n : Nat) : Word :=
  let count := min 65535 (fld w 32 16 + n)
  word (2 ^ 63 + unit % 8 * 2 ^ 60 + cls * 2 ^ 58 + count * 2 ^ 32 + loc % 2 ^ 21)

/-- A word of an L1 line becomes poison. -/
def State.poisonL1 (s : State) (c line w : Nat) : State :=
  match (s.coreAt c).lineAt line with
  | some l => s.setLine c line { l with lv := { l.lv with bad := setBit l.lv.bad w true } }
  | none => s

/-- What background checking finds at a core. A damaged word of the staging buffer is poison in the row that the copy engine has read
(R375; log entry 108). -/
def State.scrubCore (s : State) (c : Nat) (f : Scrubbed) : State :=
  match f with
  | .corrected unit loc n => s.modCore c fun k => { k with merrlog := merrNote k.merrlog (unit % 6) 0 loc n }
  | .spmWord off =>
    s.modCore c fun k => { k with merrlog := merrNote k.merrlog 0 1 off 0, spmBad := insertNat (off / 8) k.spmBad }
  | .l1Word line w loc =>
    (s.poisonL1 c line (w % 8)).modCore c fun k => { k with merrlog := merrNote k.merrlog 0 1 loc 0 }
  | .stagingWord off =>
    let poison (r : CopyRun) : CopyRun := { r with got := match r.got[off / 8]? with
      | some w => r.got.set (off / 8) (w.1, true)
      | none => r.got }
    let s := match s.copyHead c with
      | some (_, r) => s.setRun c (poison r)
      | none => s
    s.modCore c fun k => { k with merrlog := merrNote k.merrlog 4 1 off 0 }
  | .homeWord _ | .hbm _ | .hbmWord _ => s

/-- A line is homed at a slice, and held in its stack (R20, R190). -/
def homedAt (n off : Nat) : Bool := homeSlice (off % 2 ^ 39) (inPool (off % 2 ^ 39)) == n

/-- What background checking finds at a slice or in its HBM stack: the firmware counts it, and a word that cannot be corrected is
poison (R375, R376). -/
def State.scrubSlice (s : State) (n : Nat) (f : Scrubbed) : State :=
  let slice (s : State) (k : Nat) : State := { s with sliceErr := tset n (tget s.sliceErr n 0 + k) s.sliceErr }
  let stack (s : State) (k : Nat) : State := { s with hbmErr := tset (n / 16) (tget s.hbmErr (n / 16) 0 + k) s.hbmErr }
  let poison (off : Nat) : State := { s with memBad := insertNat (off % 2 ^ 39 / 8) s.memBad }
  match f with
  | .corrected _ _ k => slice s k
  | .homeWord off => if homedAt n off then slice (poison off) 1 else s
  | .hbm k => stack s k
  | .hbmWord off => if homedAt n off then stack (poison off) 1 else s
  | _ => s

/-- SCRUB (R375): corrected words keep their value; a data word that cannot be corrected becomes poison. -/
def execScrub (p : SheetPlace) (f : Scrubbed) (s : State) : Out' :=
  match p with
  | .core n => if coreOk n then .next (s.scrubCore n f) else .fault .noSuchPart
  | .slice n => if n < 128 then .next (s.scrubSlice n f) else .fault .noSuchPart

/-- A dirty copy of a line that cannot be read is poison throughout (R375). -/
def Core.loseLine (line : Nat) (k : Core) : Core :=
  match tget? k.l1 line with
  | some l => if l.st.dirty && !l.via.priv then { k with l1 := tset line { l with lv := { l.lv with bad := 0xFF } } k.l1 } else k
  | none => k

/-- DIRECTORY_REBUILD (R375): the home recalls the line from every L1 and goes on with an empty entry; a dirty copy that cannot be
read is poison. -/
def execDirectoryRebuild (r : Rebuild) (s : State) : Out' :=
  let line := r.line
  let d := s.dirAt line
  if d.owner.isNone && d.sharers.isEmpty then .next s
  else
    let s := if r.lost then { s with cores := s.cores.map fun c => (c.1, c.2.loseLine line) } else s
    .next (s.homeArrive ⟨⟨s.devnum, 0, 0, 0⟩, d.asid, line, false, false, .flush⟩)

/-! ### Failure reports (R383, R384) -/

/-- An item's 32 bytes (R384). -/
def RItem.bytes (i : RItem) : List Byte :=
  leBytes 8 (i.kind * 2 ^ 56 + i.outcome * 2 ^ 52 + i.slot % 16 * 2 ^ 48 + i.launch % 64 * 2 ^ 42 + i.maj % 64 * 2 ^ 32
      + i.detail % 2 ^ 32)
    ++ leBytes 8 i.addr.toNat ++ leBytes 8 i.value.toNat ++ leBytes 8 i.aux.toNat

/-- Items in frames of 255; a report without items has one frame. -/
def reportFrames : Nat → List RItem → List (List RItem)
  | 0, _ => []
  | f + 1, l => if l.length ≤ 255 then [l] else l.take 255 :: reportFrames f (l.drop 255)

/-- The header of a frame of a report (R383). -/
def State.reportHead (s : State) (about unit total frame : Nat) (last : Bool) (time : Word) : List Byte :=
  leBytes 8 time.toNat ++ leBytes 2 s.devnum ++ leBytes 2 about ++ leBytes 1 unit ++ leBytes 1 0
    ++ leBytes 2 s.report ++ leBytes 4 total ++ leBytes 2 frame ++ leBytes 1 (b2n last) ++ leBytes 9 0

/-- A failure report is sent in its notices (R383). -/
def State.sendReport (s : State) (typ about unit : Nat) (time : Word) (items : List RItem) : State :=
  let s := { s with report := (s.report + 1) % 2 ^ 16 }
  let frames := reportFrames (items.length + 1) items
  let n := frames.length
  (List.range n).foldl (fun s i =>
    s.notify s.noticeAddr typ i s.report
      (s.reportHead about unit items.length i (i + 1 == n) time ++ (frames.getD i []).flatMap RItem.bytes)) s

/-! ### Items (R385) -/

/-- Launch number of a thread; 0 without one. -/
def Thread.launchNo (t : Thread) : Nat := t.launch.getD 0

/-- The items of an entry that leaves its object (kinds 1 and 2): an arrival or release it made stands. DEDUCED (log entry 142): a
wait that holds a ticket is reported by both kinds, the wait and the voided ticket. -/
def entryItems (slot launch : Nat) (w : Waiter) : List RItem :=
  let one : RItem :=
    { kind := 1, outcome := if TypedKind.donePart w.req.k then 2 else 0, slot := slot, launch := launch, maj := w.req.maj,
      addr := word w.req.pa, value := w.shown, aux := word w.deadline }
  let void (lock : Nat) : RItem :=
    { kind := 2, outcome := 2, slot := slot, launch := launch, maj := w.req.maj, addr := word lock, value := w.operand }
  if w.req.k = .lckAcq then [one, void w.req.pa]
  else if w.req.k = .cndWait && w.stage = 1 then [one, void w.req.lockPa]
  else [one]

/-- The item of a granted put (kind 3). -/
def grantItem (slot launch outcome : Nat) (w : Waiter) : RItem :=
  { kind := 3, outcome := outcome, slot := slot, launch := launch, maj := w.req.maj, addr := word w.req.pa, value := w.operand }

/-- The item of a copy command (kinds 4 and 5). -/
def copyItem (m : CopyCmd) : RItem :=
  let started := m.run.isSome
  { kind := if started then 4 else 5, outcome := if started then 2 else 0, slot := m.ctx.slot,
    launch := m.ctx.launch.getD 0, maj := m.word / 2 % 64, addr := tget m.x 0 0,
    value := match m.run with | some r => word (rowsDone (descOf m.x) r) | none => tget m.x 2 0, aux := tget m.x 1 0 }

/-- The operand address of a matrix operation; 0 for one without. -/
def MatOp.addr (o : MatOp) : Word :=
  match o with
  | .mwl _ a | .mma _ _ a _ | .accrd _ _ a _ _ | .accsave _ a | .accload _ a => a
  | _ => 0

/-- The item of a matrix command (kind 6). -/
def matrixItem (m : MatCmd) : RItem :=
  { kind := 6, slot := m.ctx.slot, launch := m.ctx.launch.getD 0, maj := m.word / 2 % 64, addr := m.op.addr,
    value := word m.word }

/-! ### The fence (R379) -/

/-- Items are added to the report of a fence in progress. -/
def State.fenceItems (s : State) (c : Nat) (l : List RItem) : State :=
  s.modCore c fun k => { k with fencing := k.fencing.map fun f => { f with items := f.items ++ l } }

/-- The accesses that wait at a line of a fenced core have not left it: they are discarded (kind 7). -/
def State.discardLine (s : State) (c line : Nat) (l : L1Line) : State :=
  let item (w : L1Acc) : Option RItem :=
    let th := s.thread c w.slot
    (th.outs.find? fun o => o.id == w.id).map fun o =>
      { kind := 7, slot := w.slot, launch := th.launchNo, maj := o.maj, addr := o.va }
  let s := s.fenceItems c (l.waits.filterMap item)
  let s := l.waits.foldl (fun s w => s.modThread c w.slot fun th => { th with outs := th.outs.filter fun o => o.id != w.id }) s
  s.setLine c line { l with waits := [], cinv := false }

/-- The end of a thread of a fenced core: its registers stay, and so do the accesses whose replies are reported. An NBAR ends
without a report, and the stores of queued matrix commands with their commands' items. -/
def Thread.fence (t : Thread) (queued : List Nat) : Thread :=
  { t with life := .notLive, held := false, stepping := false, stepped := none, walk := none, owed := none, deferred := [],
           outs := t.outs.filter fun o => o.maj != 0x31 && o.dst != .fetch && !queued.contains o.id }

/-- A flight that has not formed loses a fenced core: its leader's request fails, or its leader is gone. -/
def State.fenceForming (s : State) (c : Nat) : State :=
  let hit := s.flights.filter fun f => !f.2.formed && f.2.accepted.contains c
  hit.foldl (fun s f => if f.1 = c then s.dropForming c else s.formFault f.1 3 c) s

/-- The item of a late write of a finished copy command that has not left the core (kind 7). -/
def lateItem (x : LateWrite) : RItem :=
  { kind := 7, slot := x.ctx.slot, launch := x.ctx.launch.getD 0, maj := 0x32, addr := x.va }

/-- The row of a started command of which writes are left; none at a row boundary. -/
def CopyRun.openRow (r : CopyRun) (d : Desc) : Option Nat :=
  if r.stop.isSome || (d.op = 2 && r.row < d.rows) then none
  else match r.writes with | (j, _) :: _ => some j | [] => none

/-- Steps 1 to 3 and 5: issue stops, the flight ends, join requests that wait at the core fail (R310), deliveries are rejected, and
what has not left the core is discarded. -/
def State.fenceStart (s : State) (c unit : Nat) : State :=
  let s := s.fenceForming c
  let s := (s.coreAt c).joins.foldl (fun s l => s.formFault l 3 c) s
  let s := match (s.coreAt c).flight with
    | some l => s.endFlight l 6 0 c (· == c)
    | none => s
  let queued := (s.coreAt c).mq.map (·.id)
  let row := (s.copyHead c).bind fun x => x.2.openRow (descOf x.1.x)
  let s := s.modCore c fun k => { k with
    fenced := true, fencing := some ⟨unit, s.time, row, []⟩, threads := k.threads.map fun t => (t.1, t.2.fence queued),
    shadow := none, nb := [], joins := [], spcfg := none, repart := none, tlb := [], ptrs := [], kw := [] }
  let s := s.settlePuts c
  let k := s.coreAt c
  let s := k.l1.foldl (fun s l => s.discardLine c l.1 l.2) s
  let s := s.fenceItems c (k.mq.map matrixItem)
  let s := s.fenceItems c ((k.cq.filter fun m => m.run.isNone).map copyItem)
  let s := s.fenceItems c ((k.lateq.filter fun x => x.id.isNone).map lateItem)
  s.modCore c fun k => { k with mq := [], lateq := [], cq := k.cq.filter fun m => m.run.isSome }

/-- The thread of a request of this device by a core: slot and request number. -/
def TypedReq.ofCore (r : TypedReq) (dev core : Nat) : Option (Nat × Nat) :=
  match r.who with
  | .thread w => if w.dev = dev && w.core = core then some (w.slot, w.id) else none
  | .sig .. => none

/-- Step 4 for one entry: a granted put takes its data from the interface's buffer, and every other waiter leaves its object
(kinds 1 to 3). -/
def State.fenceEntry (s : State) (c : Nat) (w : Waiter) (slot id : Nat) : State :=
  let th := s.thread c slot
  let awaited := th.outs.any fun o => o.id == id
  let s := s.modThread c slot fun th => { th with outs := th.outs.filter fun o => o.id != id }
  match w.kind with
  | .waiter => (s.withdraw w).fenceItems c (entryItems slot th.launchNo w)
  | .granted =>
    if w.written then (if awaited then s.fenceItems c [grantItem slot th.launchNo 1 w] else s)
    else (s.putArrived w.no th.putBuf false).fenceItems c [grantItem slot th.launchNo 1 w]
  | _ => s

/-- Step 4 at the SSPs of this device. -/
def State.fenceEntries (s : State) (c : Nat) : State :=
  s.waiters.foldl (fun s w =>
    match w.req.ofCore s.devnum c with
    | some (slot, id) => if s.waiters.any fun v => v.no == w.no && v.kind == w.kind then s.fenceEntry c w slot id else s
    | none => s) s

/-- Step 4 at other devices: the home is asked to remove what a thread of the core has parked there. -/
def State.fenceRemote (s : State) (c : Nat) : State :=
  let asks := s.podOut.filterMap fun m => match m.body with
    | .request core slot id asid none (.typed ..) =>
      if core = c && id != 0 && (s.thread c slot).outs.any fun o => o.id == id then some (m.dev, slot, id, asid) else none
    | _ => none
  asks.foldl (fun s x =>
    let b : PodOut := .request c x.2.1 x.2.2.1 x.2.2.2 none .cancel
    if s.podOut.any fun m => m.dev == x.1 && m.body == b then s
    else { s with txn := s.txn + 1, podOut := s.podOut ++ [⟨s.txn + 1, x.1, b, s.time.toNat, false⟩] }) s

/-- The started copy command goes on to its next row boundary. -/
def State.finishRow (s : State) (c row : Nat) : Nat → State
  | 0 => s
  | f + 1 =>
    match s.copyHead c with
    | none => s
    | some (m, r) =>
      match r.writes with
      | (j, _) :: _ =>
        if j != row || r.await.isSome || r.stop.isSome then s
        else
          match s.copyStep c m r with
          | (s, true) => State.finishRow s c row f
          | (s, false) => s
      | [] => s

/-- Step 5 for the started copy command (kind 4). -/
def State.fenceCopy (s : State) (c : Nat) : State :=
  let row := (s.coreAt c).fencing.bind (·.row)
  let s := match row with
    | some j => s.finishRow c j moveFuel
    | none => s
  match s.copyHead c with
  | none => s
  | some (m, r) =>
    let boundary := match row, r.writes with
      | some j, (i, _) :: _ => j != i
      | _, _ => true
    if r.await.isSome || !(boundary || r.moved || r.stop.isSome) then s
    else (s.fenceItems c [copyItem m]).modCore c fun k => { k with cq := [] }

/-- The core leaves the directory entry of a line that has no request in progress. -/
def State.leaveDir (s : State) (c line : Nat) : State :=
  let d := s.dirAt line
  if d.busy.isSome then s else s.setDir line { d with sharers := d.sharers.filter (· != c) }

/-- Step 6: dirty lines are written back, one that cannot be read as poison, and shared lines are dropped. -/
def State.fenceLines (s : State) (c : Nat) (lost : List Nat) : State :=
  (s.coreAt c).l1.foldl (fun s e =>
    let (line, l) := e
    let l := if lost.contains line then { l with lv := { l.lv with bad := 0xFF } } else l
    match l.st with
    | .mod | .own | .exc => (s.setLine c line l).evictLine c line
    | .shr => (s.dropLine c line).leaveDir c line
    | _ => s) s

/-- The leaves of the page tables below a table: level, offset of the PTE, and the PTE (R363). -/
def State.leavesFrom (s : State) (asid : Nat) : Nat → Nat → List (Nat × Nat × Nat)
  | 0, _ => []
  | l + 1, table =>
    let level := l + 1
    if paDev table != s.devnum || table % tableSize level != 0 then []
    else
      (List.range (tableSize level / 8)).flatMap fun i =>
        let off := paOff table + 8 * i
        let (p, bad) := s.peekWord asid off
        if bad || !pteBit p 0 || pteMalformed level p then []
        else if ptePointer p then s.leavesFrom asid l (pteFrame p)
        else [(level, off, p)]

/-- The pages private to a core in the page tables that MGMT has registered: ASID, PTE and size (R227, R329). -/
def State.privatePages (s : State) (c : Nat) : List (Nat × Nat × Nat) :=
  s.mgmt.ptbase.flatMap fun b =>
    (s.leavesFrom b.1 4 (fld b.2 17 37 * 2 ^ 17)).filterMap fun x =>
      if pteBit x.2.2 8 && x.2.2 / 2 ^ 54 == c then some (b.1, x.2.1, pageBits x.1 x.2.2) else none

/-- Step 6: once every line has left the L1, the firmware reclassifies the pages private to the core, in the owner's place. -/
def State.fencePages (s : State) (c : Nat) : State :=
  if !(s.coreAt c).l1.isEmpty then s
  else (s.privatePages c).foldl (fun s x => if s.lineQuiet (x.2.1 / 64) then s.reclassify c x.1 x.2.1 else s) s

/-- Nothing of the core is on its way: steps 2 to 6 are over. -/
def State.fenceDone (s : State) (c : Nat) : Bool :=
  let k := s.coreAt c
  k.l1.isEmpty && (s.privatePages c).isEmpty && k.cq.isEmpty && (k.threads.all fun t => t.2.outs.isEmpty)
    && s.waiters.all fun w => (w.req.ofCore s.devnum c).isNone || w.kind == .void || w.kind == .phase || w.written

/-- Step 7: bind records, launches, and the report. A core that has added to DONE before takes STATE 3 and CAUSE 0xFF in the notice
too, as its bind records do (R343). -/
def State.fenceEnd (s : State) (c : Nat) (f : Fencing) : State :=
  let s := (List.range 16).foldl (fun s t =>
    let b := s.bind c t
    if b.valid then s.setBind c t { b with state := 3, cause := 0xFF } else s) s
  let s := s.modCore c fun k => { k with fencing := none }
  let ended (e : LaunchEnt) : LaunchEnt := { e with endState := tset c (3, 0xFF) e.endState }
  let bound (l : Nat) : Bool := (List.range 16).any fun t => (s.bind c t).valid && (s.bind c t).launch == l
  let s : State := { s with launches := s.launches.map fun e => (e.1, if e.2.closed.contains c && bound e.1 then ended e.2 else e.2) }
  let hit := s.launches.filter fun e => e.2.parts.contains c && !e.2.closed.contains c
  let s := hit.foldl (fun s e =>
    (s.withLaunch e.1 { ended e.2 with closed := insertNat c e.2.closed, adding := tdel c e.2.adding }).launchCheck e.1) s
  s.sendReport 0xC4 c f.unit f.time f.items

/-- The fence goes on: what other parts still hold of the core is withdrawn, and the fence ends when nothing is left. -/
def State.fenceGo (s : State) (c : Nat) (lost : List Nat) : State :=
  let s := ((((s.fenceEntries c).fenceRemote c).fenceCopy c).fenceLines c lost).fencePages c
  if s.fenceDone c then
    match (s.coreAt c).fencing with
    | some f => s.fenceEnd c f
    | none => s
  else s

/-- A fence of a live core begins, or one in progress goes on. -/
def State.fence (s : State) (c unit : Nat) (lost : List Nat) : State :=
  if s.liveCore c then (s.fenceStart c unit).fenceGo c lost
  else if (s.coreAt c).fencing.isSome then s.fenceGo c lost
  else s

/-- FENCE_CORE (R379): an uncorrectable control error of a unit; MERRLOG records it when the fence begins (R376). -/
def execFenceCore (c unit loc : Nat) (lost : List Nat) (s : State) : Out' :=
  if !coreOk c then .fault .noSuchPart
  else if s.alarm.isSome then .next s
  else
    let s := if s.liveCore c then s.modCore c fun k => { k with merrlog := merrNote k.merrlog (unit % 6) 2 loc 0 } else s
    .next (s.fence c (unit % 6) lost)

/-- ROUTER_BYPASS (R382): the router passes straight through from now on, and the core behind it is fenced. -/
def execRouterBypass (c : Nat) (s : State) : Out' :=
  if !coreOk c then .fault .noSuchPart
  else if s.alarm.isSome then .next s
  else .next ((({ s with bypass := insertNat c s.bypass }) : State).fence c 7 [])

/-! ### Unreachable devices (R386 to R388) -/

/-- The MAJ and address of a thread's access. -/
def State.outOf (s : State) (c t id : Nat) : Option Out := (s.thread c t).outs.find? fun o => o.id == id

/-- The address that a request of the pod transport to a device names. -/
def podAddr (dev : Nat) (r : PodReq) : Word :=
  match r with
  | .access pa _ _ => word pa
  | .typed _ _ pa .. => word pa
  | .reduce pa .. => word pa
  | .mesh x y off _ => meshWord dev x y off
  | _ => 0

/-- The engine command of a core that awaits a request: its MAJ and the address it accesses. -/
def State.engineOf (s : State) (c id : Nat) : Option (Nat × Word) :=
  let copy := (s.copyHead c).bind fun (m, r) =>
    let d := descOf m.x
    let va := if r.moved || r.stop.isSome then tget m.x 5 0 + word (8 * r.record)
      else match r.writes, decide (d.op = 2 ∧ r.row < d.rows) with
        | (_, va, _) :: _, false => va
        | _, _ => ((d.nextRead r.row r.got.length).map (·.1)).getD 0
    if r.await == some id then some (m.word / 2 % 64, va) else none
  let late := ((s.coreAt c).lateq.find? fun x => x.id == some id).map fun x => (0x32, x.va)
  let matrix := (s.coreAt c).mq.findSome? fun m =>
    (tget? m.got id).map fun x => (m.word / 2 % 64, m.op.addr + word (8 * x.1))
  (copy.or late).or matrix

/-- The item of an access that an unreachable device was sent (kind 8): a thread's, or an engine command's. -/
def State.lostItem (s : State) (dev c t id : Nat) (r : PodReq) : RItem :=
  let (maj, va) := match s.outOf c t id with
    | some o => (o.maj, o.va)
    | none => match s.engineOf c id, r with
      | some x, _ => x
      | none, .typed _ maj _ va .. => (maj, va)
      | none, r => (0, podAddr dev r)
  { kind := 8, outcome := 3, slot := t, launch := (s.thread c t).launchNo, maj := maj, addr := va }

/-- A thread's own access to an unreachable device is lost: its register stays empty, and the class counts fall. -/
def State.loseOut (s : State) (c t : Nat) (o : Out) : State :=
  let s := s.modThread c t fun th => { th with outs := th.outs.filter fun p => p.id != o.id }
  match o.dst with
  | .map _ => s.answered c t o (.trap 0x12 o.va (word (1 * 2 ^ 16 + o.maj * 2 ^ 8 + 5)))
  | .elem g _ =>
    s.modThread c t fun th =>
      let th := th.asideLost o none
      let th := match th.gathers.find? fun h => h.id == g with
        | some h => { (th.leaveEmpty (.v h.d) g) with gathers := th.gathers.filter fun h => h.id != g }
        | none => th
      match th.wait with
      | some w => if w.owns o then th.giveUp else th
      | none => th
  | dst =>
    s.modThread c t fun th =>
      let th := (th.asideLost o none).leaveEmpty dst o.id
      match th.wait with
      | some w => if w.owns o then th.giveUp else th
      | none => th

/-- One deferred UNCORR of kind 5 for the accesses a thread has lost (R378, R386). -/
def State.loseOuts (s : State) (c t : Nat) (l : List Out) : State :=
  let s := l.foldl (fun s o => s.loseOut c t o) s
  match l.filter fun o => match o.dst with | .map _ => false | _ => true with
  | [] => s
  | o :: rest =>
    s.defer c t ⟨0x12, o.va, word (2 ^ 63 + min 65535 (rest.length + 1) * 2 ^ 16 + o.maj * 2 ^ 8 + 5)⟩

/-- What a request to an unreachable device that is no plain access of a thread ends in: a typed operation traps with WAITLIMIT, UNREACH and SENT,
an addition to DONE is refused, the SIG of an engine command leaves a deferred UNCORR (R417), and an engine's command meets
reason 21. -/
def State.loseRequest (s : State) (m : PodMsg) : State :=
  match m.body with
  | .request c t id _ _ (.typed _ maj _ va ..) =>
    if id = 0 then s.defer c t ⟨0x12, va, word (2 ^ 63 + 1 * 2 ^ 16 + maj * 2 ^ 8 + 5)⟩
    else if s.launches.any fun e => tget? e.2.adding c == some id then s.coreReply c t id (.trap 0x12 va 0)
    else s.coreReply c t id (.trap 0x0A va (word (2 ^ 57 + 2 ^ 56)))
  | .request c t id _ _ (.access ..) | .request c t id _ _ (.mesh ..) | .request c t id _ _ (.reduce ..) =>
    match s.outOf c t id with
    | some _ => s
    | none => s.coreReply c t id (.trap 0x12 0 0)
  | _ => s

/-- A request of a thread whose access is no typed operation. -/
def State.lostOut (s : State) (c t : Nat) (m : PodMsg) : Option Out :=
  match m.body with
  | .request core slot id _ _ r =>
    match r with
    | .typed .. | .putData .. | .cancel => none
    | _ => if core = c && slot = t then s.outOf c t id else none
  | .reply .. => none

/-- Requests of this device that an unreachable one was sent, as items of the report. -/
def State.lostItems (s : State) (l : List PodMsg) : List RItem :=
  l.filterMap fun m => match m.body with
    | .request c t id _ _ r => match r with
      | .putData .. | .cancel => none
      | _ => some (s.lostItem m.dev c t id r)
    | .reply .. => none

/-- An entry of a requester on an unreachable device leaves its object (R387). -/
def dropPeer (dev : Nat) (x : State × List RItem) (w : Waiter) : State × List RItem :=
  let (d, _, slot) := w.req.party
  if d != dev || !(x.1.waiters.any fun v => v.no == w.no && v.kind == w.kind) then x
  else
    match w.kind with
    | .waiter => (x.1.withdraw w, x.2 ++ entryItems slot 0 w)
    | .granted => if w.written then x else (x.1.putArrived w.no 0 true, x.2 ++ [grantItem slot 0 4 w])
    | _ => x

/-- The items of open progress records (kind 9, R388). -/
def Progress.item (p : Progress) : RItem :=
  { kind := 9, outcome := 2, detail := p.dev * 2 ^ 16 + p.core, addr := word p.next, value := word p.count, aux := word p.cmd }

/-- The operand register of a typed operation. -/
def typedAddr (i : Instr) : Option GReg :=
  match i with
  | .ldsy _ _ a _ | .stsy _ _ _ a | .cntAdd _ _ a | .cntFadd _ _ a _ | .cntWait _ _ _ a _ | .barArr _ a _ | .barWait _ _ _ a _
  | .barArw _ _ a _ | .lckAcq _ _ a | .lckRel _ a | .qPut _ _ _ a | .qGet _ _ a _ | .cndWait _ _ _ a | .cndSig _ a _
  | .tinit _ _ _ a _ | .traw _ _ _ a _ | .tclr _ a => some a
  | _ => none

/-- The object of a typed operation whose thread is parked before its request can leave: for its release at .pod, an acquire, or the
matrix queue (R199, R207, R271). -/
def State.unsentTyped (s : State) (c t : Nat) : Option (Word × Nat) :=
  let th := s.thread c t
  let va := ((th.kept.bind typedAddr).map fun a => th.gv a).or (if th.reissueDue then th.reissue.map (·.a) else none)
  match th.life, va with
  | .parked (.order .pod), some va | .parked .acquire, some va | .parked (.operand _), some va =>
    (s.resolve th va { r := true, w := true }).map fun pa => (va, pa)
  | _, _ => none

/-- A typed operation whose request to an unreachable device had not left traps with WAITLIMIT, UNREACH = 1 and SENT = 0 (R386). -/
def State.loseUnsent (s : State) (dev c t : Nat) : State :=
  match s.unsentTyped c t with
  | some (va, pa) =>
    if paDev pa = dev then (s.modThread c t fun th => { th with life := .runnable }).trapBefore c t 0x0A va (word (2 ^ 57)) 4 else s
  | none => s

/-- A device becomes unreachable. -/
def State.losePeer (s : State) (dev : Nat) : State :=
  let sent := s.podOut.filter fun m => m.dev == dev
  let mine := s.lostItems sent
  let s := { s with podGone := insertNat dev s.podGone, podOut := s.podOut.filter fun m => m.dev != dev }
  let s := s.cores.foldl (fun s k => (List.range 16).foldl (fun s t => s.loseOuts k.1 t (sent.filterMap (s.lostOut k.1 t))) s) s
  let s := sent.foldl State.loseRequest s
  let s := s.cores.foldl (fun s k => (List.range 16).foldl (fun s t => s.loseUnsent dev k.1 t) s) s
  let (s, theirs) := s.waiters.foldl (dropPeer dev) (s, [])
  let open_ := (s.progress.filter fun p => p.dev == dev).map Progress.item
  let s := { s with progress := s.progress.filter fun p => p.dev != dev }
  s.sendReport 0xC5 dev 0 s.time (mine ++ theirs ++ open_)

/-- Every request that has arrived from a device has been performed. -/
def State.peerQuiet (s : State) (dev : Nat) : Bool :=
  (s.net.all fun m => m.src != .port dev || (match m.body with | .rput .. => true | _ => false))
    && s.progress.all fun p => p.dev != dev || p.wait.isEmpty

/-- PEER_UNREACHABLE (R348): a datagram has waited for its acknowledgement, and the device has acknowledged nothing, for the time
that MGMT set. What has arrived from it is performed before. -/
def execPeerUnreachable (dev : Nat) (s : State) : Out' :=
  let heard := tget s.podHeard dev 0
  let late := s.podOut.any fun m => m.dev == dev && !m.acked &&
    decide (max m.sent heard + s.mgmt.peerMs * 1000000 ≤ s.time.toNat)
  if s.up && late && !s.podGone.contains dev && s.peerQuiet dev then .next (s.losePeer dev) else .next s

end Sys2Proof.Machine
end

