-- ==== Sys2Proof/Machine/Pod.lean ====
section
/-! DEFINITION. The pod transport as it reaches this device (R347): requests of other devices, their answers, and
acknowledgements, each already in source order. -/

namespace Sys2Proof.Machine

open Sys2Proof

/-! ### Requests of other devices (R196, R272, R388) -/

/-- A request of a copy command opens or extends the command's progress record (R388). -/
def State.noteProgress (s : State) (dev core id : Nat) (cmd : Option (Nat × Option Word)) : State :=
  match cmd with
  | none => s
  | some (n, next) =>
    let mine (p : Progress) : Bool := p.dev == dev && p.core == core && p.cmd == n
    let add (p : Progress) : Progress :=
      { p with next := (next.getD 0).toNat, wait := p.wait ++ [id], last := if next.isNone then some id else none }
    if s.progress.any mine then { s with progress := s.progress.map fun p => if mine p then add p else p }
    else { s with progress := s.progress ++ [add ⟨dev, core, n, 0, 0, [], none⟩] }

/-- A `cancel` of a thread of another device (R293, R379): its entry leaves its object and the requester is told, also when the
request has still to reach its SSP; of a put that has been granted it is told the position. -/
def State.podCancel (s : State) (dev core slot id : Nat) : State :=
  match s.waiters.find? fun w => w.kind == .granted && w.req.by dev core slot id with
  | some w =>
    { s with txn := s.txn + 1, podOut := s.podOut ++
      [⟨s.txn + 1, dev, .reply core slot id (.granted w.operand.toNat), s.time.toNat, false⟩] }
  | none => s.cancelRequest ⟨dev, core, slot, id⟩

/-- A request arrives: it goes to the slice, SSP or core that performs it, behind what came before from its device. -/
def State.podRequest (s : State) (dev core slot id asid : Nat) (cmd : Option (Nat × Option Word)) (r : PodReq) : State :=
  let who : Who := ⟨dev, core, slot, id⟩
  let from_ : Node := .port dev
  match r with
  | .access pa sync a =>
    let q : HomeReq := ⟨who, asid, paOff pa / 64, false, sync, .access (pa % 64) a⟩
    (s.noteProgress dev core id cmd).send from_ q.slice (.home q)
  | .reduce pa el bad =>
    let q : HomeReq := ⟨who, asid, paOff pa / 64, false, false, .reduce (pa % 64) el bad⟩
    (s.noteProgress dev core id cmd).send from_ q.slice (.home q)
  | .mesh x y off a =>
    (s.noteProgress dev core id cmd).send from_ (.core (y * 32 + x)) (.mesh who off a)
  | .typed k maj pa va b lockPa lockOk data lim =>
    let party : TypedWho := if id = 0 then .sig dev core slot 0 else .thread who
    s.send from_ (.slice (homeSlice (paOff pa) true)) (.typed ⟨party, k, maj, pa, va, b, lockPa, lockOk, lim, data, asid⟩)
  | .rput x y slot' vec num val => s.send from_ (.core (y * 32 + x)) (.rput who slot' vec num val none)
  | .putData entry data =>
    match s.waiters.find? fun w => w.no == entry with
    | some w => s.send from_ (.slice w.slice) (.putData entry data)
    | none => s
  | .cancel => s.podCancel dev core slot id

/-! ### Answers (R232, R268, R287) -/

/-- The request of this device that an answer belongs to. -/
def PodMsg.asks (m : PodMsg) (dev core slot id : Nat) : Bool :=
  m.dev == dev && (match m.body with
    | .request c t i _ _ _ => c == core && t == slot && i == id
    | .reply .. => false)

/-- An answer as a core receives it. -/
def podResult (r : PodReply) : Option Result :=
  match r with
  | .value v => some (.value v)
  | .line v bad => some (.line ⟨v, bad⟩)
  | .done => some .done
  | .reject n => some (.reject n)
  | .poison off => some (.poison off)
  | .trap c a b => some (.trap c a b)
  | .putAsk _ | .cancelled .. | .granted _ => none

/-- The physical address of an access as the reports name it; 0 where a walk gives none. -/
def State.outAddr (s : State) (c t : Nat) (o : Out) : Word := word ((s.resolve (s.thread c t) o.va { r := true }).getD 0)

/-- A thread of a fenced core no longer awaits a request, and the report lists items of it. -/
def State.reportOut (s : State) (c t id : Nat) (l : List RItem) : State :=
  (s.modThread c t fun th => { th with outs := th.outs.filter fun o => o.id != id }).fenceItems c l

/-- Another device has removed the entry of a thread here: the thread records its operation, or the report of its fenced core
lists the entry (R385): OPERAND of a CND.WAIT is its lock, on which one at STAGE 1 leaves a void ticket. -/
def State.podCancelled (s : State) (c t id stage : Nat) (operand : Word) (deadline ticket : Nat) : State :=
  match s.outOf c t id with
  | none => s
  | some o =>
    if (s.coreAt c).fenced then
      let th := s.thread c t
      let pa := s.outAddr c t o
      let partly := o.maj = 0x29 || o.maj = 0x2E
      let void := o.maj = 0x2A || (o.maj = 0x2E && stage = 1)
      let one : RItem := { kind := 1, outcome := if partly then 2 else 0, slot := t, launch := th.launchNo, maj := o.maj,
                           addr := pa, value := operand, aux := word deadline }
      let two : RItem := { kind := 2, outcome := 2, slot := t, launch := th.launchNo, maj := o.maj,
                           addr := if o.maj = 0x2E then operand else pa, value := word ticket }
      s.reportOut c t id (if void then [one, two] else [one])
    else s.cancelAnswered c t id (word ticket)

/-- Another device has granted the put of a thread here: it completes, with the data of the interface's buffer when the core is
fenced (R379, R385 kind 3). -/
def State.podGranted (s : State) (c t id pos : Nat) : State :=
  match s.outOf c t id with
  | none => s
  | some o =>
    if (s.coreAt c).fenced then
      s.reportOut c t id [{ kind := 3, outcome := 1, slot := t, launch := (s.thread c t).launchNo, maj := o.maj,
                            addr := s.outAddr c t o, value := word pos }]
    else s

/-- An answer of another device to a request of this one. A request for a put's data leaves the put waiting. -/
def State.podReply (s : State) (dev core slot id : Nat) (r : PodReply) : State :=
  if !(id = 0 || s.podOut.any fun m => m.asks dev core slot id) then s
  else
    match r with
    | .putAsk entry =>
      let body : PodOut := .request core slot 0 (s.thread core slot).asid.toNat none (.putData entry (s.thread core slot).putBuf)
      { s with txn := s.txn + 1, podOut := s.podOut ++ [⟨s.txn + 1, dev, body, s.time.toNat, false⟩] }
    | .cancelled stage operand deadline ticket =>
      ({ s with podOut := s.podOut.filter fun m => !m.asks dev core slot id }).podCancelled core slot id stage operand deadline
        ticket
    | .granted pos => s.podGranted core slot id pos
    | r =>
      match id, podResult r with
      | 0, some (.trap cause v1 v2) => s.defer core slot ⟨cause, v1, v2⟩
      | 0, _ => s
      | _, some res => ({ s with podOut := s.podOut.filter fun m => !m.asks dev core slot id }).coreReply core slot id res
      | _, none => s

/-! ### The transport (R347, R348) -/

/-- A datagram that needs nothing more once it is acknowledged: an answer, and a request that has no answer. -/
def PodOut.spent (b : PodOut) : Bool :=
  match b with
  | .reply .. => true
  | .request _ _ id _ _ r => id == 0 || (match r with | .putData .. | .cancel => true | _ => false)

/-- A datagram of this device is acknowledged. -/
def State.podAcked (s : State) (dev no : Nat) : State :=
  { s with podOut := s.podOut.filterMap fun m =>
      if m.no = no && m.dev = dev then (if m.body.spent then none else some { m with acked := true }) else some m }

/-- POD_DATAGRAM (R347): a datagram of another device arrives in its order. One of an unreachable device is dropped. -/
def execPodDatagram (dev : Nat) (p : PodIn) (s : State) : Out' :=
  if !s.up || dev = s.devnum || 32768 ≤ dev || s.podGone.contains dev then .next s
  else
    match p with
    | .request core slot id asid cmd r => .next (s.podRequest dev core slot id asid cmd r)
    | .reply core slot id r => .next (s.podReply dev core slot id r)
    | .ack no => .next ({ s with podHeard := tset dev s.time.toNat s.podHeard }.podAcked dev no)

/-- POD_RETRANSMIT (R347): a datagram that is not acknowledged is sent again. The receiver performs it once, so nothing that
software sees changes. -/
def execPodRetransmit (_ : Nat) (s : State) : Out' := .next s

end Sys2Proof.Machine
end

