-- ==== Sys2Proof/Machine/Host.lean ====
section
/-! DEFINITION. The host port (R325 to R329): frames, the sequence rule, acknowledgements, and the requests a host makes, with
the writing of the images of a pre-emption, which answers one of them (R389). -/

namespace Sys2Proof.Machine

open Sys2Proof

/-! ### Frames (R326) -/

/-- The header of a request is well formed. -/
def headerOk (f : Frame) : Bool := f.version == 1 && decide (1 ≤ f.typ) && decide (f.typ ≤ 7) && f.lengthOk && f.zeroOk

/-- A reply to a request: its type with bit 7 set, and its sequence number. -/
def replyTo (src typ seq : Nat) (a : Ans) : HostOut := ⟨src, typ % 128 + 128, seq, a.status, a.reason, a.payload⟩

/-- Answer a frame at once. -/
def State.answerFrame (s : State) (f : Frame) (a : Ans) : State := s.sendHost (replyTo f.src f.typ f.seq a)

/-! ### Acknowledgements (R327) -/

/-- The payload of an ACK keeps its layout. -/
def ackOk (typ frame report : Nat) (zeroOk : Bool) : Bool :=
  zeroOk && decide (0xC1 ≤ typ) && decide (typ ≤ 0xC5) && (decide (typ ≥ 0xC4) || frame == 0) && (typ != 0xC3 || report == 0)

/-- ACK: the notice named is sent no more. -/
def State.ackFrame (s : State) (f : Frame) : State :=
  match f.body with
  | .ack typ frame report zeroOk =>
    if ackOk typ frame report zeroOk then
      ({ s with notices := s.notices.filter fun n => !(n.typ == typ && n.frame == frame && n.report == report) }).sendHost
        (replyTo f.src 7 0 {})
    else s.sendHost (replyTo f.src 7 0 { status := 1 })
  | _ => s.sendHost (replyTo f.src 7 0 { status := 1 })

/-! ### MEMWR and MEMRD (R264, R329) -/

/-- A range of bytes names another device. DESIGN CHOICE (log entry 140): an address with one of bits 63:54 set names none that is
this one. -/
def State.otherDevice (s : State) (addr n : Nat) : Bool :=
  addr / 2 ^ 39 != s.devnum || (addr + n - 1) / 2 ^ 39 != s.devnum

/-- The 8-byte words of a range that lie in the pool. -/
def poolWords (addr n : Nat) : List Nat :=
  ((List.range (n / 8 + 2)).map fun i => paOff addr / 8 * 8 + 8 * i).filter fun o =>
    inPool o && decide (o < paOff addr + n)

/-- MEMWR. -/
def State.hostWrite (s : State) (asid addr : Nat) (data : List Byte) : State × Ans :=
  let n := data.length
  if s.otherDevice addr n then (s, { status := 4, reason := 2 })
  else if meetsCarve (paOff addr) n || (poolWords addr n).any (fun o => s.typeOf o != 0) then (s, { status := 4, reason := 1 })
  else (s.pokeBytes asid (paOff addr) data, {})

/-- MEMRD; a line of another ASID is recalled first (R372). -/
def State.hostRead (s : State) (asid addr n : Nat) : State × Ans :=
  if n = 0 || n > 8192 then malformed s
  else if s.otherDevice addr n then (s, { status := 4, reason := 2 })
  else if meetsCarve (paOff addr) n then (s, { status := 4, reason := 1 })
  else
    let off := paOff addr
    let lines := (List.range (n / 64 + 2)).map (fun i => off / 64 + i)
    let bad := lines.any fun l => decide (l * 64 < off + n) && (s.peekLine asid l).bad != 0
    (s.readUnder asid off n, { reason := b2n bad, payload := s.peekBytes asid off n })

/-! ### LAUNCH and TTSET (R332, R344) -/

/-- LAUNCH. -/
def State.hostLaunch (s : State) (asid src addr : Nat) : State × Ans :=
  if addr / 2 ^ 39 = s.devnum && meetsCarve (paOff addr) 64 then (s, { status := 4, reason := 1 })
  else
    let s := s.recordRead asid addr
    match s.readRecord asid addr with
    | none => (s, { status := 5, reason := 8 })
    | some ws =>
      match s.recordReason ws asid, s.freeLaunch with
      | some r, _ => (s, { status := 5, reason := r })
      | none, none => (s, { status := 3 })
      | none, some l => (s.newLaunch l ws src none false, { payload := leBytes 1 l })

/-- An entry keeps the limits of R344. -/
def State.ttOk (s : State) (ws : List Word) : Bool :=
  let w (i : Nat) : Word := ws.getD i 0
  let rule := fld (w 3) 61 2
  let save := (w 4).toNat
  ws.length == 5 && (w 1 == 0 || decide ((w 1).toNat ≥ 10000)) && (w 2).toNat % 64 == 0 && (w 2).toNat / 2 ^ 39 == s.devnum
    && rule != 3 && fld (w 3) 48 13 == 0 && fld (w 3) 0 32 == 0
    && (if rule = 2 then save != 0 && save % 4096 == 0 && save / 2 ^ 39 == s.devnum else save == 0)

/-- The first release of an entry written now (R345). -/
def firstRelease (now start period : Nat) : Option Nat :=
  if now ≤ start then some start
  else if period = 0 then none
  else some (start + (now - start + period - 1) / period * period)

/-- TTSET. DESIGN CHOICE (log entry 75): a release that waits at the entry is dropped with what the TTSET rewrites. -/
def State.hostTtset (s : State) (src idx : Nat) (zeroOk : Bool) (ws : List Word) : State × Ans :=
  if !(decide (idx < 64) && zeroOk && s.ttOk ws) then malformed s
  else
    let w (i : Nat) : Word := ws.getD i 0
    let valid := bitOf (w 3) 63
    let t : TtEnt :=
      { start := (w 0).toNat, period := (w 1).toNat, record := (w 2).toNat, valid := valid, rule := fld (w 3) 61 2,
        asid := fld (w 3) 32 16, missed := 0, save := (w 4).toNat, src := src,
        next := if valid then firstRelease s.time.toNat (w 0).toNat (w 1).toNat else none,
        launch := (tget s.tt idx {}).launch, waiting := none }
    ({ s with tt := tset idx t s.tt }, {})

/-! ### MGMT (R329) -/

/-- The identity reply: stepping, bring-up step, HOLDOVER, alarm causes, device number, TIME, and the error counts of the
slices and of the HBM stacks (R376; log entry 52). -/
def State.identity (s : State) : List Byte :=
  leBytes 1 0xB1 ++ leBytes 1 s.bring ++ leBytes 1 (b2n s.holdover)
    ++ leBytes 1 (match s.alarm with | some a => a.causes.toNat | none => 0) ++ leBytes 2 s.devnum ++ leBytes 2 0
    ++ leBytes 8 s.time.toNat ++ ((List.range 128).flatMap fun n => leBytes 4 (tget s.sliceErr n 0))
    ++ (List.range 8).flatMap fun n => leBytes 4 (tget s.hbmErr n 0)

/-- A setting of the MGMT configuration is within its range. -/
def mgmtOk (op : MgmtOp) : Bool :=
  match op with
  | .setDevnum n => decide (n < 32768)
  | .ptbase asid base => decide (asid < 65536) && sysLegal 0x006 base
  | .podEntry dev _ => decide (dev < 32768)
  | .unreachableMs ms => decide (1 ≤ ms) && decide (ms ≤ 1000)
  | .quota asid q => decide (asid < 65536) && decide (q ≤ 8192)
  | .defaultQuota q => decide (q ≤ 8192)
  | .reserve l => l.all fun a => decide (a < 65536)
  | .policy asid vec win => decide (asid < 65536) && sysLegal 0x010 vec && sysLegal 0x007 win
  | _ => true

/-- What a MGMT operation does. -/
def State.mgmtDo (s : State) (op : MgmtOp) : State × Ans :=
  let m := s.mgmt
  let put (m : Mgmt) : State × Ans := ({ s with mgmt := m }, {})
  match op with
  | .identity => (s, { payload := s.identity })
  | .setDevnum n => put { m with stored := some n }
  | .releaseSource src => ({ s with sources := tdel src s.sources }, {})
  | .erase => (s.raiseAlarm 0x20 0 0, {})
  | .ptbase asid base => put { m with ptbase := tset asid base m.ptbase }
  | .podEntry dev addr =>
    ({ s with mgmt := { m with pod := tset dev addr m.pod }, podGone := s.podGone.filter (· != dev) }, {})
  | .unreachableMs ms => put { m with peerMs := ms }
  | .macsecKeys required => put { m with macsec := required }
  | .backing units => put { m with backing := units }
  | .quota asid q => put { m with quota := tset asid q m.quota }
  | .defaultQuota q => put { m with defaultQuota := q }
  | .reserve l => put { m with reserved := l }
  | .notify addr => put { m with notify := some addr }
  | .policy asid vec win => put { m with policy := tset asid (vec, win) m.policy }
  | .firmware signed => (if signed then s else s.raiseAlarm 0x10 0 0, {})

/-- A MGMT request. Notices 0xC3, 0xC4 and 0xC5 go to the source of the last one performed until an address is set. After a failure of
bring-up every one is answered with the failing step and its cause (R38; log entry 102). -/
def State.hostMgmt (s : State) (src : Nat) (op : MgmtOp) : State × Ans :=
  match s.bringFail with
  | some (step, cause) => (s, { payload := leBytes 1 step ++ leBytes 4 cause })
  | none =>
  if mgmtOk op then ({ s with mgmt := { s.mgmt with lastSrc := src } }).mgmtDo op else malformed s

/-! ### DEBUG (R394) -/

/-- The selector of an operation keeps its zero fields. -/
def debugZero (op : DebugOp) : Bool :=
  match op with
  | .hold d | .release d | .step d | .read d | .write d .. | .arm d .. | .cancel d | .readline d _ => d.zeroOk
  | _ => true

/-- A DEBUG request; none when its answer comes later. -/
def State.hostDebug (s : State) (f : Frame) (op : DebugOp) : State × Option Ans :=
  let now (x : State × Ans) : State × Option Ans := (x.1, some x.2)
  if !debugZero op then now (malformed s)
  else
    match op with
    | .hold d => now (s.dbgHold d)
    | .release d => now (s.dbgRelease d)
    | .step d => now (s.dbgStep d)
    | .read d => now (s.dbgRead d)
    | .write d cls num val full => now (s.dbgWrite d cls num val full)
    | .arm d bits brk wch => now (s.dbgArm d bits brk wch)
    | .readline _ q => now (s.dbgLine q)
    | .sheet p i w => now (s.dbgSheet p i w)
    | .preempt l base => s.dbgPreempt l base f.src f.seq
    | .resume record base list => now (s.dbgResume f.asid f.src record base list)
    | .cancel d => now (s.dbgCancel d)
    | .reserved => now (malformed s)

/-! ### The sequence rule (R328) -/

/-- A request is performed: the state, and its answer when it has one now. -/
def State.perform_ (s : State) (f : Frame) : State × Option Ans :=
  let now (x : State × Ans) : State × Option Ans := (x.1, some x.2)
  match f.typ, f.body with
  | 1, .memwr addr data => now (s.hostWrite f.asid addr data)
  | 2, .memrd addr n => now (s.hostRead f.asid addr n)
  | 3, .launch addr => now (s.hostLaunch f.asid f.src addr)
  | 4, .ttset idx zeroOk ws => now (s.hostTtset f.src idx zeroOk ws)
  | 5, .debug op => s.hostDebug f op
  | 6, .mgmt op => now (s.hostMgmt f.src op)
  | _, _ => now (malformed s)

/-- A source's state replaced, when it still has one. -/
def State.setSource (s : State) (src : Nat) (h : HostSrc) : State :=
  if (tget? s.sources src).isSome then { s with sources := tset src h s.sources } else s

/-- A reply is sent once for each copy of its request. -/
def State.sendCopies (s : State) (o : HostOut) (copies : Nat) : State :=
  (List.range copies).foldl (fun s _ => s.sendHost o) s

/-- The distance from one sequence number up to another, modulo 2^32. -/
def seqAbove (seq h : Nat) : Nat := (seq + 2 ^ 32 - h % 2 ^ 32) % 2 ^ 32

/-- H moves to a request that has its answer: the reply is stored and sent, and replies below the window are dropped. -/
def State.done_ (s : State) (src seq typ : Nat) (a : Ans) (copies : Nat) : State :=
  let o := replyTo src typ seq a
  match tget? s.sources src with
  | none => s.sendCopies o copies
  | some h =>
    let replies := (h.replies ++ [(seq, o)]).filter fun r => decide (seqAbove seq r.1 < 1024)
    (s.setSource src { h with h := seq, replies := replies, active := [] }).sendCopies o copies

/-- A request that an alarm has left unanswered: all but an identity query (R374). -/
def State.silent (s : State) (f : Frame) : Bool := s.alarm.isSome && f.body != .mgmt .identity

/-- A request may be performed now: no request is in progress on a line that a MEMWR writes, or that a MEMRD, a LAUNCH or a RESUME reads
and has recalled (R329, R372; log entry 103). -/
def State.mayPerform (s : State) (f : Frame) : Bool :=
  match f.typ, f.body with
  | 1, .memwr addr data => s.otherDevice addr data.length || s.bytesQuiet (paOff addr) data.length
  | 2, .memrd addr n => s.otherDevice addr n || s.underQuiet f.asid (paOff addr) (min n 8192)
  | 3, .launch addr => s.underQuiet f.asid (paOff addr) 64
  | 5, .debug (.resume record base list) => (s.resumeReads f.asid record base list).all fun x => s.underQuiet f.asid x.1 x.2
  | _, _ => true

/-- Perform a request whose turn it is. -/
def State.take (s : State) (f : Frame) (copies : Nat) : State :=
  match s.perform_ f with
  | (s, some a) => if s.silent f then s else s.done_ f.src f.seq f.typ a copies
  | (s, none) =>
    match tget? s.sources f.src with
    | some h => s.setSource f.src { h with active := [(f.seq, copies)] }
    | none => s

/-- Held requests that follow without a gap are performed in turn. -/
def State.takeHeld (s : State) (src : Nat) : Nat → State
  | 0 => s
  | n + 1 =>
    match tget? s.sources src with
    | none => s
    | some h =>
      if !h.active.isEmpty || s.alarm.isSome then s
      else
        match h.held.find? fun f => f.2.seq == (h.h + 1) % 2 ^ 32 with
        | none => s
        | some (_, f) =>
          let copies := (h.held.filter fun g => g.2.seq == f.seq).length
          if !s.mayPerform f then s
          else State.takeHeld ((s.setSource src { h with held := h.held.filter fun g => g.2.seq != f.seq }).take f copies) src n

/-- A request of a source with state (R328). -/
def State.bySeq (s : State) (f : Frame) (h : HostSrc) : State :=
  let above := seqAbove f.seq h.h
  let below := seqAbove h.h f.seq
  match h.active.find? fun a => a.1 == f.seq with
  | some _ =>
    s.setSource f.src { h with active := h.active.map fun a => if a.1 = f.seq then (a.1, a.2 + 1) else a }
  | none =>
    if below < 1024 then
      match h.replies.find? fun r => r.1 == f.seq with
      | some r => s.sendHost r.2
      | none => s.answerFrame f { status := 2 }
    else if above ≥ 2 ^ 31 then s.answerFrame f { status := 2 }
    else if above = 1 && h.held.all (fun g => g.2.seq != f.seq) then (s.take f 1).takeHeld f.src 64
    else if above ≤ 64 then
      s.setSource f.src { h with held := h.held ++ [(s.time.toNat, f)] }
    else s.answerFrame f { status := 3, reason := 2 }

/-- A request with a well-formed header arrives. After an alarm an identity query is answered at once (R374). -/
def State.request (s : State) (f : Frame) : State :=
  let f := { f with seq := f.seq % 2 ^ 32 }
  if s.alarm.isSome then s.answerFrame f { payload := s.identity }
  else
  match tget? s.sources f.src with
  | some h => s.bySeq f h
  | none =>
    if s.sources.length ≥ 64 then s.answerFrame f { status := 3 }
    else
      let h : HostSrc := ⟨(f.seq + 2 ^ 32 - 1) % 2 ^ 32, f.seq, [], [], []⟩
      ({ s with sources := tset f.src h s.sources }).take f 1

/-- The device takes a frame: only MGMT before bring-up has finished (R38), and only identity queries and ACK after an alarm
(R374). -/
def State.accepts (s : State) (f : Frame) : Bool :=
  if s.alarm.isSome then f.typ == 7 || f.body == .mgmt .identity
  else s.bring == 8 || f.typ == 6

/-- An event in which a frame of a kind arrives; one that may not be performed yet waits in the port. -/
def frameEvent (ok : Bool) (f : Frame) (s : State) : Out' :=
  if headerOk f && ok && s.accepts f && s.mayPerform f then .next (s.request f) else .next s

/-! ### Host frames -/

/-- MEMWR (R329). -/
def execMemwr (f : Frame) (s : State) : Out' := frameEvent (f.typ == 1) f s
/-- MEMRD (R329). -/
def execMemrd (f : Frame) (s : State) : Out' := frameEvent (f.typ == 2) f s
/-- LAUNCH (R332). -/
def execLaunch (f : Frame) (s : State) : Out' := frameEvent (f.typ == 3) f s
/-- TTSET (R344). -/
def execTtset (f : Frame) (s : State) : Out' := frameEvent (f.typ == 4) f s

/-- ACK (R327): outside the sequence rule. -/
def execAck (f : Frame) (s : State) : Out' :=
  if headerOk f && f.typ == 7 && s.accepts f then .next (s.ackFrame f) else .next s

/-- MALFORMED_REQUEST (R326): answered at once with STATUS 1, outside the sequence rule. -/
def execMalformedRequest (f : Frame) (s : State) : Out' :=
  if !headerOk f && s.accepts f then .next (s.answerFrame f { status := 1 }) else .next s

/-- MGMT_IDENTITY (R329). -/
def execMgmtIdentity (f : Frame) (s : State) : Out' := frameEvent (f.typ == 6 && f.body == .mgmt .identity) f s

/-- The MGMT operations that have events of their own. -/
def ownMgmt (b : FrameBody) : Bool :=
  match b with
  | .mgmt .identity | .mgmt (.setDevnum _) | .mgmt (.releaseSource _) | .mgmt .erase => true
  | _ => false

/-- MGMT_SET_DEVNUM (R33). -/
def execMgmtSetDevnum (f : Frame) (s : State) : Out' :=
  frameEvent (f.typ == 6 && (match f.body with | .mgmt (.setDevnum _) => true | _ => false)) f s
/-- MGMT_RELEASE_SOURCE (R328). -/
def execMgmtReleaseSource (f : Frame) (s : State) : Out' :=
  frameEvent (f.typ == 6 && (match f.body with | .mgmt (.releaseSource _) => true | _ => false)) f s
/-- MGMT_ERASE (R373). -/
def execMgmtErase (f : Frame) (s : State) : Out' := frameEvent (f.typ == 6 && f.body == .mgmt .erase) f s
/-- MGMT_SETTINGS (R329): every other MGMT frame, one with a malformed payload among them. -/
def execMgmtSettings (f : Frame) (s : State) : Out' := frameEvent (f.typ == 6 && !ownMgmt f.body) f s

/-! ### DEBUG frames (R394) -/

/-- A DEBUG event: a frame of its operation, or one whose OP is reserved or whose payload is malformed. -/
def debugEvent (mine : DebugOp → Bool) (f : Frame) (s : State) : Out' :=
  frameEvent (f.typ == 5 && (match f.body with
    | .debug .reserved => true
    | .debug op => mine op
    | _ => true)) f s

/-- HOLD (R395). -/
def execHold (f : Frame) (s : State) : Out' := debugEvent (fun o => match o with | .hold _ => true | _ => false) f s
/-- RELEASE (R394). -/
def execRelease (f : Frame) (s : State) : Out' := debugEvent (fun o => match o with | .release _ => true | _ => false) f s
/-- STEP (R396). -/
def execStep (f : Frame) (s : State) : Out' := debugEvent (fun o => match o with | .step _ => true | _ => false) f s
/-- READ (R401). -/
def execRead (f : Frame) (s : State) : Out' := debugEvent (fun o => match o with | .read _ => true | _ => false) f s
/-- WRITE (R394). -/
def execWrite (f : Frame) (s : State) : Out' := debugEvent (fun o => match o with | .write .. => true | _ => false) f s
/-- ARM (R394). -/
def execArm (f : Frame) (s : State) : Out' := debugEvent (fun o => match o with | .arm .. => true | _ => false) f s
/-- READLINE (R394). -/
def execReadline (f : Frame) (s : State) : Out' := debugEvent (fun o => match o with | .readline .. => true | _ => false) f s
/-- SHEET (R402). -/
def execSheet (f : Frame) (s : State) : Out' := debugEvent (fun o => match o with | .sheet .. => true | _ => false) f s
/-- PREEMPT (R389). -/
def execPreempt (f : Frame) (s : State) : Out' := debugEvent (fun o => match o with | .preempt .. => true | _ => false) f s
/-- RESUME (R392). -/
def execResume (f : Frame) (s : State) : Out' := debugEvent (fun o => match o with | .resume .. => true | _ => false) f s
/-- CANCEL (R293). -/
def execCancel (f : Frame) (s : State) : Out' := debugEvent (fun o => match o with | .cancel _ => true | _ => false) f s

/-! ### Timeouts of the port -/

/-- Held requests leave their source, each with an answer when it has one now. -/
def State.dropHeld (s : State) (src : Nat) (h : HostSrc) (ans : Frame → Option Ans) : State :=
  h.held.foldl (fun s f => match ans f.2 with | some a => s.answerFrame f.2 a | none => s) (s.setSource src { h with held := [] })

/-- The gap before the oldest held request has been open for 100 µs since it arrived (R328). DESIGN CHOICE (log entry 139): while
request H + 1 is being performed the held ones stay. -/
def HostSrc.overdue (h : HostSrc) (now : Nat) : Bool :=
  match h.held with
  | (t, _) :: _ => h.active.isEmpty && decide (t + 100000 ≤ now)
  | [] => false

/-- HELD_REQUEST_TIMEOUT (R328): a held request whose turn has come is performed, or else a gap has been open for 100 µs since the
first request that is still held arrived. After an alarm, held identity queries are answered (R374). -/
def execHeldRequestTimeout (src : Nat) (s : State) : Out' :=
  match tget? s.sources src with
  | none => .next s
  | some h =>
    if s.alarm.isSome then
      .next (s.dropHeld src h fun f => if f.body == .mgmt .identity then some { payload := s.identity } else none)
    else if h.active.isEmpty && h.held.any fun f => f.2.seq == (h.h + 1) % 2 ^ 32 then .next (s.takeHeld src 64)
    else if h.overdue s.time.toNat then .next (s.dropHeld src h fun _ => some { status := 3, reason := 1 })
    else .next s

/-- NOTICE_RESEND (R327, R343): a notice that is not acknowledged is sent again. -/
def execNoticeResend (n : Nat) (s : State) : Out' :=
  match s.notices.find? fun m => m.no == n with
  | some m => .next (s.sendHost m.out)
  | none => .next s

/-! ### The end of a pre-emption (R389) -/

/-- The request that ordered a pre-emption is answered with the list's address, and with STATUS 4 when a part of what was to be
written is refused (R264; log entry 66). -/
def State.preemptReply (s : State) (who : Option (Nat × Nat)) (list : Nat) (refused : Bool) : State :=
  match who with
  | none => s
  | some (src, seq) =>
    let copies := match tget? s.sources src with
      | some h => match h.active.find? fun a => a.1 == seq with | some a => a.2 | none => 1
      | none => 1
    (s.done_ src seq 5 { status := if refused then 4 else 0, reason := b2n refused, payload := leBytes 8 list } copies).takeHeld src 64

/-- PREEMPT_SAVE (R389 steps 2 to 7): what can be cancelled is cancelled; when the drains are over the images and the list are
written and the slots freed. -/
def execPreemptSave (l : Nat) (s : State) : Out' :=
  match tget? s.launches l with
  | none => .next s
  | some e =>
    match e.save with
    | none => .next s
    | some (base, who) =>
      let s := (s.holdLaunch l e).cancelAll l e
      if s.drainedLaunch l e && s.saveQuiet l base e then
        .next ((s.saveLaunch l base e).preemptReply who (base + listOff e.parts.length) (s.saveRefused l base e))
      else .next s

end Sys2Proof.Machine
end

