-- ==== Sys2Proof/Machine/Vector.lean ====
section
/-! DEFINITION. The floating and integer vector majors and the lane moves (R143 to R153). -/

namespace Sys2Proof.Machine

open Sys2Proof

/-! ### Lanes under a mask (R143) -/

/-- Lane width of an integer vector major (R50). -/
def IType.width : IType → Nat
  | .i8 => 8
  | .i16 => 16
  | .i32 => 32

/-- The lanes of v[d]: `f i` where the mask is 1, the old lane elsewhere. -/
def mergeLanes (m : Word) (old : Line) (w : Nat) (f : Nat → Nat) : Line :=
  lanesOf w (512 / w) fun i => if bitOf m i then f i else lane old w i

/-- The destination of a lane-wise instruction that also reads it: an addend, or the lanes a mask keeps (R144). -/
def readDst (m : Reg8) (d : VReg) (reads : Bool) : List (RegClass × Nat) := if reads || m != 0 then [vdst d] else []

/-! ### Floating arithmetic (R145) -/

/-- The flags of the active lanes, joined (R120). -/
def laneFlags (m : Word) (n : Nat) (f : Nat → Flags) : Flags :=
  (List.range n).foldl (fun acc i => if bitOf m i then acc ||| f i else acc) 0

/-- A lane-wise floating instruction: `f` answers bits and flags of a lane from the lanes of A, B and D. -/
def vfOp (i : Instr) (m : Reg8) (srcs : List VReg) (d : VReg) (reads : Bool) (k : FType)
    (f : Rounding → Nat → Nat × Flags) (s : State) : Out' :=
  issue { instr := i, srcs := srcs.map vsrc, dsts := [vdst d], reads := readDst m d reads } (fun s =>
    let t := s.th
    let w := (FType.fmt k).width
    let mask := t.mv m
    let r := f t.rm
    let s := s.wv d (mergeLanes mask (t.vv d) w fun i => (r i).1)
    (s.modTh fun t => t.raise (laneFlags mask (512 / w) fun i => (r i).2)).advance 4) s

/-- A lane of a register of the performing thread as a code. -/
def State.vl (s : State) (r : VReg) (w i : Nat) : Nat := lane (s.rv r) w i

/-- VADD, VSUB, VMUL, VFMA and VFNMA: the exact result of a lane's three values, rounded once. -/
def vfArith (i : Instr) (m : Reg8) (b a d : VReg) (reads : Bool) (k : FType)
    (f : Rounding → FVal → FVal → FVal → Option FVal) (s : State) : Out' :=
  let t := FType.fmt k
  vfOp i m [a, b] d reads k (fun rm n =>
    t.finish rm (f rm (t.val (s.vl a t.width n)) (t.val (s.vl b t.width n)) (t.val (s.vl d t.width n)))) s

/-- VADD. -/
def execVaddFp (m : Reg8) (b a d : VReg) (k : FType) (s : State) : Out' :=
  vfArith (.vaddFp m b a d k) m b a d false k (fun rm x y _ => x.add rm y) s
/-- VSUB. -/
def execVsubFp (m : Reg8) (b a d : VReg) (k : FType) (s : State) : Out' :=
  vfArith (.vsubFp m b a d k) m b a d false k (fun rm x y _ => x.add rm y.neg) s
/-- VMUL. -/
def execVmulFp (m : Reg8) (b a d : VReg) (k : FType) (s : State) : Out' :=
  vfArith (.vmulFp m b a d k) m b a d false k (fun _ x y _ => x.mul y) s
/-- VFMA. -/
def execVfmaFp (m : Reg8) (b a d : VReg) (k : FType) (s : State) : Out' :=
  vfArith (.vfmaFp m b a d k) m b a d true k (fun rm x y z => FVal.fma rm x y z) s
/-- VFNMA: c − a × b. -/
def execVfnmaFp (m : Reg8) (b a d : VReg) (k : FType) (s : State) : Out' :=
  vfArith (.vfnmaFp m b a d k) m b a d true k (fun rm x y z => FVal.fma rm x.neg y z) s
/-- VMIN: exact, no flag. -/
def execVminFp (m : Reg8) (b a d : VReg) (k : FType) (s : State) : Out' :=
  let t := FType.fmt k
  vfOp (.vminFp m b a d k) m [a, b] d false k
    (fun _ n => (t.minmax false (s.vl a t.width n) (s.vl b t.width n), 0)) s
/-- VMAX: exact, no flag. -/
def execVmaxFp (m : Reg8) (b a d : VReg) (k : FType) (s : State) : Out' :=
  let t := FType.fmt k
  vfOp (.vmaxFp m b a d k) m [a, b] d false k
    (fun _ n => (t.minmax true (s.vl a t.width n) (s.vl b t.width n), 0)) s
/-- VUN (R146). -/
def execVun (m : Reg8) (f : VFn) (a d : VReg) (k : FType) (s : State) : Out' :=
  let t := FType.fmt k
  vfOp (.vun m f a d k) m [a] d false k (fun _ n => vunLane t f (s.vl a t.width n)) s

/-! ### Comparison, selection, reduction, conversion (R147 to R150) -/

/-- A mask of the lanes that are active and for which a condition holds; every other bit 0 (R147). -/
def cmpMask (m : Word) (n : Nat) (f : Nat → Bool) : Word :=
  (List.range n).foldl (fun acc i => if bitOf m i && f i then setBit acc i true else acc) 0

/-- VCMP of a floating major. -/
def execVcmpFp (m : Reg8) (b a : VReg) (c : FCond) (n : Reg8) (k : FType) (s : State) : Out' :=
  issue { instr := .vcmpFp m b a c n k, srcs := [vsrc a, vsrc b] } (fun s =>
    let t := FType.fmt k
    let w := t.width
    let r := cmpMask (s.th.mv m) (512 / w) fun i => fcondHolds c (t.val (s.vl a w i)) (t.val (s.vl b w i))
    (s.modTh fun t => t.putM n r).advance 4) s

/-- VSEL of lanes of `w` bits: the mask selects, every lane is written (R148). -/
def vsel (i : Instr) (m : Reg8) (b a d : VReg) (w : Nat) (s : State) : Out' :=
  issue { instr := i, srcs := [vsrc a, vsrc b], dsts := [vdst d] } (fun s =>
    let mask := s.th.mv m
    (s.wv d (lanesOf w (512 / w) fun i => if bitOf mask i then s.vl a w i else s.vl b w i)).advance 4) s

/-- VSEL of a floating major. -/
def execVselFp (m : Reg8) (b a d : VReg) (k : FType) (s : State) : Out' :=
  vsel (.vselFp m b a d k) m b a d (FType.fmt k).width s

/-- One level of the tree of VRED: neighbours added, an absent one passes the other through (R149). -/
def redLevel (t : Fmt) (rm : Rounding) : List (Option Nat) → List (Option Nat) × Flags
  | some a :: some b :: r =>
    let (x, fl) := t.finish rm ((t.val a).add rm (t.val b))
    let (l, fl') := redLevel t rm r
    (some x :: l, fl ||| fl')
  | a :: b :: r =>
    let (l, fl) := redLevel t rm r
    ((if a.isSome then a else b) :: l, fl)
  | l => (l, 0)

/-- The tree of VRED over `k` levels. -/
def redTree (t : Fmt) (rm : Rounding) : Nat → List (Option Nat) → Flags → List (Option Nat) × Flags
  | 0, l, fl => (l, fl)
  | k + 1, l, fl =>
    let (l', fl') := redLevel t rm l
    redTree t rm k l' (fl ||| fl')

/-- VRED: lane 0 of v[d] is the sum of the active lanes of v[a], every other lane +0 (R149). -/
def execVred (m : Reg8) (a d : VReg) (k : FType) (s : State) : Out' :=
  issue { instr := .vred m a d k, srcs := [vsrc a], dsts := [vdst d] } (fun s =>
    let t := FType.fmt k
    let w := t.width
    let mask := s.th.mv m
    let l := (List.range (512 / w)).map fun i => if bitOf mask i then some (s.vl a w i) else none
    let (r, fl) := redTree t s.th.rm (Nat.log2 (512 / w)) l 0
    let s := s.wv d (lanesOf w 1 fun _ => (r.headD none).getD 0)
    (s.modTh fun t => t.raise fl).advance 4) s

/-- The width of a conversion target (R81, R150). -/
def targetWidth (c : TyCode) : Nat :=
  match TyCode.fmt c with
  | some f => f.width
  | none => TyCode.intWidth c

/-- VCVT (R150). A lane of the target beyond the common count becomes 0, an inactive lane below it keeps its bits. -/
def execVcvt (m : Reg8) (r : Rounding) (c : TyCode) (a d : VReg) (k : FType) (s : State) : Out' :=
  issue { instr := .vcvt m r c a d k, srcs := [vsrc a], dsts := [vdst d], reads := readDst m d false } (fun s =>
    let f := FType.fmt k
    let wt := targetWidth c
    let n := min (512 / f.width) (512 / wt)
    let mask := s.th.mv m
    let old := s.rv d
    let res := fun i => cvtCode f c r (s.vl a f.width i)
    let s := s.wv d (lanesOf wt n fun i => if bitOf mask i then (res i).1 else lane old wt i)
    (s.modTh fun t => t.raise (laneFlags mask n fun i => (res i).2)).advance 4) s

/-! ### Integer majors (R152) -/

/-- A lane-wise integer instruction: `f` answers a lane from its width and the lanes of A, B and D. -/
def viOp (i : Instr) (m : Reg8) (b a d : VReg) (reads : Bool) (k : IType) (f : Nat → Nat → Nat → Nat → Nat) (s : State) :
    Out' :=
  issue { instr := i, srcs := [vsrc a, vsrc b], dsts := [vdst d], reads := readDst m d reads } (fun s =>
    let w := IType.width k
    (s.wv d (mergeLanes (s.th.mv m) (s.rv d) w fun n => f w (s.vl a w n) (s.vl b w n) (s.vl d w n))).advance 4) s

/-- VADD. -/
def execVaddInt (m : Reg8) (b a d : VReg) (k : IType) (s : State) : Out' :=
  viOp (.vaddInt m b a d k) m b a d false k (fun _ x y _ => x + y) s
/-- VSUB. -/
def execVsubInt (m : Reg8) (b a d : VReg) (k : IType) (s : State) : Out' :=
  viOp (.vsubInt m b a d k) m b a d false k (fun w x y _ => x + 2 ^ w - y) s
/-- VMUL. -/
def execVmulInt (m : Reg8) (b a d : VReg) (k : IType) (s : State) : Out' :=
  viOp (.vmulInt m b a d k) m b a d false k (fun _ x y _ => x * y) s
/-- VMAC. -/
def execVmac (m : Reg8) (b a d : VReg) (k : IType) (s : State) : Out' :=
  viOp (.vmac m b a d k) m b a d true k (fun _ x y z => z + x * y) s
/-- VMIN. -/
def execVminInt (m : Reg8) (b a d : VReg) (k : IType) (s : State) : Out' :=
  viOp (.vminInt m b a d k) m b a d false k (fun w x y _ => if signedOf w x < signedOf w y then x else y) s
/-- VMAX. -/
def execVmaxInt (m : Reg8) (b a d : VReg) (k : IType) (s : State) : Out' :=
  viOp (.vmaxInt m b a d k) m b a d false k (fun w x y _ => if signedOf w x > signedOf w y then x else y) s
/-- VMINN. -/
def execVminn (m : Reg8) (b a d : VReg) (k : IType) (s : State) : Out' :=
  viOp (.vminn m b a d k) m b a d false k (fun _ x y _ => if x < y then x else y) s
/-- VMAXN. -/
def execVmaxn (m : Reg8) (b a d : VReg) (k : IType) (s : State) : Out' :=
  viOp (.vmaxn m b a d k) m b a d false k (fun _ x y _ => if x > y then x else y) s
/-- VAND. -/
def execVand (m : Reg8) (b a d : VReg) (k : IType) (s : State) : Out' :=
  viOp (.vand m b a d k) m b a d false k (fun _ x y _ => x &&& y) s
/-- VOR. -/
def execVor (m : Reg8) (b a d : VReg) (k : IType) (s : State) : Out' :=
  viOp (.vor m b a d k) m b a d false k (fun _ x y _ => x ||| y) s
/-- VXOR. -/
def execVxor (m : Reg8) (b a d : VReg) (k : IType) (s : State) : Out' :=
  viOp (.vxor m b a d k) m b a d false k (fun _ x y _ => x ^^^ y) s
/-- VSHL. -/
def execVshl (m : Reg8) (b a d : VReg) (k : IType) (s : State) : Out' :=
  viOp (.vshl m b a d k) m b a d false k (fun w x y _ => x * 2 ^ (y % w)) s
/-- VSHR. -/
def execVshr (m : Reg8) (b a d : VReg) (k : IType) (s : State) : Out' :=
  viOp (.vshr m b a d k) m b a d false k (fun w x y _ => x / 2 ^ (y % w)) s
/-- VSHA. -/
def execVsha (m : Reg8) (b a d : VReg) (k : IType) (s : State) : Out' :=
  viOp (.vsha m b a d k) m b a d false k (fun w x y _ => (wordI (signedOf w x / (2 ^ (y % w) : Nat))).toNat) s
/-- VCMP of an integer major. -/
def execVcmpInt (m : Reg8) (b a : VReg) (c : Cond) (n : Reg8) (k : IType) (s : State) : Out' :=
  issue { instr := .vcmpInt m b a c n k, srcs := [vsrc a, vsrc b] } (fun s =>
    let w := IType.width k
    let r := cmpMask (s.th.mv m) (512 / w) fun i => condHolds c w (s.vl a w i) (s.vl b w i)
    (s.modTh fun t => t.putM n r).advance 4) s
/-- VSEL of an integer major. -/
def execVselInt (m : Reg8) (b a d : VReg) (k : IType) (s : State) : Out' :=
  vsel (.vselInt m b a d k) m b a d (IType.width k) s

/-! ### VMOV (R78, R153) -/

/-- Lane width in bits of a lane size. -/
def sizeBits (z : Size) : Nat := 8 * sizeBytes z

/-- VBC. -/
def execVbc (z : Size) (x : Bool) (a : GReg) (d : VReg) (s : State) : Out' :=
  issue { instr := .vbc z x a d, srcs := [gsrc a x], dsts := [vdst d] } (fun s =>
    let w := sizeBits z
    (s.wv d (lanesOf w (512 / w) fun _ => (s.rg a).toNat)).advance 4) s
/-- VGET. -/
def execVget (z : Size) (y : Bool) (b : GReg) (a : VReg) (d : GReg) (s : State) : Out' :=
  issue { instr := .vget z y b a d, srcs := [vsrc a, gsrc b y], dsts := [gdst d] } (fun s =>
    let w := sizeBits z
    (s.wg d (word (s.vl a w ((s.rg b).toNat % (512 / w))))).advance 4) s
/-- VSET; it also reads v[d]. -/
def execVset (z : Size) (y x : Bool) (b a : GReg) (d : VReg) (s : State) : Out' :=
  issue { instr := .vset z y x b a d, srcs := [gsrc a x, gsrc b y], dsts := [vdst d], reads := [vdst d] } (fun s =>
    let w := sizeBits z
    (s.wv d (setLane (s.rv d) w ((s.rg b).toNat % (512 / w)) (s.rg a).toNat)).advance 4) s
/-- VPERM. -/
def execVperm (z : Size) (b a d : VReg) (s : State) : Out' :=
  issue { instr := .vperm z b a d, srcs := [vsrc a, vsrc b], dsts := [vdst d] } (fun s =>
    let w := sizeBits z
    (s.wv d (lanesOf w (512 / w) fun i => s.vl a w (s.vl b w i % (512 / w)))).advance 4) s
/-- VCOPY. -/
def execVcopy (a d : VReg) (s : State) : Out' :=
  issue { instr := .vcopy a d, srcs := [vsrc a], dsts := [vdst d] } (fun s => (s.wv d (s.rv a)).advance 4) s

end Sys2Proof.Machine
end

