-- ==== Sys2Proof/Machine/Dispatch.lean ====
section
/-! DEFINITION. The one match from an instruction or event to its meaning. -/

namespace Sys2Proof.Machine

open Sys2Proof

/-- The meaning of every row of the opcode table. -/
def exec (i : Instr) (s : State) : Host.Outcome State Fault Refusal :=
  match i with
  | .add y x b a d => Sys2Proof.Machine.execAdd y x b a d s
  | .sub y x b a d => Sys2Proof.Machine.execSub y x b a d s
  | .and y x b a d => Sys2Proof.Machine.execAnd y x b a d s
  | .or y x b a d => Sys2Proof.Machine.execOr y x b a d s
  | .xor y x b a d => Sys2Proof.Machine.execXor y x b a d s
  | .andn y x b a d => Sys2Proof.Machine.execAndn y x b a d s
  | .shl y x b a d => Sys2Proof.Machine.execShl y x b a d s
  | .shr y x b a d => Sys2Proof.Machine.execShr y x b a d s
  | .sha y x b a d => Sys2Proof.Machine.execSha y x b a d s
  | .rot y x b a d => Sys2Proof.Machine.execRot y x b a d s
  | .min y x b a d => Sys2Proof.Machine.execMin y x b a d s
  | .max y x b a d => Sys2Proof.Machine.execMax y x b a d s
  | .minn y x b a d => Sys2Proof.Machine.execMinn y x b a d s
  | .maxn y x b a d => Sys2Proof.Machine.execMaxn y x b a d s
  | .mul y x b a d => Sys2Proof.Machine.execMul y x b a d s
  | .mulh y x b a d => Sys2Proof.Machine.execMulh y x b a d s
  | .mulhn y x b a d => Sys2Proof.Machine.execMulhn y x b a d s
  | .div y x b a d => Sys2Proof.Machine.execDiv y x b a d s
  | .divn y x b a d => Sys2Proof.Machine.execDivn y x b a d s
  | .rem y x b a d => Sys2Proof.Machine.execRem y x b a d s
  | .remn y x b a d => Sys2Proof.Machine.execRemn y x b a d s
  | .clz x a d => Sys2Proof.Machine.execClz x a d s
  | .popc x a d => Sys2Proof.Machine.execPopc x a d s
  | .sext y x b a d => Sys2Proof.Machine.execSext y x b a d s
  | .addw y x b a d => Sys2Proof.Machine.execAddw y x b a d s
  | .subw y x b a d => Sys2Proof.Machine.execSubw y x b a d s
  | .addi imm x a d => Sys2Proof.Machine.execAddi imm x a d s
  | .andi imm x a d => Sys2Proof.Machine.execAndi imm x a d s
  | .ori imm x a d => Sys2Proof.Machine.execOri imm x a d s
  | .xori imm x a d => Sys2Proof.Machine.execXori imm x a d s
  | .shli n x a d => Sys2Proof.Machine.execShli n x a d s
  | .shri n x a d => Sys2Proof.Machine.execShri n x a d s
  | .shai n x a d => Sys2Proof.Machine.execShai n x a d s
  | .roti n x a d => Sys2Proof.Machine.execRoti n x a d s
  | .lui imm d => Sys2Proof.Machine.execLui imm d s
  | .addpc imm d => Sys2Proof.Machine.execAddpc imm d s
  | .cmp y x b a c p => Sys2Proof.Machine.execCmp y x b a c p s
  | .cmpW y x b a c p => Sys2Proof.Machine.execCmpW y x b a c p s
  | .cmpi imm x a c p => Sys2Proof.Machine.execCmpi imm x a c p s
  | .sel n p y x b a d => Sys2Proof.Machine.execSel n p y x b a d s
  | .pand b a d => Sys2Proof.Machine.execPand b a d s
  | .por b a d => Sys2Proof.Machine.execPor b a d s
  | .pxor b a d => Sys2Proof.Machine.execPxor b a d s
  | .pandn b a d => Sys2Proof.Machine.execPandn b a d s
  | .pfromg x a d => Sys2Proof.Machine.execPfromg x a d s
  | .ptog a d => Sys2Proof.Machine.execPtog a d s
  | .xset x a d => Sys2Proof.Machine.execXset x a d s
  | .xget a d => Sys2Proof.Machine.execXget a d s
  | .xld x a => Sys2Proof.Machine.execXld x a s
  | .madr h v x a d => Sys2Proof.Machine.execMadr h v x a d s
  | .br imm => Sys2Proof.Machine.execBr imm s
  | .jal imm => Sys2Proof.Machine.execJal imm s
  | .brp imm sc p => Sys2Proof.Machine.execBrp imm sc p s
  | .jalr imm x a d => Sys2Proof.Machine.execJalr imm x a d s
  | .yield => Sys2Proof.Machine.execYield s
  | .waitg a => Sys2Proof.Machine.execWaitg a s
  | .waitv a => Sys2Proof.Machine.execWaitv a s
  | .texit => Sys2Proof.Machine.execTexit s
  | .tspawn y x b a d => Sys2Proof.Machine.execTspawn y x b a d s
  | .tnext d => Sys2Proof.Machine.execTnext d s
  | .repart p => Sys2Proof.Machine.execRepart p s
  | .waitk a => Sys2Proof.Machine.execWaitk a s
  | .kput x a d => Sys2Proof.Machine.execKput x a d s
  | .kget x a d => Sys2Proof.Machine.execKget x a d s
  | .strmLead x a => Sys2Proof.Machine.execStrmLead x a s
  | .strmJoin => Sys2Proof.Machine.execStrmJoin s
  | .strmEnd => Sys2Proof.Machine.execStrmEnd s
  | .strmPos d => Sys2Proof.Machine.execStrmPos d s
  | .rput c r y b d => Sys2Proof.Machine.execRput c r y b d s
  | .rputM c y x b a d => Sys2Proof.Machine.execRputM c y x b a d s
  | .rputArm c d => Sys2Proof.Machine.execRputArm c d s
  | .ld o z e w x a d => Sys2Proof.Machine.execLd o z e w x a d s
  | .ldn o z e w x a d => Sys2Proof.Machine.execLdn o z e w x a d s
  | .st o z e w x a d => Sys2Proof.Machine.execSt o z e w x a d s
  | .vld o e w x a d => Sys2Proof.Machine.execVld o e w x a d s
  | .vst o e w x a d => Sys2Proof.Machine.execVst o e w x a d s
  | .vlds w y x b a d => Sys2Proof.Machine.execVlds w y x b a d s
  | .vsts w y x b a d => Sys2Proof.Machine.execVsts w y x b a d s
  | .vgath w x b a d => Sys2Proof.Machine.execVgath w x b a d s
  | .vscat w x b a d => Sys2Proof.Machine.execVscat w x b a d s
  | .aadd e sc t b a d => Sys2Proof.Machine.execAadd e sc t b a d s
  | .aand e sc t b a d => Sys2Proof.Machine.execAand e sc t b a d s
  | .aor e sc t b a d => Sys2Proof.Machine.execAor e sc t b a d s
  | .axor e sc t b a d => Sys2Proof.Machine.execAxor e sc t b a d s
  | .amin e sc t b a d => Sys2Proof.Machine.execAmin e sc t b a d s
  | .amax e sc t b a d => Sys2Proof.Machine.execAmax e sc t b a d s
  | .aswap e sc t b a d => Sys2Proof.Machine.execAswap e sc t b a d s
  | .acas e sc t b a d => Sys2Proof.Machine.execAcas e sc t b a d s
  | .fence sc k => Sys2Proof.Machine.execFence sc k s
  | .waitc m => Sys2Proof.Machine.execWaitc m s
  | .cflush x a => Sys2Proof.Machine.execCflush x a s
  | .cinv x a => Sys2Proof.Machine.execCinv x a s
  | .pref x a w => Sys2Proof.Machine.execPref x a w s
  | .spcfg x a => Sys2Proof.Machine.execSpcfg x a s
  | .czero x a => Sys2Proof.Machine.execCzero x a s
  | .pst m e sc t b a d => Sys2Proof.Machine.execPst m e sc t b a d s
  | .ldsy l t a d => Sys2Proof.Machine.execLdsy l t a d s
  | .stsy l t b a => Sys2Proof.Machine.execStsy l t b a s
  | .cntAdd t b a => Sys2Proof.Machine.execCntAdd t b a s
  | .cntFadd t b a d => Sys2Proof.Machine.execCntFadd t b a d s
  | .cntWait l t b a d => Sys2Proof.Machine.execCntWait l t b a d s
  | .barArr t a d => Sys2Proof.Machine.execBarArr t a d s
  | .barWait l t b a d => Sys2Proof.Machine.execBarWait l t b a d s
  | .barArw l t a d => Sys2Proof.Machine.execBarArw l t a d s
  | .lckAcq l t a => Sys2Proof.Machine.execLckAcq l t a s
  | .lckRel t a => Sys2Proof.Machine.execLckRel t a s
  | .qPut l t b a => Sys2Proof.Machine.execQPut l t b a s
  | .qGet l t a d => Sys2Proof.Machine.execQGet l t a d s
  | .cndWait l t b a => Sys2Proof.Machine.execCndWait l t b a s
  | .cndSig t a k => Sys2Proof.Machine.execCndSig t a k s
  | .tinit y x b a k => Sys2Proof.Machine.execTinit y x b a k s
  | .traw y x b a k => Sys2Proof.Machine.execTraw y x b a k s
  | .tclr x a => Sys2Proof.Machine.execTclr x a s
  | .nbar l t a d => Sys2Proof.Machine.execNbar l t a d s
  | .cpy g sc r q d => Sys2Proof.Machine.execCpy g sc r q d s
  | .cpym g sc r q d => Sys2Proof.Machine.execCpym g sc r q d s
  | .mwl g sc r q t a f => Sys2Proof.Machine.execMwl g sc r q t a f s
  | .mma g sc r q t b a f n => Sys2Proof.Machine.execMma g sc r q t b a f n s
  | .acccfg x a k n => Sys2Proof.Machine.execAcccfg x a k n s
  | .acczero n => Sys2Proof.Machine.execAcczero n s
  | .accrd y x b a f n => Sys2Proof.Machine.execAccrd y x b a f n s
  | .accadd sc n => Sys2Proof.Machine.execAccadd sc n s
  | .accsave x a n => Sys2Proof.Machine.execAccsave x a n s
  | .accload x a n => Sys2Proof.Machine.execAccload x a n s
  | .mstat x a d => Sys2Proof.Machine.execMstat x a d s
  | .vaddFp m b a d k => Sys2Proof.Machine.execVaddFp m b a d k s
  | .vsubFp m b a d k => Sys2Proof.Machine.execVsubFp m b a d k s
  | .vmulFp m b a d k => Sys2Proof.Machine.execVmulFp m b a d k s
  | .vfmaFp m b a d k => Sys2Proof.Machine.execVfmaFp m b a d k s
  | .vminFp m b a d k => Sys2Proof.Machine.execVminFp m b a d k s
  | .vmaxFp m b a d k => Sys2Proof.Machine.execVmaxFp m b a d k s
  | .vun m f a d k => Sys2Proof.Machine.execVun m f a d k s
  | .vcmpFp m b a c n k => Sys2Proof.Machine.execVcmpFp m b a c n k s
  | .vselFp m b a d k => Sys2Proof.Machine.execVselFp m b a d k s
  | .vred m a d k => Sys2Proof.Machine.execVred m a d k s
  | .vcvt m r c a d k => Sys2Proof.Machine.execVcvt m r c a d k s
  | .vfnmaFp m b a d k => Sys2Proof.Machine.execVfnmaFp m b a d k s
  | .vaddInt m b a d k => Sys2Proof.Machine.execVaddInt m b a d k s
  | .vsubInt m b a d k => Sys2Proof.Machine.execVsubInt m b a d k s
  | .vmulInt m b a d k => Sys2Proof.Machine.execVmulInt m b a d k s
  | .vmac m b a d k => Sys2Proof.Machine.execVmac m b a d k s
  | .vminInt m b a d k => Sys2Proof.Machine.execVminInt m b a d k s
  | .vmaxInt m b a d k => Sys2Proof.Machine.execVmaxInt m b a d k s
  | .vminn m b a d k => Sys2Proof.Machine.execVminn m b a d k s
  | .vmaxn m b a d k => Sys2Proof.Machine.execVmaxn m b a d k s
  | .vand m b a d k => Sys2Proof.Machine.execVand m b a d k s
  | .vor m b a d k => Sys2Proof.Machine.execVor m b a d k s
  | .vxor m b a d k => Sys2Proof.Machine.execVxor m b a d k s
  | .vshl m b a d k => Sys2Proof.Machine.execVshl m b a d k s
  | .vshr m b a d k => Sys2Proof.Machine.execVshr m b a d k s
  | .vsha m b a d k => Sys2Proof.Machine.execVsha m b a d k s
  | .vcmpInt m b a c n k => Sys2Proof.Machine.execVcmpInt m b a c n k s
  | .vselInt m b a d k => Sys2Proof.Machine.execVselInt m b a d k s
  | .vbc sc x a d => Sys2Proof.Machine.execVbc sc x a d s
  | .vget sc y b a d => Sys2Proof.Machine.execVget sc y b a d s
  | .vset sc y x b a d => Sys2Proof.Machine.execVset sc y x b a d s
  | .vperm sc b a d => Sys2Proof.Machine.execVperm sc b a d s
  | .vcopy a d => Sys2Proof.Machine.execVcopy a d s
  | .srd h l d => Sys2Proof.Machine.execSrd h l d s
  | .swr h l d => Sys2Proof.Machine.execSwr h l d s
  | .swrIntpend d => Sys2Proof.Machine.execSwrIntpend d s
  | .swrMerrlog d => Sys2Proof.Machine.execSwrMerrlog d s
  | .swrPshq d => Sys2Proof.Machine.execSwrPshq d s
  | .swrPshcnt d => Sys2Proof.Machine.execSwrPshcnt d s
  | .ecall => Sys2Proof.Machine.execEcall s
  | .eret => Sys2Proof.Machine.execEret s
  | .trapi h l => Sys2Proof.Machine.execTrapi h l s
  | .tlbinv y x b a k => Sys2Proof.Machine.execTlbinv y x b a k s
  | .grpset y x b a => Sys2Proof.Machine.execGrpset y x b a s
  | .brk h l => Sys2Proof.Machine.execBrk h l s
  | .wfi => Sys2Proof.Machine.execWfi s
  | .speedrd x a d => Sys2Proof.Machine.execSpeedrd x a d s
  | .cMov y x => Sys2Proof.Machine.execCMov y x s
  | .cAdd y x => Sys2Proof.Machine.execCAdd y x s
  | .cSub y x => Sys2Proof.Machine.execCSub y x s
  | .cAnd y x => Sys2Proof.Machine.execCAnd y x s
  | .cOr y x => Sys2Proof.Machine.execCOr y x s
  | .cXor y x => Sys2Proof.Machine.execCXor y x s
  | .cAddi imm x => Sys2Proof.Machine.execCAddi imm x s
  | .cLi imm x => Sys2Proof.Machine.execCLi imm x s
  | .cShli n x => Sys2Proof.Machine.execCShli n x s
  | .cShri n x => Sys2Proof.Machine.execCShri n x s
  | .cLd o b x => Sys2Proof.Machine.execCLd o b x s
  | .cSt o b x => Sys2Proof.Machine.execCSt o b x s
  | .cBr imm => Sys2Proof.Machine.execCBr imm s
  | .cBrp imm p => Sys2Proof.Machine.execCBrp imm p s
  | .cMiscNop => Sys2Proof.Machine.execCMiscNop s
  | .cMiscYield => Sys2Proof.Machine.execCMiscYield s
  | .cMiscTexit => Sys2Proof.Machine.execCMiscTexit s
  | .cRet => Sys2Proof.Machine.execCRet s
  | .wordThatNamesNothing w short => Sys2Proof.Machine.execWordThatNamesNothing w short s
  | .deferredTrap core slot => Sys2Proof.Machine.execDeferredTrap core slot s
  | .rejection src dst => Sys2Proof.Machine.execRejection src dst s
  | .resultFill src dst => Sys2Proof.Machine.execResultFill src dst s
  | .accessPerformed src dst => Sys2Proof.Machine.execAccessPerformed src dst s
  | .rputDelivery src dst => Sys2Proof.Machine.execRputDelivery src dst s
  | .fetchFill src dst => Sys2Proof.Machine.execFetchFill src dst s
  | .meshAccess src dst => Sys2Proof.Machine.execMeshAccess src dst s
  | .pageWalk core slot pick => Sys2Proof.Machine.execPageWalk core slot pick s
  | .reclassify src dst => Sys2Proof.Machine.execReclassify src dst s
  | .reclassifyAck src dst => Sys2Proof.Machine.execReclassifyAck src dst s
  | .l1Grant src dst victim => Sys2Proof.Machine.execL1Grant src dst victim s
  | .l1ForwardedRead src dst => Sys2Proof.Machine.execL1ForwardedRead src dst s
  | .l1ForwardedReadExclusive src dst => Sys2Proof.Machine.execL1ForwardedReadExclusive src dst s
  | .l1Invalidate src dst => Sys2Proof.Machine.execL1Invalidate src dst s
  | .l1WritebackAck src dst => Sys2Proof.Machine.execL1WritebackAck src dst s
  | .pushedCopy src dst line => Sys2Proof.Machine.execPushedCopy src dst line s
  | .homeRead src dst rec_ => Sys2Proof.Machine.execHomeRead src dst rec_ s
  | .homeReadExclusive src dst rec_ => Sys2Proof.Machine.execHomeReadExclusive src dst rec_ s
  | .homeUpgrade src dst => Sys2Proof.Machine.execHomeUpgrade src dst s
  | .homeWriteBack src dst => Sys2Proof.Machine.execHomeWriteBack src dst s
  | .homeEvictionNotice src dst => Sys2Proof.Machine.execHomeEvictionNotice src dst s
  | .homeInvalidateAck src dst => Sys2Proof.Machine.execHomeInvalidateAck src dst s
  | .homeNcAccess src dst => Sys2Proof.Machine.execHomeNcAccess src dst s
  | .homeAtomic src dst => Sys2Proof.Machine.execHomeAtomic src dst s
  | .homePushStore src dst => Sys2Proof.Machine.execHomePushStore src dst s
  | .pushOutcome src dst => Sys2Proof.Machine.execPushOutcome src dst s
  | .pushComplete src dst => Sys2Proof.Machine.execPushComplete src dst s
  | .reduceAdd src dst => Sys2Proof.Machine.execReduceAdd src dst s
  | .waiterExpiry entry => Sys2Proof.Machine.execWaiterExpiry entry s
  | .putDataRequest src dst => Sys2Proof.Machine.execPutDataRequest src dst s
  | .putData src dst => Sys2Proof.Machine.execPutData src dst s
  | .waiterEntryLost entry => Sys2Proof.Machine.execWaiterEntryLost entry s
  | .nbarNotify src dst => Sys2Proof.Machine.execNbarNotify src dst s
  | .nbarExpiry core slot => Sys2Proof.Machine.execNbarExpiry core slot s
  | .joinRequest src dst => Sys2Proof.Machine.execJoinRequest src dst s
  | .flightForm leader => Sys2Proof.Machine.execFlightForm leader s
  | .formationTimeout leader => Sys2Proof.Machine.execFormationTimeout leader s
  | .freezeEnd leader => Sys2Proof.Machine.execFreezeEnd leader s
  | .flightAbort leader => Sys2Proof.Machine.execFlightAbort leader s
  | .flightEnd leader => Sys2Proof.Machine.execFlightEnd leader s
  | .matrixEntryComplete core => Sys2Proof.Machine.execMatrixEntryComplete core s
  | .shadowActivate core => Sys2Proof.Machine.execShadowActivate core s
  | .copyStart go => Sys2Proof.Machine.execCopyStart go s
  | .copyComplete core => Sys2Proof.Machine.execCopyComplete core s
  | .copyStop core => Sys2Proof.Machine.execCopyStop core s
  | .grpsetPerform src dst => Sys2Proof.Machine.execGrpsetPerform src dst s
  | .spcfgApply core evicted => Sys2Proof.Machine.execSpcfgApply core evicted s
  | .repartApply core => Sys2Proof.Machine.execRepartApply core s
  | .coldReset f => Sys2Proof.Machine.execColdReset f s
  | .ptpFirstLock ns => Sys2Proof.Machine.execPtpFirstLock ns s
  | .bringUpRelease => Sys2Proof.Machine.execBringUpRelease s
  | .ptpMessage ppm => Sys2Proof.Machine.execPtpMessage ppm s
  | .grandmasterLoss => Sys2Proof.Machine.execGrandmasterLoss s
  | .memwr f => Sys2Proof.Machine.execMemwr f s
  | .memrd f => Sys2Proof.Machine.execMemrd f s
  | .launch f => Sys2Proof.Machine.execLaunch f s
  | .ttset f => Sys2Proof.Machine.execTtset f s
  | .ack f => Sys2Proof.Machine.execAck f s
  | .mgmtIdentity f => Sys2Proof.Machine.execMgmtIdentity f s
  | .mgmtSetDevnum f => Sys2Proof.Machine.execMgmtSetDevnum f s
  | .mgmtReleaseSource f => Sys2Proof.Machine.execMgmtReleaseSource f s
  | .mgmtErase f => Sys2Proof.Machine.execMgmtErase f s
  | .mgmtSettings f => Sys2Proof.Machine.execMgmtSettings f s
  | .hold f => Sys2Proof.Machine.execHold f s
  | .release f => Sys2Proof.Machine.execRelease f s
  | .step f => Sys2Proof.Machine.execStep f s
  | .read f => Sys2Proof.Machine.execRead f s
  | .write f => Sys2Proof.Machine.execWrite f s
  | .arm f => Sys2Proof.Machine.execArm f s
  | .readline f => Sys2Proof.Machine.execReadline f s
  | .sheet f => Sys2Proof.Machine.execSheet f s
  | .preempt f => Sys2Proof.Machine.execPreempt f s
  | .resume f => Sys2Proof.Machine.execResume f s
  | .cancel f => Sys2Proof.Machine.execCancel f s
  | .heldRequestTimeout src => Sys2Proof.Machine.execHeldRequestTimeout src s
  | .noticeResend n => Sys2Proof.Machine.execNoticeResend n s
  | .bindRecordWrite core slot r => Sys2Proof.Machine.execBindRecordWrite core slot r s
  | .threadStart core slot => Sys2Proof.Machine.execThreadStart core slot s
  | .coreDoneAdd core => Sys2Proof.Machine.execCoreDoneAdd core s
  | .timedRelease idx => Sys2Proof.Machine.execTimedRelease idx s
  | .preemptSave launch => Sys2Proof.Machine.execPreemptSave launch s
  | .firmwareDoorbell core => Sys2Proof.Machine.execFirmwareDoorbell core s
  | .freqChange core mhz => Sys2Proof.Machine.execFreqChange core mhz s
  | .dieThrottle die => Sys2Proof.Machine.execDieThrottle die s
  | .securityAlarm causes dies reading => Sys2Proof.Machine.execSecurityAlarm causes dies reading s
  | .scrub place found => Sys2Proof.Machine.execScrub place found s
  | .directoryRebuild line => Sys2Proof.Machine.execDirectoryRebuild line s
  | .fenceCore core unit loc lost => Sys2Proof.Machine.execFenceCore core unit loc lost s
  | .routerBypass core => Sys2Proof.Machine.execRouterBypass core s
  | .podDatagram dev p => Sys2Proof.Machine.execPodDatagram dev p s
  | .podRetransmit n => Sys2Proof.Machine.execPodRetransmit n s
  | .peerUnreachable dev => Sys2Proof.Machine.execPeerUnreachable dev s
  | .contactSheetSample place idx sample => Sys2Proof.Machine.execContactSheetSample place idx sample s
  | .sspTypedRequest src dst => Sys2Proof.Machine.execSspTypedRequest src dst s
  | .distributorTnextRequest src dst => Sys2Proof.Machine.execDistributorTnextRequest src dst s
  | .tlbinvComplete core slot => Sys2Proof.Machine.execTlbinvComplete core slot s
  | .malformedRequest f => Sys2Proof.Machine.execMalformedRequest f s

end Sys2Proof.Machine
end

