-- ==== Sys2Proof/Machine/Step.lean ====
section
/-! DEFINITION. One step of the machine: what the agenda names next, or, when it names nothing, a cycle of the core in
focus. -/

namespace Sys2Proof.Machine

open Sys2Proof

/-- A cycle of a core: the slot the rotation chooses performs its next instruction (R88, R298). A core in a flight runs at the
span clock, with every core of its flight (R311, R314). -/
def cycleStep (c : Nat) (s : State) : Host.Outcome State Fault Refusal :=
  match (s.coreAt c).flight with
  | some l => .next (s.streamCycle exec l)
  | none =>
    match s.turn c with
    | .none s => .next s
    | .issue i t before cycle s =>
      match exec i s with
      | .next s' => .next ((s'.turnOver c t cycle before (some i)).tick c)
      | o => o

/-- What an agenda item does. -/
def moveStep (m : Move) (s : State) : Host.Outcome State Fault Refusal :=
  match m with
  | .cycle c => cycleStep c s
  | .stream l => .next (s.streamCycle exec l)
  | .elapse ns => .next (s.elapse ns)
  | .event i => if isEvent i then exec i s else .next s
  | .group g ws => .next (s.firmwareGroup g ws)
  | .bringFails k cause => .next (s.bringFails k cause)
  | .overtake c sl n => .next (s.overtake c sl n)

/-- One step. -/
def step (s : State) : Host.Outcome State Fault Refusal :=
  match s.agenda with
  | [] => cycleStep s.focus s
  | m :: rest => moveStep m { s with agenda := rest }

/-- `s` with the instruction whose bits are `w` as the next that slot 0 of the core in focus fetches (log entry 20). -/
def State.withFetchWord (s : State) (nbits w : Nat) : State := s.placeWord nbits w

end Sys2Proof.Machine
end

