-- ==== Sys2Proof/Safety.lean ====
section
/-! DEFINITION. What counts as a safe run of the model, and the terms that the statements about it use: what an instruction
reads and writes (R55, R56), when it may issue (R88), and the invariant of its memories. -/

namespace Sys2Proof

/-- A run is safe when no step of it faults or is refused: every step of the machine has the effect the spec gives it. -/
def Safe (s : Machine.State) (n : Nat) : Prop :=
  ∃ t : Machine.State, core.run n s = .next t

namespace Machine

/-! ### What an instruction names (R44 to R81), stated beside the meanings -/

/-- The sources of an instruction that carry a full/empty bit, in the order in which they are tested: A, B, then a D field
that is read (R55). A class without test bits gives `false`. -/
def srcsOf : Instr → List Src
  | .add y x b a _ | .sub y x b a _ | .and y x b a _ | .or y x b a _ | .xor y x b a _ | .andn y x b a _
  | .shl y x b a _ | .shr y x b a _ | .sha y x b a _ | .rot y x b a _ | .min y x b a _ | .max y x b a _
  | .minn y x b a _ | .maxn y x b a _ | .mul y x b a _ | .mulh y x b a _ | .mulhn y x b a _ | .div y x b a _
  | .divn y x b a _ | .rem y x b a _ | .remn y x b a _ | .sext y x b a _ | .addw y x b a _ | .subw y x b a _
  | .cmp y x b a _ _ | .cmpW y x b a _ _ | .sel _ _ y x b a _ | .tspawn y x b a _ | .vlds _ y x b a _
  | .tinit y x b a _ | .traw y x b a _ | .accrd y x b a _ _ | .vset _ y x b a _ | .tlbinv y x b a _
  | .grpset y x b a => [gsrc a x, gsrc b y]
  | .clz x a _ | .popc x a _ | .addi _ x a _ | .andi _ x a _ | .ori _ x a _ | .xori _ x a _ | .shli _ x a _
  | .shri _ x a _ | .shai _ x a _ | .roti _ x a _ | .cmpi _ x a _ _ | .pfromg x a _ | .xset x a _ | .xld x a
  | .madr _ _ x a _ | .jalr _ x a _ | .kput x a _ | .strmLead x a | .ld _ _ _ _ x a _ | .ldn _ _ _ _ x a _
  | .vld _ _ _ x a _ | .cflush x a | .cinv x a | .pref x a _ | .spcfg x a | .czero x a | .tclr x a
  | .acccfg x a _ _ | .accsave x a _ | .accload x a _ | .mstat x a _ | .vbc _ x a _ | .speedrd x a _
  | .ldsy _ x a _ | .barArr x a _ | .barArw _ x a _ | .lckAcq _ x a | .lckRel x a | .qGet _ x a _ | .cndSig x a _
  | .nbar _ x a _ | .mwl _ _ _ _ x a _ => [gsrc a x]
  | .aadd _ _ t b a _ | .aand _ _ t b a _ | .aor _ _ t b a _ | .axor _ _ t b a _ | .amin _ _ t b a _
  | .amax _ _ t b a _ | .aswap _ _ t b a _ | .acas _ _ t b a _ | .stsy _ t b a | .cntAdd t b a | .cntFadd t b a _
  | .cntWait _ t b a _ | .barWait _ t b a _ | .cndWait _ t b a => [gsrc a t, gsrc b t]
  | .mma _ _ _ _ t b a _ _ => [gsrc a t, gsrc b t]
  | .kget x a _ => [⟨.k, a, x⟩]
  | .rput c _ y b _ => [putSrc c b y]
  | .rputM c y x b a _ => [gsrc a x, putSrc c b y]
  | .st _ _ _ _ x a d => [gsrc a x, gsrc d false]
  | .vst _ _ _ x a d => [gsrc a x, vsrc d]
  | .vsts _ y x b a d => [gsrc a x, gsrc b y, vsrc d]
  | .vgath _ x b a _ => [gsrc a x, vsrc b]
  | .vscat _ x b a d => [gsrc a x, vsrc b, vsrc d]
  | .pst _ _ _ t b a d => [gsrc a t, gsrc b t, vsrc d]
  | .qPut _ t b a => [gsrc a t, vsrc b]
  | .vaddFp _ b a _ _ | .vsubFp _ b a _ _ | .vmulFp _ b a _ _ | .vfmaFp _ b a _ _ | .vminFp _ b a _ _
  | .vmaxFp _ b a _ _ | .vselFp _ b a _ _ | .vfnmaFp _ b a _ _ | .vcmpFp _ b a _ _ _ => [vsrc a, vsrc b]
  | .vun _ _ a _ _ | .vred _ a _ _ | .vcvt _ _ _ a _ _ => [vsrc a]
  | .vaddInt _ b a _ _ | .vsubInt _ b a _ _ | .vmulInt _ b a _ _ | .vmac _ b a _ _ | .vminInt _ b a _ _
  | .vmaxInt _ b a _ _ | .vminn _ b a _ _ | .vmaxn _ b a _ _ | .vand _ b a _ _ | .vor _ b a _ _ | .vxor _ b a _ _
  | .vshl _ b a _ _ | .vshr _ b a _ _ | .vsha _ b a _ _ | .vselInt _ b a _ _ | .vcmpInt _ b a _ _ _ =>
    [vsrc a, vsrc b]
  | .vget _ y b a _ => [vsrc a, gsrc b y]
  | .vperm _ b a _ => [vsrc a, vsrc b]
  | .vcopy a _ => [vsrc a]
  | .swr _ _ d | .swrIntpend d | .swrMerrlog d | .swrPshq d | .swrPshcnt d => [gsrc d false]
  | .cMov y _ => [gsrc (g32 y) false]
  | .cAdd y x | .cSub y x | .cAnd y x | .cOr y x | .cXor y x => [gsrc (g32 x) false, gsrc (g32 y) false]
  | .cAddi _ x | .cShli _ x | .cShri _ x => [gsrc (g32 x) false]
  | .cLd _ b _ => [gsrc (gBase b) false]
  | .cSt _ b x => [gsrc (gBase b) false, gsrc (g32 x) false]
  | .cRet => [gsrc 1 false]
  | _ => []

/-- The destinations of an instruction that carry a full/empty bit (R54, R56). -/
def dstsOf : Instr → List (RegClass × Nat)
  | .add _ _ _ _ d | .sub _ _ _ _ d | .and _ _ _ _ d | .or _ _ _ _ d | .xor _ _ _ _ d | .andn _ _ _ _ d
  | .shl _ _ _ _ d | .shr _ _ _ _ d | .sha _ _ _ _ d | .rot _ _ _ _ d | .min _ _ _ _ d | .max _ _ _ _ d
  | .minn _ _ _ _ d | .maxn _ _ _ _ d | .mul _ _ _ _ d | .mulh _ _ _ _ d | .mulhn _ _ _ _ d | .div _ _ _ _ d
  | .divn _ _ _ _ d | .rem _ _ _ _ d | .remn _ _ _ _ d | .sext _ _ _ _ d | .addw _ _ _ _ d | .subw _ _ _ _ d
  | .clz _ _ d | .popc _ _ d | .addi _ _ _ d | .andi _ _ _ d | .ori _ _ _ d | .xori _ _ _ d | .shli _ _ _ d
  | .shri _ _ _ d | .shai _ _ _ d | .roti _ _ _ d | .lui _ d | .addpc _ d | .sel _ _ _ _ _ _ d | .ptog _ d | .xget _ d
  | .madr _ _ _ _ d | .jalr _ _ _ d | .tspawn _ _ _ _ d | .tnext d | .kget _ _ d | .strmPos d
  | .ld _ _ _ _ _ _ d | .ldn _ _ _ _ _ _ d | .aadd _ _ _ _ _ d | .aand _ _ _ _ _ d | .aor _ _ _ _ _ d
  | .axor _ _ _ _ _ d | .amin _ _ _ _ _ d | .amax _ _ _ _ _ d | .aswap _ _ _ _ _ d | .acas _ _ _ _ _ d
  | .ldsy _ _ _ d | .cntFadd _ _ _ d | .cntWait _ _ _ _ d | .barArr _ _ d | .barWait _ _ _ _ d | .barArw _ _ _ d
  | .nbar _ _ _ d | .cpy _ _ _ _ d | .cpym _ _ _ _ d | .mstat _ _ d | .vget _ _ _ _ d | .srd _ _ d
  | .speedrd _ _ d => [gdst d]
  | .jal _ => [gdst 1]
  | .kput _ _ d => [(.k, d.val)]
  | .rputArm c d => [if c then vdst d else gdst d]
  | .vld _ _ _ _ _ d | .vlds _ _ _ _ _ d | .vgath _ _ _ _ d | .qGet _ _ _ d | .vbc _ _ _ d | .vset _ _ _ _ _ d
  | .vperm _ _ _ d | .vcopy _ d => [vdst d]
  | .vaddFp _ _ _ d _ | .vsubFp _ _ _ d _ | .vmulFp _ _ _ d _ | .vfmaFp _ _ _ d _ | .vminFp _ _ _ d _
  | .vmaxFp _ _ _ d _ | .vselFp _ _ _ d _ | .vfnmaFp _ _ _ d _ | .vun _ _ _ d _ | .vred _ _ d _
  | .vcvt _ _ _ _ d _ => [vdst d]
  | .vaddInt _ _ _ d _ | .vsubInt _ _ _ d _ | .vmulInt _ _ _ d _ | .vmac _ _ _ d _ | .vminInt _ _ _ d _
  | .vmaxInt _ _ _ d _ | .vminn _ _ _ d _ | .vmaxn _ _ _ d _ | .vand _ _ _ d _ | .vor _ _ _ d _ | .vxor _ _ _ d _
  | .vshl _ _ _ d _ | .vshr _ _ _ d _ | .vsha _ _ _ d _ | .vselInt _ _ _ d _ => [vdst d]
  | .cMov _ x | .cAdd _ x | .cSub _ x | .cAnd _ x | .cOr _ x | .cXor _ x => [gdst (g32 x)]
  | .cAddi _ x | .cLi _ x | .cShli _ x | .cShri _ x | .cLd _ _ x => [gdst (g32 x)]
  | _ => []

/-- A destination that must be full: a v register that the instruction also reads, as an addend, for the lanes a mask keeps or
for those beside the one that VSET writes (R144, R153), and the k register of a KPUT (R302). -/
def readDstOf : Instr → List (RegClass × Nat)
  | .vfmaFp _ _ _ d _ | .vfnmaFp _ _ _ d _ | .vmac _ _ _ d _ | .vset _ _ _ _ _ d => [vdst d]
  | .kput _ _ d => [(.k, d.val)]
  | .vaddFp m _ _ d _ | .vsubFp m _ _ d _ | .vmulFp m _ _ d _ | .vminFp m _ _ d _ | .vmaxFp m _ _ d _ | .vun m _ _ d _
  | .vcvt m _ _ _ d _ | .vaddInt m _ _ d _ | .vsubInt m _ _ d _ | .vmulInt m _ _ d _ | .vminInt m _ _ d _
  | .vmaxInt m _ _ d _ | .vminn m _ _ d _ | .vmaxn m _ _ d _ | .vand m _ _ d _ | .vor m _ _ d _ | .vxor m _ _ d _
  | .vshl m _ _ d _ | .vshr m _ _ d _ | .vsha m _ _ d _ => if m = 0 then [] else [vdst d]
  | _ => []

/-- A register that an instruction names without testing it: the operand of a WAIT (R301). -/
def namesOf : Instr → List (RegClass × Nat)
  | .waitg a => [(.g, a.val)]
  | .waitv a => [(.v, a.val)]
  | .waitk a => [(.k, a.val)]
  | _ => []

/-- The instructions that only S mode may perform (R80, R350). -/
def privileged : Instr → Bool
  | .repart _ | .spcfg _ _ | .traw .. | .eret | .tlbinv .. | .grpset .. | .wfi => true
  | .srd h l _ => readPriv (num12 h l)
  | .swr h l _ => writePriv (num12 h l)
  | .swrIntpend _ | .swrMerrlog _ | .swrPshq _ | .swrPshcnt _ => true
  | _ => false

/-- An instruction that words of the encoding name, as against an event. -/
def encoded (i : Instr) : Bool := (encode i).isSome

/-- Every field holds an allowed value, and every register named lies in the partition in force (R52, R86). -/
def legal (i : Instr) (s : State) : Bool :=
  i.wf && (srcsOf i).all (fun x => inPart s.co.part x.cls x.n)
    && (dstsOf i ++ namesOf i).all (fun d => inPart s.co.part d.1 d.2)

/-- The mode allows the instruction (R80). -/
def allowed (i : Instr) (s : State) : Bool := !privileged i || s.th.smode

/-- No source of an instruction is empty (R55). -/
def sourcesFull (i : Instr) (s : State) : Bool := (srcsOf i).all fun x => s.regSt x.cls x.n == .full

/-- No producer has still to fill a destination, and a destination that is read is full (R56, R144). -/
def destsReady (i : Instr) (s : State) : Bool :=
  (dstsOf i).all (fun d => !(s.regSt d.1 d.2).isPending) && (readDstOf i).all fun d => s.regSt d.1 d.2 == .full

/-- The instruction passes steps 3 to 5 of R88 and has its own effect. -/
def canIssue (i : Instr) (s : State) : Bool := legal i s && allowed i s && sourcesFull i s && destsReady i s

/-- The instruction answers a state whose own effect is `t`; the deferred WATCH traps of its destinations' transitions are
posted with it (R399). -/
def gives (i : Instr) (s t : State) : Prop := exec i s = .next (State.watchDsts s t (dstsOf i) (majOf i))

/-! ### Groups of instructions -/

/-- The arithmetic, immediate, comparison, predicate and operand-extension instructions and their 16-bit forms (R128). -/
def scalarForm : Instr → Bool
  | .add .. | .sub .. | .and .. | .or .. | .xor .. | .andn .. | .shl .. | .shr .. | .sha .. | .rot .. | .min .. | .max ..
  | .minn .. | .maxn .. | .mul .. | .mulh .. | .mulhn .. | .div .. | .divn .. | .rem .. | .remn .. | .clz .. | .popc ..
  | .sext .. | .addw .. | .subw .. | .addi .. | .andi .. | .ori .. | .xori .. | .shli .. | .shri .. | .shai .. | .roti ..
  | .lui .. | .addpc .. | .cmp .. | .cmpW .. | .cmpi .. | .sel .. | .pand .. | .por .. | .pxor .. | .pandn .. | .pfromg ..
  | .ptog .. | .xset .. | .xget .. | .madr .. | .cMov .. | .cAdd .. | .cSub .. | .cAnd .. | .cOr .. | .cXor .. | .cAddi ..
  | .cLi .. | .cShli .. | .cShri .. | .cMiscNop => true
  | _ => false

/-- The predicate an instruction writes (R136, R138). -/
def predOf : Instr → Option Reg8
  | .cmp _ _ _ _ _ p | .cmpW _ _ _ _ _ p | .cmpi _ _ _ _ p => some p
  | .pand _ _ d | .por _ _ d | .pxor _ _ d | .pandn _ _ d | .pfromg _ _ d => some d
  | _ => none

/-! ### What a statement says of two states -/

/-- Nothing outside the performing thread has changed: no other thread, core, memory, slice, message or device register. -/
def onlyThread (s t : State) : Prop :=
  { t with cores := s.cores } = s ∧ (∀ c, c ≠ s.cur.1 → t.coreAt c = s.coreAt c) ∧
  { t.co with threads := s.co.threads } = s.co ∧ ∀ u, u ≠ s.cur.2 → t.thread s.cur.1 u = s.thread s.cur.1 u

/-- The registers of a thread that are not named by a register field, and its outstanding accesses: every system register but
FPFLAGS, the trap registers, breakpoints, watchpoints and counts. -/
def Thread.rest (t : Thread) : Thread :=
  { t with pc := 0, g := [], gst := [], v := [], vst := [], p := 0, m := [], x := [], fpflags := 0, deferred := [],
           fb := none, half := none, fetched := none }

/-- Every g and v register that the list does not name holds its value and its full/empty state. -/
def keepsRegs (l : List (RegClass × Nat)) (s t : State) : Prop :=
  ∀ n, ((RegClass.g, n) ∉ l → t.th.gv n = s.th.gv n ∧ t.th.gs n = s.th.gs n) ∧
       ((RegClass.v, n) ∉ l → t.th.vv n = s.th.vv n ∧ t.th.vs n = s.th.vs n)

/-- Every byte of home memory and of every scratchpad reads as before. -/
def keepsMemory (s t : State) : Prop :=
  (∀ a, mread t.mem a = mread s.mem a) ∧ ∀ c a, mread (t.coreAt c).spm a = mread (s.coreAt c).spm a

/-- Every byte of home memory, of every other scratchpad, and of the own scratchpad outside `n` bytes from `off` reads as
before. -/
def keepsMemoryBut (off n : Nat) (s t : State) : Prop :=
  (∀ a, mread t.mem a = mread s.mem a) ∧ (∀ c a, c ≠ s.cur.1 → mread (t.coreAt c).spm a = mread (s.coreAt c).spm a) ∧
  ∀ a, a < off ∨ off + n ≤ a → mread t.co.spm a = mread s.co.spm a

/-- Lane j of a vector is `f j`, for every lane of `w` bits. -/
def lanesAre (l : Line) (w : Nat) (f : Nat → Nat) : Prop := ∀ j, j < 512 / w → lane l w j = f j

/-- A condition of R136 on two strings. -/
def condTrue {w : Nat} (c : Cond) (x y : BitVec w) : Bool :=
  match c with
  | .eq => x == y
  | .ne => x != y
  | .lt => decide (x.toInt < y.toInt)
  | .ge => decide (x.toInt ≥ y.toInt)
  | .ltn => decide (x.toNat < y.toNat)
  | .gen => decide (x.toNat ≥ y.toNat)
  | .tst => x &&& y != 0

/-- A condition of R147 on two values. -/
def fcondTrue (c : FCond) (a b : FVal) : Bool :=
  let ordered := a != .nan && b != .nan
  match c with
  | .eq => ordered && a.cmp b == .eq
  | .ne => !ordered || a.cmp b != .eq
  | .lt => ordered && a.cmp b == .lt
  | .ge => ordered && (a.cmp b == .gt || a.cmp b == .eq)
  | .le => ordered && (a.cmp b == .lt || a.cmp b == .eq)
  | .gt => ordered && a.cmp b == .gt
  | .un => !ordered

/-! ### Accesses -/

/-- An access of the performing thread reaches `size` bytes of its own scratchpad at `off`: it passes the checks of R231, its
own device counts as reachable, and it waits for nothing (R202, R206 to R211). -/
def ownAccess (s : State) (va : Word) (size align : Nat) (n : Need) (a : Access) (toHome : Bool) (o : AccOrder)
    (off : Nat) : Prop :=
  s.check s.actx va size align n = .ok (.own off) ∧ s.podGone.contains s.devnum = false ∧
  s.gate [.own off] a toHome o = none

/-- No word of the own scratchpad that `n` bytes from `off` touch is poisoned (R377). -/
def ownClean (s : State) (off n : Nat) : Prop := ∀ w ∈ s.co.spmBad, ¬ (8 * w < off + n ∧ off < 8 * w + 8)

/-- The eight elements of a strided or indexed access reach the own scratchpad at eight offsets (R235). -/
def ownElements (s : State) (es : List Word) (offs : List Nat) (n : Need) (a : Access) (wc : Nat) : Prop :=
  offs.length = es.length ∧ s.checkAll s.actx 8 8 n es = .ok (es.zip (offs.map .own)) ∧
  s.podGone.contains s.devnum = false ∧ s.gate (offs.map .own) a false ⟨.plain, none, wc⟩ = none

/-- Nothing has changed outside the performing thread and the bytes of its core's scratchpad; request numbers may have been
taken. -/
def onlyThreadAndScratch (s t : State) : Prop :=
  { t with cores := s.cores, txn := s.txn } = s ∧ (∀ c, c ≠ s.cur.1 → t.coreAt c = s.coreAt c) ∧
  { t.co with threads := s.co.threads, spm := s.co.spm, spmBad := s.co.spmBad } = s.co ∧
  ∀ u, u ≠ s.cur.2 → t.thread s.cur.1 u = s.thread s.cur.1 u

/-- A typed operation of the performing thread at `va` reaches a SYNC page at `pa` on its own device, with no trap, release or acquire
that comes before it (R268, R271). -/
def typedAllowed (s : State) (va : Word) (pa maj bit : Nat) : Prop :=
  s.typedCheck va maj = .ok pa ∧ paDev pa = s.devnum ∧ s.th.watchHit 1 bit va 8 = none ∧
  s.podGone.contains s.devnum = false ∧ relReady .pod s.th.outs = true ∧ s.th.acqReady = true

/-- A typed operation that touches some lines may be sent: no queued matrix command of the core has still to access one of them
either (R161, R199). -/
def typedReady (s : State) (va : Word) (pa maj bit : Nat) (lines : List Nat) : Prop :=
  typedAllowed s va pa maj bit ∧ s.wordHold s.cur.1 lines = none

/-! ### Messages and replies -/

/-- `b` is the oldest message from one agent to another, both of which exist, and `rest` is what else is in flight (R21); a request of
another device is next in that device's order (R196). -/
def heads (s : State) (src dst : Node) (b : Body) (rest : List Msg) : Prop :=
  chanOk src dst = true ∧ s.portTurn src dst = true ∧ ∃ pre post, s.net = pre ++ ⟨src, dst, b⟩ :: post ∧ rest = pre ++ post ∧
    ∀ m ∈ pre, ¬ (m.src = src ∧ m.dst = dst)

/-- A reply to a core under a number belongs to a thread of it: no engine command and no addition to DONE awaits it, and the
core is not fenced (R379). -/
def threadReply (s : State) (c id : Nat) (r : Result) : Prop :=
  (s.engAnswer c id r).isNone = true ∧ (s.launches.all fun e => tget? e.2.adding c != some id) = true ∧
  (s.coreAt c).fenced = false

/-- The answer to a request goes to the instruction that the thread is at or has gone past, and to none that was set aside (log
entry 8). -/
def direct (t : Thread) (id : Nat) (o : Option Out) : Prop := (t.aside.any fun a => a.takes id o) = false

/-- The requester is a thread of this device, which is reachable. -/
def localWho (s : State) (w : Who) : Prop := w.dev = s.devnum ∧ w.id ≠ 0 ∧ s.podGone.contains s.devnum = false

/-- A thread would take a trap in its handler (R352). -/
def handles (t : Thread) (cause : Nat) : Prop :=
  t.held = false ∧ t.armed cause = false ∧ bitOf t.status 2 = false ∧ fld t.trapvec 1 56 ≠ 0

/-- A thread has entered its handler for a trap that it took at `pc` (R352). -/
def inHandler (old new : Thread) (cause : Nat) (v1 v2 pc : Word) (c16 : Bool := false) : Prop :=
  new.life = .runnable ∧ new.wait = none ∧ new.pc = word (fld old.trapvec 1 56 * 2) ∧ new.trappc = pc ∧
  new.trapcause = word (cause + if c16 then 256 else 0) ∧ new.trapval = v1 ∧ new.trapval2 = v2 ∧
  bitOf new.status 0 = true ∧ bitOf new.status 1 = bitOf old.status 0 ∧ bitOf new.status 2 = true

/-! ### Typed objects -/

/-- The offset of an 8-byte word of the SYNC pool (R263). -/
def poolWord (off : Nat) : Prop := 0x7C00000000 ≤ off ∧ off < 0x7E00000000 ∧ off % 8 = 0

/-- The words that TINIT writes, with their tags (R289). -/
def madeWords (t : ObjType) (off : Nat) (b : Word) : List (Nat × Word × Nat) :=
  match t with
  | .plain => [(off, b, 0)]
  | .counter => [(off, b, 0x9)]
  | .barrier => [(off, b, 0xA), (off + 8, 0, 0xB)]
  | .report => [(off, 0, 0xB)]
  | .ticket => [(off, b, 0xC)]
  | .queue => (off, b, 0xD) :: (List.range (7 + fld b 48 16 * 2 ^ fld b 40 8)).map fun i => (off + 8 * (i + 1), 0, 0x6)
  | .slot => []
  | .cond => [(off, b, 0xF)]

/-- The initial values that TINIT allows (R289); there is no TINIT of a slot. -/
def initAllowed (t : ObjType) (b : Word) : Prop :=
  match t with
  | .plain | .counter => True
  | .barrier => fld b 32 16 ≠ 0 ∧ fld b 0 32 = 0
  | .report => b = 0
  | .ticket => fld b 32 32 = fld b 0 32
  | .queue => 1 ≤ fld b 48 16 ∧ fld b 40 8 ≤ 3 ∧ fld b 0 40 = 0
  | .slot => False
  | .cond => fld b 0 32 = 0

/-- The alignment of an object (R289). -/
def objectAlign (t : ObjType) : Nat :=
  match t with
  | .barrier => 16
  | .queue => 64
  | _ => 8

/-- The words of a list hold the values and the tags it gives, and every other word of the pool is as it was. -/
def writesWords (l : List (Nat × Word × Nat)) (asid : Nat) (s t : State) : Prop :=
  (∀ e ∈ l, t.sspWord asid e.1 = e.2.1 ∧ t.tag e.1 = e.2.2) ∧
  ∀ o, poolWord o → (∀ e ∈ l, e.1 ≠ o) → t.sspWord asid o = s.sspWord asid o ∧ t.tag o = s.tag o

/-- The rectangle of a flight lies on its leader's die (R309, R310). -/
def onDie (f : Flight) (leader : Nat) : Prop :=
  leader < 768 ∧ 2 ≤ f.w ∧ 1 ≤ f.h ∧ leader % 32 % 16 + f.w ≤ 16 ∧ leader / 32 % 12 + f.h ≤ 12

/-! ### Operands of the engines -/

/-- `n` words of an engine's operand lie in its core's own scratchpad from `off` on (R166, R260). -/
def ownOperand (s : State) (c : Nat) (x : Ctx) (va : Word) (n off : Nat) : Prop :=
  off % 8 = 0 ∧ ∀ i < n, isMesh (va + word (8 * i)) = true ∧ s.engMesh c x (va + word (8 * i)) 8 = .ok (.spm (off + 8 * i))

/-- The words of a scratchpad with their poison. -/
def spmWords (s : State) (c off n : Nat) : List (Nat × Bool) :=
  (List.range n).map fun i => (mnum (s.coreAt c).spm (off + 8 * i) 8, (s.coreAt c).spmBad.contains ((off + 8 * i) / 8))

/-- A thread that waited for a matrix entry goes on past its instruction (R159). -/
def matrixDone (t : Thread) : Thread := { t with wait := none, life := .runnable, pc := t.pc + 4 }

/-! ### Host frames -/

/-- A well-formed frame of a type whose turn it is (R326, R328): its source is new and finds room, or the frame follows the
last one answered, with nothing held or in progress; and it may be performed at once (log entry 103). -/
def inTurn (s : State) (f : Frame) (typ : Nat) : Prop :=
  headerOk f = true ∧ f.typ = typ ∧ f.seq < 2 ^ 32 ∧ s.alarm = none ∧ (s.bring = 8 ∨ typ = 6) ∧ s.mayPerform f = true ∧
  ((tget? s.sources f.src = none ∧ s.sources.length < 64) ∨
    ∃ h, tget? s.sources f.src = some h ∧ h.active = [] ∧ h.held = [] ∧ f.seq = (h.h + 1) % 2 ^ 32)

/-- A read of `n` bytes from a local offset under an ASID recalls nothing: each line is of that ASID or carries the initial mark, or no
L1 holds it (R371, R372). -/
def readsInPlace (s : State) (asid off n : Nat) : Prop :=
  ∀ l ∈ linesOf off n, (s.dirAt l).asid = asid ∨ s.marked l = true ∨ ((s.dirAt l).owner = none ∧ (s.dirAt l).sharers = [])

/-- A request has been answered: one reply has left, and it is kept for a repetition of the request (R328). -/
def answered (s t : State) (f : Frame) (status reason : Nat) (payload : List Byte) : Prop :=
  let o : HostOut := ⟨f.src, f.typ + 128, f.seq, status, reason, payload⟩
  t.hostOut = s.hostOut ++ [o] ∧ ∃ h, tget? t.sources f.src = some h ∧ h.h = f.seq ∧ (f.seq, o) ∈ h.replies

/-! ### Vectors -/

/-- The value at node i of level k of the tree of R149: a leaf at level 0, and above it the sum of the two nodes below,
where an absent one passes the other through; with the flags of all its additions. -/
def treeNode (t : Fmt) (rm : Rounding) (leaf : Nat → Option Nat) : Nat → Nat → Option Nat × Flags
  | 0, i => (leaf i, 0)
  | k + 1, i =>
    let l := treeNode t rm leaf k (2 * i)
    let r := treeNode t rm leaf k (2 * i + 1)
    match l.1, r.1 with
    | some a, some b =>
      let sum := t.finish rm ((t.val a).add rm (t.val b))
      (some sum.1, l.2 ||| r.2 ||| sum.2)
    | some a, none => (some a, l.2 ||| r.2)
    | none, b => (b, l.2 ||| r.2)

/-- The integer that a rounding mode of R115 chooses for m / 2^d with a sign: RZ and the mode that rounds a magnitude down
take the integer part, the mode that rounds it up the least integer not below it, RNE the nearest, a tie going to even. -/
def roundsTo (rm : Rounding) (neg : Bool) (m d y : Nat) : Prop :=
  match rm, neg with
  | .rz, _ | .ru, true | .rd, false => y * 2 ^ d ≤ m ∧ m < (y + 1) * 2 ^ d
  | .ru, false | .rd, true => m ≤ y * 2 ^ d ∧ y * 2 ^ d < m + 2 ^ d
  | .rne, _ =>
    2 * m ≤ 2 * (y * 2 ^ d) + 2 ^ d ∧ 2 * (y * 2 ^ d) ≤ 2 * m + 2 ^ d ∧
    (2 * m = 2 * (y * 2 ^ d) + 2 ^ d ∨ 2 * (y * 2 ^ d) = 2 * m + 2 ^ d → y % 2 = 0)

/-- The instructions of the vector majors and VMOV (R143 to R153). -/
def vectorForm : Instr → Bool
  | .vaddFp .. | .vsubFp .. | .vmulFp .. | .vfmaFp .. | .vminFp .. | .vmaxFp .. | .vun .. | .vcmpFp .. | .vselFp .. | .vred ..
  | .vcvt .. | .vfnmaFp .. | .vaddInt .. | .vsubInt .. | .vmulInt .. | .vmac .. | .vminInt .. | .vmaxInt .. | .vminn ..
  | .vmaxn .. | .vand .. | .vor .. | .vxor .. | .vshl .. | .vshr .. | .vsha .. | .vcmpInt .. | .vselInt .. | .vbc .. | .vget ..
  | .vset .. | .vperm .. | .vcopy .. => true
  | _ => false

/-- The vector instructions that may raise a flag (R120). -/
def raisesFlags : Instr → Bool
  | .vaddFp .. | .vsubFp .. | .vmulFp .. | .vfmaFp .. | .vun .. | .vred .. | .vcvt .. | .vfnmaFp .. => true
  | _ => false

/-- The mask register an instruction writes (R147, R152). -/
def maskOf : Instr → Option Reg8
  | .vcmpFp _ _ _ _ n _ | .vcmpInt _ _ _ _ n _ => some n
  | _ => none

/-- A set of flags is the union of those of the active lanes (R120). -/
def flagsOf (mask : Word) (n : Nat) (f : Nat → Flags) (fl : Flags) : Prop :=
  ∀ i < 5, bitOf fl i = true ↔ ∃ j < n, bitOf mask j = true ∧ bitOf (f j) i = true

/-! ### The invariant of the memories -/

/-- Home memory and every scratchpad hold their bytes in the one canonical form. -/
def memoriesCanonical (s : State) : Prop := mwf s.mem = true ∧ ∀ c ∈ s.cores, mwf c.2.spm = true

end Machine

end Sys2Proof
end

