-- ==== Sys2Proof/Certificates/Slice0/Obligations.lean ====
section
/-! DEFINITION. The statements about the model that are to be proved. `canIssue`, `gives`, `onlyThread` and the other terms are
those of Safety.lean. -/

open Sys2Proof Sys2Proof.Machine

/-! ### Reset and the whole machine -/

/-- What COLD_RESET leaves (R38 steps 1 to 5, R350), in `State.reset`: no thread is live, TIME is 0, the matrix unit and the
caches are empty, memory lists nothing, every thread register that R350 gives a reset value holds it, and every core is in
P16 with the split 6/6. That every scratchpad list is empty, so that core SRAM reads zero, is the model's choice (log entry 4: R38
gives the SRAM no value). The register files and the fuse contents are the model's choice too (log entries 1 and 3) and are not
stated. -/
def Obligations.ResetState : Prop :=
  let s := State.reset
  s.mem = [] ∧ s.memAsid = [] ∧ s.memBad = [] ∧ s.time = 0 ∧ s.net = [] ∧ s.launches = [] ∧ s.binds = [] ∧ s.groups = [] ∧
  ∀ c, (s.coreAt c).part = .p16 ∧ (s.coreAt c).ways = 6 ∧ (s.coreAt c).cycle = 0 ∧ (s.coreAt c).merrlog = 0 ∧
    (s.coreAt c).refused = 0 ∧ (s.coreAt c).spos = 0 ∧ (s.coreAt c).tlb = [] ∧ (s.coreAt c).l1 = [] ∧
    (s.coreAt c).ptrs = [] ∧ (s.coreAt c).spm = [] ∧ (s.coreAt c).mq = [] ∧ (s.coreAt c).cq = [] ∧ (s.coreAt c).tiles = [] ∧
    ∀ u, (s.thread c u).life = .notLive ∧ (s.thread c u).status = 0 ∧ (s.thread c u).trappc = 0 ∧
      (s.thread c u).trapcause = 0 ∧ (s.thread c u).trapval = 0 ∧ (s.thread c u).trapval2 = 0 ∧
      (s.thread c u).trapsave = 0 ∧ (s.thread c u).intpend = 0 ∧ (s.thread c u).intmask = 0 ∧ (s.thread c u).fpflags = 0 ∧
      (s.thread c u).brk = [] ∧ (s.thread c u).wch = [] ∧ (s.thread c u).outs = []

/-- The memories of the reset state are in canonical form. -/
def Obligations.ResetMemoriesCanonical : Prop := memoriesCanonical State.reset

/-- Every step keeps home memory and every scratchpad in the one canonical form, from any state that has it. -/
def Obligations.StepKeepsMemoriesCanonical : Prop :=
  ∀ s t : State, memoriesCanonical s → Machine.step s = .next t → memoriesCanonical t

/-- No instruction and no event of parts that exist stops the model: every one answers a next state, in every state. -/
def Obligations.NothingStops : Prop := ∀ (i : Instr) (s : State), i.wf = true → ∃ t, exec i s = .next t

/-! ### Encoding and the step -/

/-- Decoding the word of a well-formed encoded instruction gives that instruction, with every operand. -/
def Obligations.DecodeOfEncode : Prop :=
  ∀ (i : Instr) (n w : Nat), i.wf = true → encode i = some (n, w) →
    w < 2 ^ (8 * n) ∧ decodeWord w = .ok i ∧ decode (bytesOf n w) = .ok (i, n)

/-- Words that the spec's text writes out (R85, R131, R134 to R137, R139, R142, R144, R149, R150, R153, R356, R357, R361)
decode to the instructions they stand for. -/
def Obligations.ExampleWordsDecode : Prop :=
  decodeWord 0x88288183 = .ok (.div false false 5 4 3) ∧
  decodeWord 0x0050818D = .ok (.shli 5 false 4 3) ∧
  decodeWord 0x2468A48F = .ok (.lui 0x12345 9) ∧
  decodeWord 0x67812485 = .ok (.addi 0x678 false 9 9) ∧
  decodeWord 0x00306913 = .ok (.cmp false false 6 3 .lt 2) ∧
  decodeWord 0x0001419B = .ok (.xset false 10 3) ∧
  decodeWord 0x07E0089D = .ok (.madr 1 (-2) false 0 17) ∧
  decodeWord 0x9200E371 = .ok (.vred 1 7 6 .f32) ∧
  decodeWord 0xA0882171 = .ok (.vcvt 0 .rz .bf16 1 2 .f32) ∧
  decodeWord 0x6848217D = .ok (.vperm .h 9 1 2) ∧
  decodeWord 0x000401FF = .ok (.srd 0 0x20 3) ∧
  decodeWord 0x0803027F = .ok (.swr 0 0x18 4) ∧
  decodeWord 0x1000007F = .ok .ecall ∧
  decodeWord 0x1800007F = .ok .eret ∧
  decodeWord 0x2024607F = .ok (.trapi 4 35) ∧
  decodeWord 0x4000007F = .ok .wfi ∧
  decodeWord 0x2849017F = .ok (.tlbinv false false 9 8 .page) ∧
  decodeWord 0xF06C = .ok (.cAddi (-4) 3)

/-- A core cycle performs the decoded instruction: when the bytes at the pc of the slot whose turn it is lie in its fetch
buffer and name `i`, with nothing pending before it, `step` performs `exec i` and then closes the turn (R39, R43, R88, R298).
The core is in no flight; its network interface first does what it can (`serve`), the slots offered the cycle are noted
(`passOver`; R301), and the slot chosen is runnable, holds no trap that fell due, has no operation to repeat after a
cancellation and none that was set aside at its pc, no breakpoint matches, and it is no leader that waits behind its STRM.END (R321).
It is written back as it was read, but for what it had set aside at this pc before (log entry 8), which changes nothing in tables
that are in rising order. -/
def Obligations.StepPerformsDecoded : Prop :=
  ∀ (s : State) (c u : Nat) (b : FetchBuf) (i : Instr) (n w : Nat),
    s.agenda = [] → s.focus = c → s.liveCore c = true → (s.coreAt c).flight = none → (s.coreAt c).spcfg = none →
    s.alarm = none →
    let s0 := s.serve c
    let x := s0.chosen c
    x.1 = some u →
    let s1 := s0.passOver c x
    let th := s1.thread c u
    th.life = .runnable → th.held = false → th.wait = none → th.owed = none → th.deferred = [] → th.reissue = none →
    th.asideDue = none → th.stepped = none → th.fetched = none → th.half = none → th.breakpoint = none → s1.streamLeft c u = false →
    th.fb = some b → b.base = word (th.pc.toNat / 64 * 64) → th.pc.toNat % 64 + n ≤ 64 →
    bitOf b.bad (th.pc.toNat % 64 / 8) = false → bitOf b.bad ((th.pc.toNat % 64 + n - 2) / 8) = false →
    w = lineNum b.data (th.pc.toNat % 64) n → decodeWord w = .ok i → encode i = some (n, w) →
    Machine.step s =
      match exec i (State.setThread { s1 with cur := (c, u) } c u th.dropAside) with
      | .next t => .next ((t.turnOver c u (s0.coreAt c).cycle.toNat th.dropAside (some i)).tick c)
      | o => o

/-! ### Issue: what comes before an instruction's own effect (R88) -/

/-- What decides before an instruction is performed (R52, R55, R56, R58, R80, R86, R87). A word that names nothing, and an encoded
instruction with a value not allowed or a register outside the partition, traps with ILLEGAL, TRAPVAL the word and TRAPVAL2 its
length; a privileged one in U mode with PRIVILEGED. The first empty source, in the order A, B, D, traps with EMPTYREG when its test
bit is 1, and otherwise the thread parks until it is full. With its sources full, an instruction whose destination a producer has
still to fill parks until it is filled, and so does one that reads its v destination while that is empty (R144). -/
def Obligations.IssueOrder : Prop :=
  ((∀ s : State,
      (∀ i, encoded i = true → legal i s = false →
        exec i s = .next (s.trap 0x01 (word (wordOf i)) (word (lengthOf i)) (lengthOf i))) ∧
      (∀ w : BitVec 32, exec (.wordThatNamesNothing w false) s = .next (s.trap 0x01 (w.setWidth 64) 4 4) ∧
        exec (.wordThatNamesNothing w true) s = .next (s.trap 0x01 ((w.setWidth 16).setWidth 64) 2 2))) ∧
   (∀ (i : Instr) (s : State), encoded i = true → legal i s = true → privileged i = true → bitOf s.th.status 0 = false →
      exec i s = .next (s.trap 0x02 (word (wordOf i)) (word (lengthOf i)) (lengthOf i)))) ∧
  (∀ (i : Instr) (s : State) (before after : List Src) (x : Src), encoded i = true → legal i s = true → allowed i s = true →
     srcsOf i = before ++ x :: after → (∀ y ∈ before, s.regSt y.cls y.n = .full) → s.regSt x.cls x.n ≠ .full →
     exec i s = .next (if x.test then
         s.trap 0x03 (word ((if x.cls = .k then 64 else 0) + x.n)) (word (wordOf i)) (lengthOf i)
       else s.setTh { s.th with life := .parked (.source x.cls x.n) })) ∧
  (∀ (i : Instr) (s : State) (d : RegClass × Nat), encoded i = true → legal i s = true → allowed i s = true →
     sourcesFull i s = true →
     (dstsOf i = [d] → (s.regSt d.1 d.2).isPending = true →
       exec i s = .next (s.setTh { s.th with life := .parked (.dest d.1 d.2) })) ∧
     (dstsOf i = [d] → readDstOf i = [d] → (s.regSt d.1 d.2).isPending = false → s.regSt d.1 d.2 ≠ .full →
       exec i s = .next (s.setTh { s.th with life := .parked (.destFull d.1 d.2) })))

/-- What hard-wired registers read and how writes to them are discarded: g0 reads as zero, is always full and has width tag 00,
p0 reads true and m0 reads all ones, a write to g0 changes nothing, and an instruction whose destination field names p0 or m0 traps
with ILLEGAL, which has no other effect (R53). -/
def Obligations.HardWiredRegisters : Prop :=
  ∀ (t : Thread) (n : Nat) (w : Word) (b : Bool) (s : State),
    (t.gv 0 = 0 ∧ t.gs 0 = .full ∧ widthTag (t.gv 0) = 0 ∧ t.putG 0 w = t ∧ ∀ st, t.markG 0 st = t) ∧
    (t.pv 0 = true ∧ t.putP 0 b = t) ∧ (t.mv 0 = BitVec.allOnes 64 ∧ t.putM 0 w = t) ∧
    ((t.putG n w).gv n = if n = 0 then 0 else w) ∧ (t.putG n w).gs n = .full ∧
    ∀ (y x : Bool) (f j : GReg) (k : BitVec 12) (c : Cond) (pa pb m : Reg8) (va vb : VReg) (fc : FCond) (ft : FType)
      (it : IType) (i : Instr), i ∈ [Instr.cmp y x f j c 0, .cmpW y x f j c 0, .cmpi k x f c 0, .pand pa pb 0, .por pa pb 0, .pxor pa pb 0,
        .pandn pa pb 0, .pfromg x j 0, .vcmpFp m vb va fc 0 ft, .vcmpInt m vb va c 0 it] →
      exec i s = .next (s.trap 0x01 (word (wordOf i)) 4)

/-! ### Traps (R352, R353, R357, R358, R400) -/

/-- Taking a trap with a handler and outside one, of a thread that no flight holds: the trap registers, PMODE, MODE and INTRAP are written, the pc is TRAPVEC.ADDR
× 2, and nothing else changes: no register, no other thread, no memory, no access in flight (R352). -/
def Obligations.TrapEntersHandler : Prop :=
  ∀ (s : State) (cause : Nat) (v1 v2 : Word) (len : Nat),
    cause < 256 → s.th.armed cause = false → bitOf s.th.status 2 = false → fld s.th.trapvec 1 56 ≠ 0 →
    s.streams s.cur.1 s.cur.2 = false →
    let t := s.trap cause v1 v2 len
    onlyThread s t ∧
    t.th = { s.th with
      life := .runnable, pc := word (fld s.th.trapvec 1 56 * 2), fb := none, half := none, fetched := none, dropped := none, fresh := false,
      trappc := s.th.pc, trapcause := word (cause + (if len = 2 then 256 else 0)), trapval := v1, trapval2 := v2,
      status := t.th.status } ∧
    bitOf t.th.status 0 = true ∧ bitOf t.th.status 1 = bitOf s.th.status 0 ∧ bitOf t.th.status 2 = true ∧
    t.th.status >>> 3 = s.th.status >>> 3

/-- A trap that finds INTRAP = 1 or TRAPVEC.ADDR = 0 stops the thread: it issues nothing more, its trap registers and its pc
are not written, and its slot's bind record takes STATE 3 with CAUSE (R353); a record that still waits to start is another thread's
and stays (log entry 114). BREAK, WATCH and STEP stop the thread in safelight
instead, with the cause and values for the debug unit, when it has armed them (R352, R399), which ends a STEP of the thread too
(log entry 144). -/
def Obligations.TrapStopsOrHolds : Prop :=
  (∀ (s : State) (cause l : Nat) (v1 v2 : Word) (len : Nat),
     s.th.armed cause = false → (bitOf s.th.status 2 = true ∨ fld s.th.trapvec 1 56 = 0) →
     s.streams s.cur.1 s.cur.2 = false → s.th.launch = some l → (s.bind s.cur.1 s.cur.2).valid = true → (s.bind s.cur.1 s.cur.2).launch = l →
     let t := s.trap cause v1 v2 len
     t.th = { s.th with life := .stopped cause, wait := none } ∧ t.ready s.cur.1 s.cur.2 = false ∧
     t.bind s.cur.1 s.cur.2 = (if (s.bind s.cur.1 s.cur.2).state = 0 then s.bind s.cur.1 s.cur.2
       else { s.bind s.cur.1 s.cur.2 with state := 3, cause := cause }) ∧ t.mem = s.mem) ∧
  (∀ (s : State) (v1 v2 : Word) (len : Nat), s.streams s.cur.1 s.cur.2 = false →
     (∀ k, (k = 0 ∨ k = 1 ∨ k = 2) → bitOf s.th.arm k = true →
       let t := s.trap (0x0F + k) v1 v2 len
       onlyThread s t ∧ t.th = { s.th with
         life := .runnable, held := true, stopInfo := some ⟨0x0F + k, v1, v2⟩, stepping := false, stepped := none } ∧
       t.ready s.cur.1 s.cur.2 = false))

/-- ECALL, TRAPI and BRK raise ECALL, SWTRAP and BREAK with the values of R357 and R400: the completion of these three. -/
def Obligations.TrapInstructions : Prop :=
  ∀ (s : State) (h l : Fin 64),
    exec .ecall s = .next (s.trap 0x0D 0 0) ∧
    exec (.trapi h l) s = .next (s.trap 0x0E (word (h.val * 64 + l.val)) 0) ∧
    exec (.brk h l) s = .next (s.trap 0x0F (word (h.val * 64 + l.val)) 0)

/-- ERET in S mode: PC := TRAPPC, MODE := PMODE, INTRAP := 0, and nothing else but two marks: that the next instruction matches
no breakpoint (R397), and that every deferred trap that is pending may be taken before it (R352, R358). -/
def Obligations.EretReturns : Prop :=
  ∀ s : State, canIssue .eret s = true → ∃ t, exec .eret s = .next t ∧ onlyThread s t ∧
    t.th = { s.th.jump s.th.trappc with fresh := true, late := 0, status := t.th.status } ∧
    bitOf t.th.status 0 = bitOf s.th.status 1 ∧ bitOf t.th.status 1 = bitOf s.th.status 1 ∧
    bitOf t.th.status 2 = false ∧ t.th.status >>> 3 = s.th.status >>> 3

/-! ### Results of the scalar instructions -/

/-- The 26 IALU operations (R131): g[D] receives the value of the table, the pc moves on, and nothing else changes but the
WATCH traps that the transition of g[D] posts (R399). -/
def Obligations.IaluResults : Prop :=
  ∀ (y x : Bool) (b a d : GReg) (s : State) (p q : Word) (n : Nat), p = s.rg a → q = s.rg b → n = q.toNat % 64 →
    let result (i : Instr) (w : Word) : Prop := canIssue i s = true → gives i s ((s.wg d w).advance 4)
    result (.add y x b a d) (p + q) ∧
    result (.sub y x b a d) (p - q) ∧
    result (.and y x b a d) (p &&& q) ∧
    result (.or y x b a d) (p ||| q) ∧
    result (.xor y x b a d) (p ^^^ q) ∧
    result (.andn y x b a d) (p &&& ~~~q) ∧
    result (.shl y x b a d) (p <<< n) ∧
    result (.shr y x b a d) (p >>> n) ∧
    result (.sha y x b a d) (p.sshiftRight n) ∧
    result (.rot y x b a d) (p.rotateRight n) ∧
    result (.min y x b a d) (if p.toInt < q.toInt then p else q) ∧
    result (.max y x b a d) (if p.toInt > q.toInt then p else q) ∧
    result (.minn y x b a d) (if p.toNat < q.toNat then p else q) ∧
    result (.maxn y x b a d) (if p.toNat > q.toNat then p else q) ∧
    result (.mul y x b a d) (BitVec.ofInt 64 (p.toInt * q.toInt)) ∧
    result (.mulh y x b a d) (BitVec.ofInt 64 (p.toInt * q.toInt / 2 ^ 64)) ∧
    result (.mulhn y x b a d) (BitVec.ofNat 64 (p.toNat * q.toNat / 2 ^ 64)) ∧
    result (.div y x b a d) (if q = 0 then BitVec.allOnes 64 else p.sdiv q) ∧
    result (.divn y x b a d) (if q = 0 then BitVec.allOnes 64 else p / q) ∧
    result (.rem y x b a d) (if q = 0 then p else p.srem q) ∧
    result (.remn y x b a d) (if q = 0 then p else p % q) ∧
    result (.clz x a d) p.clz ∧
    result (.popc x a d) p.cpop ∧
    result (.sext y x b a d) ((p.setWidth (n + 1)).signExtend 64) ∧
    result (.addw y x b a d) (((p + q).setWidth 32).signExtend 64) ∧
    result (.subw y x b a d) (((p - q).setWidth 32).signExtend 64)

/-- Immediates, shifts by an immediate, upper parts, and MADR (R133 to R135, R142); and the 16-bit arithmetic forms, which
perform the instruction of R84 on g0 to g31 and move on by 2 bytes. -/
def Obligations.ImmediateAndCompactResults : Prop :=
  (∀ (i : BitVec 12) (j : BitVec 19) (h v : BitVec 6) (n : Fin 64) (x : Bool) (a d : GReg) (s : State) (p : Word),
     p = s.rg a →
     let result (i : Instr) (w : Word) : Prop := canIssue i s = true → gives i s ((s.wg d w).advance 4)
     result (.addi i x a d) (p + i.signExtend 64) ∧
     result (.andi i x a d) (p &&& i.signExtend 64) ∧
     result (.ori i x a d) (p ||| i.signExtend 64) ∧
     result (.xori i x a d) (p ^^^ i.signExtend 64) ∧
     result (.shli n x a d) (p <<< n.val) ∧
     result (.shri n x a d) (p >>> n.val) ∧
     result (.shai n x a d) (p.sshiftRight n.val) ∧
     result (.roti n x a d) (p.rotateRight n.val) ∧
     result (.lui j d) (j.signExtend 64 <<< 12) ∧
     result (.addpc j d) (s.th.pc + j.signExtend 64 <<< 12) ∧
     result (.madr h v x a d)
       (if bitOf p 63 then p.extractLsb' 46 18 ++ (p.extractLsb' 40 6 + h) ++ (p.extractLsb' 34 6 + v) ++ p.extractLsb' 0 34
        else 0b11#2 ++ 0#16 ++ h ++ v ++ 0#13 ++ p.extractLsb' 0 21)) ∧
  (∀ (y x : Fin 32) (gy gx : GReg) (i : BitVec 6) (n : Fin 64) (s : State) (p q : Word),
     gy.val = y.val → gx.val = x.val → p = s.rg gx → q = s.rg gy →
     let result (i : Instr) (w : Word) : Prop := canIssue i s = true → gives i s ((s.wg gx w).advance 2)
     result (.cMov y x) q ∧ result (.cAdd y x) (p + q) ∧ result (.cSub y x) (p - q) ∧ result (.cAnd y x) (p &&& q) ∧
     result (.cOr y x) (p ||| q) ∧ result (.cXor y x) (p ^^^ q) ∧ result (.cAddi i x) (p + i.signExtend 64) ∧
     result (.cLi i x) (i.signExtend 64) ∧ result (.cShli n x) (p <<< n.val) ∧ result (.cShri n x) (p >>> n.val) ∧
     (canIssue .cMiscNop s = true → gives .cMiscNop s (s.advance 2)))

/-- Comparisons, selection, predicates and the operand-extension registers but XLD (R136 to R139). -/
def Obligations.CompareSelectResults : Prop :=
  ∀ (y x inv : Bool) (b a d : GReg) (i : BitVec 12) (c : Cond) (pd pa pb : Reg8) (s : State) (p q : Word),
    p = s.rg a → q = s.rg b →
    let pred (i : Instr) (v : Bool) : Prop :=
      canIssue i s = true → gives i s ((s.setTh (s.th.putP pd v)).advance 4)
    let result (i : Instr) (w : Word) : Prop := canIssue i s = true → gives i s ((s.wg d w).advance 4)
    pred (.cmp y x b a c pd) (condTrue c p q) ∧
    pred (.cmpW y x b a c pd) (condTrue c (p.setWidth 32) (q.setWidth 32)) ∧
    pred (.cmpi i x a c pd) (condTrue c p (i.signExtend 64)) ∧
    result (.sel inv pa y x b a d) (if (s.th.pv pa ^^ inv) then p else q) ∧
    pred (.pand pb pa pd) (s.th.pv pa && s.th.pv pb) ∧
    pred (.por pb pa pd) (s.th.pv pa || s.th.pv pb) ∧
    pred (.pxor pb pa pd) (s.th.pv pa ^^ s.th.pv pb) ∧
    pred (.pandn pb pa pd) (s.th.pv pa && !s.th.pv pb) ∧
    pred (.pfromg x a pd) (decide (p ≠ 0)) ∧
    result (.ptog pa d) (if s.th.pv pa then 1 else 0) ∧
    (canIssue (.xset x a pd) s = true → gives (.xset x a pd) s ((s.setTh (s.th.putX pd p)).advance 4)) ∧
    result (.xget pa d) (s.th.xv pa)

/-- Branches and jumps (R303, R84): the pc becomes the target and the fetch buffer is emptied (R43); JAL links in g1 and JALR
in g[d]; a branch not taken moves on. The leader of a stream decides for every core of it (R315): outside a stream, and at the
leader, `decided` is the identity. -/
def Obligations.BranchResults : Prop :=
  ∀ (i25 : BitVec 25) (i19 : BitVec 19) (i12 : BitVec 12) (i11 : BitVec 11) (i8 : BitVec 8) (x inv : Bool) (a d : GReg)
    (p : Reg8) (s : State) (pc : Word), pc = s.th.pc →
    (s.stream = none ∨ s.co.flight = some s.cur.1) →
    let jumps (i : Instr) (t : Word) : Prop := canIssue i s = true → gives i s (s.setTh (s.th.jump t))
    jumps (.br i25) (pc + i25.signExtend 64 * 2) ∧
    jumps (.cBr i11) (pc + i11.signExtend 64 * 2) ∧
    (canIssue (.jal i25) s = true →
      gives (.jal i25) s (s.setTh ((s.th.putG 1 (pc + 4)).jump (pc + i25.signExtend 64 * 2)))) ∧
    ((s.th.pv p ^^ inv) = true → jumps (.brp i19 inv p) (pc + i19.signExtend 64 * 2)) ∧
    ((s.th.pv p ^^ inv) = false → canIssue (.brp i19 inv p) s = true → gives (.brp i19 inv p) s (s.advance 4)) ∧
    (s.th.pv p = true → jumps (.cBrp i8 p) (pc + i8.signExtend 64 * 2)) ∧
    (s.th.pv p = false → canIssue (.cBrp i8 p) s = true → gives (.cBrp i8 p) s (s.advance 2)) ∧
    (bitOf (s.rg a + i12.signExtend 64) 0 = false → canIssue (.jalr i12 x a d) s = true →
      gives (.jalr i12 x a d) s (s.setTh ((s.th.putG d (pc + 4)).jump (s.rg a + i12.signExtend 64)))) ∧
    (bitOf (s.rg a + i12.signExtend 64) 0 = true → canIssue (.jalr i12 x a d) s = true →
      gives (.jalr i12 x a d) s (s.trap 0x04 (s.rg a + i12.signExtend 64) 0)) ∧
    (bitOf (s.rg 1) 0 = false → jumps .cRet (s.rg 1)) ∧
    (bitOf (s.rg 1) 0 = true → canIssue .cRet s = true → gives .cRet s (s.trap 0x04 (s.rg 1) 0 2))

/-- FRAME of the scalar instructions: when one has its own effect, only its g destination, its predicate or x register, and
the pc change; FPFLAGS, STATUS and every other system register, the m registers, every other thread, every message and every
byte of memory are as before (R128, R129). -/
def Obligations.ScalarFrame : Prop :=
  ∀ (i : Instr) (s : State), scalarForm i = true → canIssue i s = true → ∃ t, exec i s = .next t ∧
    onlyThread s t ∧ t.th.rest = s.th.rest ∧ t.th.fpflags = s.th.fpflags ∧ keepsRegs (dstsOf i) s t ∧
    t.th.m = s.th.m ∧ (∀ n : Reg8, predOf i ≠ some n → t.th.pv n = s.th.pv n) ∧
    (∀ n : Reg8, (∀ x a, i ≠ .xset x a n) → t.th.xv n = s.th.xv n) ∧ keepsMemory s t ∧
    t.th.pc = s.th.pc + word (lengthOf i)

/-! ### Vectors (R109 to R122, R143 to R153) -/

/-- Rounding of an exact magnitude m / 2^d to an integer in each mode, and its inexact mark (R115): the operation under every
floating result and every conversion. -/
def Obligations.RoundingModes : Prop :=
  ∀ (rm : Rounding) (neg : Bool) (m d : Nat),
    roundsTo rm neg m d (roundNat rm neg m d).1 ∧ ((roundNat rm neg m d).2 = true ↔ ¬ 2 ^ d ∣ m)

/-- The lane-wise floating instructions (R117, R143, R145, R146): an active lane of v[D] receives the result of its operands,
rounded once in FPFLAGS.RM (R116), an inactive lane keeps its value, and the flags of the active lanes join FPFLAGS (R120). Of VUN,
a NaN gives the canonical NaN, ABS and NEG clear and invert the sign bit, and the six functions give the special results of R146; any
other result is rounded to bf16 to nearest even and then written in the lane's format. RCP, SQRT and RSQ round the exact value: what
is rounded is that value where its last bit is 0, and else an odd multiple that shares the open interval between its even neighbours
with it, of 21 bits or more, so that bf16's 8 bits come out alike. EXP2 of an integer and LOG2 of a power of two are exact, and EXP2
beyond 512 overflows or underflows. EXP2, LOG2 and TANH elsewhere round the model's own value `vunVal` (log entry 9). -/
def Obligations.FloatVectorResults : Prop :=
  ∀ (m : Reg8) (b a d : VReg) (k : FType) (f : VFn) (s : State) (ft : Fmt), ft = FType.fmt k →
    let w := ft.width
    let rm := s.th.rm
    let x j := lane (s.rv a) w j
    let y j := lane (s.rv b) w j
    let z j := lane (s.rv d) w j
    let result (i : Instr) (g : Nat → Nat × Flags) : Prop := canIssue i s = true → ∃ l fl,
      gives i s ((s.setTh ((s.th.putV d l).raise fl)).advance 4) ∧
      lanesAre l w (fun j => if bitOf (s.th.mv m) j then (g j).1 % 2 ^ w else z j) ∧
      flagsOf (s.th.mv m) (512 / w) (fun j => (g j).2) fl
    result (.vaddFp m b a d k) (fun j => ft.finish rm ((ft.val (x j)).add rm (ft.val (y j)))) ∧
    result (.vsubFp m b a d k) (fun j => ft.finish rm ((ft.val (x j)).add rm (ft.val (y j)).neg)) ∧
    result (.vmulFp m b a d k) (fun j => ft.finish rm ((ft.val (x j)).mul (ft.val (y j)))) ∧
    result (.vfmaFp m b a d k) (fun j => ft.finish rm (FVal.fma rm (ft.val (x j)) (ft.val (y j)) (ft.val (z j)))) ∧
    result (.vfnmaFp m b a d k) (fun j => ft.finish rm (FVal.fma rm (ft.val (x j)).neg (ft.val (y j)) (ft.val (z j)))) ∧
    result (.vminFp m b a d k) (fun j => (ft.minmax false (x j) (y j), 0)) ∧
    result (.vmaxFp m b a d k) (fun j => (ft.minmax true (x j) (y j), 0)) ∧
    result (.vun m f a d k) (fun j => vunLane ft f (x j)) ∧
    ∀ code < 2 ^ w,
      let v := ft.val code
      let c := vunLane ft f code
      let zero (n : Bool) : Nat × Flags := (ft.code n 0, 0)
      let one (n : Bool) : Nat × Flags := (ft.code n (ft.bias * 2 ^ ft.m), 0)
      let inf (n : Bool) : Nat × Flags := (ft.code n (ft.inf.getD 0), 0)
      let invalid : Nat × Flags := (ft.canon, Flags.invalid)
      let written (y : Nat × Flags) : Nat × Flags :=
        if ft = Fmt.bf16 then y else ((ft.round .rne (Fmt.bf16.val y.1)).1, y.2 ||| (ft.round .rne (Fmt.bf16.val y.1)).2)
      (v = .nan → c = (ft.canon, 0)) ∧
      (v ≠ .nan → (f = .abs → c = (code % 2 ^ (w - 1), 0)) ∧ (f = .neg → c = ((code + 2 ^ (w - 1)) % 2 ^ w, 0))) ∧
      (∀ n, v = .inf n → (f = .exp2 → c = if n then zero false else inf false) ∧
        (f = .log2 ∨ f = .sqrt → c = if n then invalid else inf false) ∧ (f = .rsq → c = if n then invalid else zero false) ∧
        (f = .rcp → c = zero n) ∧ (f = .tanh → c = one n)) ∧
      (∀ n e, v = .fin n 0 e → (f = .exp2 → c = one false) ∧ (f = .log2 → c = inf true) ∧ (f = .rcp ∨ f = .rsq → c = inf n) ∧
        (f = .sqrt ∨ f = .tanh → c = zero n)) ∧
      (∀ m e, v = .fin true m e → m ≠ 0 → f = .log2 ∨ f = .rsq ∨ f = .sqrt → c = invalid) ∧
      (f ≠ .abs → f ≠ .neg → c = written (Fmt.bf16.finish .rne (vunVal f v))) ∧
      (∀ n m e, v = .fin n m e → m ≠ 0 →
        let u : Rat := m * 2 ^ e
        let near (g : Rat → Rat) (aim : Rat) : Prop := ∃ (q : Nat) (z : Int), 2 ^ 20 ≤ q ∧
          c = written (Fmt.bf16.round .rne (.fin n q z)) ∧ (q % 2 = 0 → g (q * 2 ^ z) = aim) ∧
          (q % 2 = 1 → g ((q - 1) * 2 ^ z) < aim ∧ aim < g ((q + 1) * 2 ^ z))
        (f = .rcp → near (fun y => u * y) 1) ∧
        (f = .sqrt → n = false → near (fun y => y * y) u) ∧
        (f = .rsq → n = false → near (fun y => u * (y * y)) 1) ∧
        (∀ j : Nat, f = .exp2 → u = j → j < 512 →
          c = written (Fmt.bf16.round .rne (.fin false 1 (if n then -(j : Int) else j)))) ∧
        (f = .exp2 → 512 ≤ u → c = written (if n then (0, Flags.underflow ||| Flags.inexact)
          else (0x7F80, Flags.overflow ||| Flags.inexact))) ∧
        (∀ j : Int, f = .log2 → n = false → u = 2 ^ j →
          c = written (Fmt.bf16.round .rne (.fin (decide (j < 0)) j.natAbs 0))))

/-- VCMP writes the mask of the active lanes for which the condition holds, every other bit 0; VSEL takes a lane from v[A]
where the mask is 1 and from v[B] elsewhere (R147, R148, R152). VMOV broadcasts, gets and sets a lane whose index is taken modulo
the number of lanes, permutes, and copies (R78, R153). -/
def Obligations.VectorCompareSelectMove : Prop :=
  (∀ (m n : Reg8) (b a d : VReg) (k : FType) (ki : IType) (fc : FCond) (c : Cond) (s : State) (w wi : Nat),
     w = (FType.fmt k).width → wi = IType.width ki →
     let v (r : VReg) (w j : Nat) := lane (s.rv r) w j
     let compares (i : Instr) (w : Nat) (holds : Nat → Bool) : Prop := canIssue i s = true → ∃ r,
       gives i s ((s.setTh (s.th.putM n r)).advance 4) ∧
       ∀ j < 64, bitOf r j = (decide (j < 512 / w) && bitOf (s.th.mv m) j && holds j)
     let selects (i : Instr) (w : Nat) : Prop := canIssue i s = true → ∃ l,
       gives i s ((s.wv d l).advance 4) ∧ lanesAre l w (fun j => if bitOf (s.th.mv m) j then v a w j else v b w j)
     compares (.vcmpFp m b a fc n k) w
       (fun j => fcondTrue fc ((FType.fmt k).val (v a w j)) ((FType.fmt k).val (v b w j))) ∧
     compares (.vcmpInt m b a c n ki) wi
       (fun j => condTrue c (BitVec.ofNat wi (v a wi j)) (BitVec.ofNat wi (v b wi j))) ∧
     selects (.vselFp m b a d k) w ∧ selects (.vselInt m b a d ki) wi) ∧
  (∀ (z : Size) (y x : Bool) (gb ga gd : GReg) (vb va vd : VReg) (s : State) (w n : Nat), w = 8 * sizeBytes z → n = 512 / w →
     (canIssue (.vbc z x ga vd) s = true → ∃ l, gives (.vbc z x ga vd) s ((s.wv vd l).advance 4) ∧
       lanesAre l w (fun _ => (s.rg ga).toNat % 2 ^ w)) ∧
     (canIssue (.vget z y gb va gd) s = true →
       gives (.vget z y gb va gd) s ((s.wg gd (word (lane (s.rv va) w ((s.rg gb).toNat % n)))).advance 4)) ∧
     (canIssue (.vset z y x gb ga vd) s = true → ∃ l, gives (.vset z y x gb ga vd) s ((s.wv vd l).advance 4) ∧
       lanesAre l w (fun j => if j = (s.rg gb).toNat % n then (s.rg ga).toNat % 2 ^ w else lane (s.rv vd) w j)) ∧
     (canIssue (.vperm z vb va vd) s = true → ∃ l, gives (.vperm z vb va vd) s ((s.wv vd l).advance 4) ∧
       lanesAre l w (fun j => lane (s.rv va) w (lane (s.rv vb) w j % n))) ∧
     (canIssue (.vcopy va vd) s = true → gives (.vcopy va vd) s ((s.wv vd (s.rv va)).advance 4)))

/-- VRED sums the active lanes of v[A] in a tree of neighbours, each sum rounded; lane 0 of v[D] is its root, +0 when no lane
is active, and every other lane is +0 (R149). VCVT converts the lanes that both types have; an active one of these receives the
converted bits, an inactive one keeps its bits, and every lane of the target beyond them becomes 0 (R118, R119, R150). -/
def Obligations.VectorReduceConvert : Prop :=
  (∀ (m : Reg8) (a d : VReg) (k : FType) (s : State) (ft : Fmt), ft = FType.fmt k → canIssue (.vred m a d k) s = true →
     let w := ft.width
     let root := treeNode ft s.th.rm (fun j => if bitOf (s.th.mv m) j then some (lane (s.rv a) w j) else none)
       (Nat.log2 (512 / w)) 0
     ∃ l, gives (.vred m a d k) s ((s.setTh ((s.th.putV d l).raise root.2)).advance 4) ∧
       lanesAre l w (fun j => if j = 0 then root.1.getD 0 % 2 ^ w else 0)) ∧
  (∀ (m : Reg8) (r : Rounding) (c : TyCode) (a d : VReg) (k : FType) (s : State) (ft : Fmt), ft = FType.fmt k →
     canIssue (.vcvt m r c a d k) s = true →
     let wt := targetWidth c
     let n := min (512 / ft.width) (512 / wt)
     let res j := cvtCode ft c r (lane (s.rv a) ft.width j)
     ∃ l fl, gives (.vcvt m r c a d k) s ((s.setTh ((s.th.putV d l).raise fl)).advance 4) ∧
       lanesAre l wt (fun j => if j < n then (if bitOf (s.th.mv m) j then (res j).1 % 2 ^ wt else lane (s.rv d) wt j) else 0) ∧
       flagsOf (s.th.mv m) n (fun j => (res j).2) fl)

/-- The integer vector instructions (R143, R152): an active lane receives the value of the table, an inactive one keeps its
value, and no flag is raised. -/
def Obligations.IntegerVectorResults : Prop :=
  ∀ (m : Reg8) (b a d : VReg) (k : IType) (s : State) (w : Nat), w = IType.width k →
    let result (i : Instr) (g : BitVec w → BitVec w → BitVec w → BitVec w) : Prop := canIssue i s = true → ∃ l,
      gives i s ((s.wv d l).advance 4) ∧
      lanesAre l w (fun j => if bitOf (s.th.mv m) j then
          (g (BitVec.ofNat w (lane (s.rv a) w j)) (BitVec.ofNat w (lane (s.rv b) w j))
            (BitVec.ofNat w (lane (s.rv d) w j))).toNat
        else lane (s.rv d) w j)
    result (.vaddInt m b a d k) (fun x y _ => x + y) ∧
    result (.vsubInt m b a d k) (fun x y _ => x - y) ∧
    result (.vmulInt m b a d k) (fun x y _ => x * y) ∧
    result (.vmac m b a d k) (fun x y z => z + x * y) ∧
    result (.vminInt m b a d k) (fun x y _ => if x.toInt < y.toInt then x else y) ∧
    result (.vmaxInt m b a d k) (fun x y _ => if x.toInt > y.toInt then x else y) ∧
    result (.vminn m b a d k) (fun x y _ => if x < y then x else y) ∧
    result (.vmaxn m b a d k) (fun x y _ => if x > y then x else y) ∧
    result (.vand m b a d k) (fun x y _ => x &&& y) ∧
    result (.vor m b a d k) (fun x y _ => x ||| y) ∧
    result (.vxor m b a d k) (fun x y _ => x ^^^ y) ∧
    result (.vshl m b a d k) (fun x y _ => x <<< (y.toNat % w)) ∧
    result (.vshr m b a d k) (fun x y _ => x >>> (y.toNat % w)) ∧
    result (.vsha m b a d k) (fun x y _ => x.sshiftRight (y.toNat % w))

/-- FRAME of the vector instructions: only the destination, the mask register of a VCMP, the flags of the instructions that
raise flags, and the pc change; a flag that was set stays set, and FPFLAGS.RM is kept. -/
def Obligations.VectorFrame : Prop :=
  ∀ (i : Instr) (s : State), vectorForm i = true → canIssue i s = true → ∃ t, exec i s = .next t ∧
    onlyThread s t ∧ t.th.rest = s.th.rest ∧ keepsRegs (dstsOf i) s t ∧ t.th.p = s.th.p ∧ t.th.x = s.th.x ∧
    (∀ n : Reg8, maskOf i ≠ some n → t.th.mv n = s.th.mv n) ∧
    (raisesFlags i = false → t.th.fpflags = s.th.fpflags) ∧
    (∀ n, bitOf t.th.fpflags n = true ↔ bitOf s.th.fpflags n = true ∨ (n < 5 ∧ bitOf t.th.fpflags n = true)) ∧
    keepsMemory s t ∧ t.th.pc = s.th.pc + 4

/-! ### Threads and streams (R298 to R323) -/

/-- YIELD passes the thread over until the other runnable slots, which it notes, have been offered a cycle, for fewer than 2N cycles; a
thread that is alone loses no turn (R301). The rotation gives a cycle to the first slot after the last one that had a turn that is
eligible and does not yield it, and to none when there is none; a slot is eligible when it lies in the partition, is not slot 0 of a
core in a flight, has something to issue or a trap to take, and has not issued in the three cycles before (R298). WAITG, WAITV and WAITK
complete while their register is full and park until it is; WFI completes while a pending interrupt is not masked and parks until one
is (R301, R359). A thread parked so may issue again exactly when what it waits for has come. -/
def Obligations.WaitingInstructions : Prop :=
  ∀ (a : GReg) (v : VReg) (k : Reg8) (s : State),
    let completes (i : Instr) (ready : Prop) (why : Park) : Prop := canIssue i s = true →
      (ready → gives i s (s.advance 4)) ∧ (¬ ready → gives i s (s.setTh { s.th with life := .parked why }))
    let passes : State := s.setTh { s.th with yielded := some (s.co.cycle.toNat,
      (List.range 16).filter fun u => u != s.cur.2 && s.inTurn s.cur.1 u) }
    (canIssue .yield s = true → gives .yield s (passes.advance 4)) ∧
    (canIssue .cMiscYield s = true → gives .cMiscYield s (passes.advance 2)) ∧
    (∀ c u n others offered, (s.thread c u).yielded = some (n, others) →
      (s.yields c u offered = true ↔ ((s.coreAt c).cycle - word n).toNat < 2 * Part.slots (s.coreAt c).part ∧
        ∃ o ∈ others, o ∉ offered ∧ s.inTurn c o = true)) ∧
    (∀ c u offered, (s.thread c u).yielded = none → s.yields c u offered = false) ∧
    (∀ c, let slot j := ((s.coreAt c).ptr + j) % 16
      let takes j : Prop := s.eligible c (slot j) = true ∧ s.yields c (slot j) ((List.range j).map slot) = false
      (∀ j < 16, takes j → (∀ i < j, ¬ takes i) → (s.chosen c).1 = some (slot j)) ∧
      ((∀ j < 16, ¬ takes j) → (s.chosen c).1 = none)) ∧
    (∀ c u, (s.eligible c u = true ↔ s.inTurn c u = true ∧
        ∀ n, tget? (s.coreAt c).issued u = some n → 4 ≤ ((s.coreAt c).cycle - word n).toNat) ∧
      (s.inTurn c u = true ↔ u < Part.slots (s.coreAt c).part ∧ (u = 0 → (s.coreAt c).flight = none) ∧
        (s.ready c u = true ∨ (s.thread c u).owed ≠ none ∧ (s.thread c u).wait = none ∧ (s.thread c u).held = false)) ∧
      ∀ n before i, ((s.turnOver c u n before i).coreAt c).ptr = (u + 1) % 16) ∧
    completes (.waitg a) (s.th.gs a = .full) (.awaitReg .g a) ∧
    completes (.waitv v) (s.th.vs v = .full) (.awaitReg .v v) ∧
    completes (.waitk k) (s.co.ks k = .full) (.awaitReg .k k) ∧
    completes .wfi (s.th.intpend &&& s.th.intmask ≠ 0) .wfi ∧
    ∀ c u n, (s.thread c u).held = false → (s.thread c u).deferred = [] →
      ((s.thread c u).life = .parked (.awaitReg .g n) → (s.ready c u = true ↔ (s.thread c u).gs n = .full)) ∧
      ((s.thread c u).life = .parked (.awaitReg .v n) → (s.ready c u = true ↔ (s.thread c u).vs n = .full)) ∧
      ((s.thread c u).life = .parked (.awaitReg .k n) → (s.ready c u = true ↔ (s.coreAt c).ks n = .full)) ∧
      ((s.thread c u).life = .parked .wfi → (s.ready c u = true ↔ (s.thread c u).intpend &&& (s.thread c u).intmask ≠ 0))

/-- KPUT empties k[D] at issue, for every thread of the core, and moves on; a later cycle of the core writes g[A] there and fills
it, and KGET writes g[D] := k[A] (R302). Nothing else changes but the pc and the WATCH traps that the transitions post. How many
cycles the write-back takes is a free value (log entry 10). -/
def Obligations.SharedRegisters : Prop :=
  (∀ (x : Bool) (a : GReg) (d : Reg8) (ra : Reg8) (rd : GReg) (s : State),
    (canIssue (.kput x a d) s = true → ∃ t w, exec (.kput x a d) s = .next t ∧
      { t with cores := s.cores, txn := s.txn } = s ∧ (∀ c, c ≠ s.cur.1 → t.coreAt c = s.coreAt c) ∧
      { t.co with threads := s.co.threads, kst := s.co.kst } = { s.co with kw := s.co.kw ++ [w] } ∧
      w.num = d.val ∧ w.slot = s.cur.2 ∧ w.val = s.rg a ∧ 0 < w.left ∧
      (∀ u, u ≠ s.cur.2 → t.thread s.cur.1 u = s.thread s.cur.1 u) ∧
      { t.th with deferred := s.th.deferred } = { s.th with pc := s.th.pc + 4 } ∧
      t.co.ks d = .pending (s.txn + 1) .kwrite 0 ∧ ∀ n : Reg8, n ≠ d → t.co.ks n = s.co.ks n) ∧
    (canIssue (.kget x ra rd) s = true → gives (.kget x ra rd) s ((s.wg rd (s.co.kv ra)).advance 4))) ∧
  ∀ (s : State) (c : Nat) (w : KWrite), (s.coreAt c).kw = [w] →
    (w.left ≤ 1 → let t := s.tick c
      (t.coreAt c).kw = [] ∧ (t.coreAt c).kv w.num = w.val ∧ (t.coreAt c).ks w.num = .full ∧
      (∀ n, n ≠ w.num → (t.coreAt c).kv n = (s.coreAt c).kv n ∧ (t.coreAt c).ks n = (s.coreAt c).ks n) ∧ t.mem = s.mem ∧
      (t.coreAt c).cycle = (s.coreAt c).cycle + 1) ∧
    (1 < w.left → let t := s.tick c
      (t.coreAt c).kw = [{ w with left := w.left - 1 }] ∧ (∀ n, (t.coreAt c).ks n = (s.coreAt c).ks n))

/-- TEXIT in both forms (R305): with the condition of a release at .pod the slot ceases to be live, its accesses in flight are
discarded with it, and its running bind record takes STATE 2 (R334), one in another state staying as it is (log entry 114); without it
the thread parks for it. No other thread and no memory
changes. TSPAWN (R304): an odd address traps; with no free slot, or in stop bath, g[D] becomes −1; otherwise the lowest slot that
is not live, and not slot 0 of a core in a flight, starts at g[A] with g1 to g5 and the context of the issuing thread, every other register 0 and full, and g[D] is its
number. -/
def Obligations.ThreadsEndAndStart : Prop :=
  (∀ (s : State) (i : Instr) (l : Nat), i = .texit ∨ i = .cMiscTexit → canIssue i s = true → s.th.launch = some l →
     (s.bind s.cur.1 s.cur.2).valid = true → (s.bind s.cur.1 s.cur.2).launch = l →
     (relReady .pod s.th.outs = true → ∃ t, gives i s t ∧ t.th.life = .notLive ∧ t.th.outs = [] ∧ t.th.wait = none ∧
       t.bind s.cur.1 s.cur.2 = (if (s.bind s.cur.1 s.cur.2).state = 1 then { s.bind s.cur.1 s.cur.2 with state := 2, cause := 0 }
         else s.bind s.cur.1 s.cur.2) ∧
       (∀ c u, (c, u) ≠ s.cur → t.thread c u = s.thread c u) ∧ t.mem = s.mem ∧ t.net = s.net ∧
       (∀ c, (t.coreAt c).spm = (s.coreAt c).spm ∧ (t.coreAt c).mq = (s.coreAt c).mq ∧ (t.coreAt c).cq = (s.coreAt c).cq)) ∧
     (relReady .pod s.th.outs = false → gives i s (s.setTh { s.th with life := .parked (.order .pod) }))) ∧
  (∀ (y x : Bool) (b a d : GReg) (s : State), canIssue (.tspawn y x b a d) s = true → s.th.live = true →
     let free (u : Nat) : Prop := (s.thread s.cur.1 u).live = false ∧ (u = 0 → s.co.flight = none)
     (bitOf (s.rg a) 0 = true → gives (.tspawn y x b a d) s (s.trap 0x04 (s.rg a) 0)) ∧
     (bitOf (s.rg a) 0 = false → (s.co.bath = true ∨ ∀ u < Part.slots s.co.part, ¬ free u) →
       gives (.tspawn y x b a d) s ((s.wg d (BitVec.allOnes 64)).advance 4)) ∧
     ∀ n, bitOf (s.rg a) 0 = false → s.co.bath = false → n < Part.slots s.co.part → free n → (∀ u < n, ¬ free u) →
       ∃ t, gives (.tspawn y x b a d) s t ∧ t.th = { s.th.putG d (word n) with pc := s.th.pc + 4 } ∧
         (∀ c u, (c, u) ≠ s.cur → (c, u) ≠ (s.cur.1, n) → t.thread c u = s.thread c u) ∧
         let w := t.thread s.cur.1 n
         w.life = .runnable ∧ w.pc = s.rg a ∧ w.gv 1 = 0x01FFFFFFFFFFF000 ∧ w.gv 2 = s.rg b ∧ w.gv 3 = word n ∧
         w.gv 4 = s.th.rank ∧ w.gv 5 = s.th.count ∧ (∀ r, 5 < r → w.gv r = 0) ∧ (∀ r, w.gs r = .full) ∧
         (∀ r, w.vv r = 0 ∧ w.vs r = .full) ∧ (∀ r, r ≠ 0 → w.pv r = false ∧ w.mv r = 0) ∧ (∀ r, w.xv r = 0) ∧
         w.smode = s.th.smode ∧ bitOf w.status 1 = false ∧ bitOf w.status 2 = false ∧ w.asid = s.th.asid ∧
         w.ptbase = s.th.ptbase ∧ w.meshwin = s.th.meshwin ∧ w.trapvec = s.th.trapvec ∧ w.intmask = s.th.intmask ∧
         w.rm = s.th.rm ∧ fld w.fpflags 0 5 = 0 ∧ w.trapsave = 0 ∧ w.trappc = 0 ∧ w.trapcause = 0 ∧ w.trapval = 0 ∧
         w.trapval2 = 0 ∧ w.intpend = 0 ∧ w.brk = [] ∧ w.wch = [] ∧ w.launch = s.th.launch)

/-- TNEXT sends its request to the distributor and parks for the answer (R306, R338); REPART, with no stop bath in progress, ends
its thread's issue and puts its core into stop bath for the partition it names (R307). A TNEXT of a thread of no launch answers
−1, which is the model's choice (log entry 11); so is that a REPART which finds its core in stop bath parks, without effect, until
the stop bath is over (log entry 129). -/
def Obligations.TnextRepart : Prop :=
  ∀ (d : GReg) (q : Part) (s : State),
    (canIssue (.tnext d) s = true →
      (s.th.launch = none → gives (.tnext d) s ((s.wg d (BitVec.allOnes 64)).advance 4)) ∧
      ∀ l, s.th.launch = some l → ∃ t, gives (.tnext d) s t ∧
        t.net = s.net ++ [⟨.core s.cur.1, .dispatch, .tnext ⟨s.devnum, s.cur.1, s.cur.2, s.txn + 1⟩ l⟩] ∧
        t.th = { s.th with life := .parked .reply, wait := t.th.wait } ∧
        t.th.wait.map (fun w => (w.id, w.dst)) = some (s.txn + 1, .g d 8 false) ∧ t.mem = s.mem) ∧
    (canIssue (.repart q) s = true → s.co.bath = false → ∃ t, gives (.repart q) s t ∧
      t.th = { s.th with life := .parked .drain } ∧ t.co.repart = some (s.cur.2, q) ∧ t.co.part = s.co.part) ∧
    (canIssue (.repart q) s = true → s.co.bath = true → gives (.repart q) s (s.setTh { s.th with life := .parked .repart }))

/-- STRM.LEAD, STRM.JOIN, STRM.END and STRM.POS (R308 to R310, R320, R321, R323): a leader's request goes to every other core of
a shape that lies within its die, and its thread parks; a join accepts the first request that waits and that its core does not
refuse; the end of a stream leaves the flight, a joiner at its resume address and the leader parked; STRM.POS writes the core's place
in the flight with width tag 00, or 0; and where the rules do not hold, STREAMFAULT with its reason. That the tag of STRM.POS is 00
beside a value whose tag R59 computes otherwise follows R323, as R10 lets an instruction's own description decide (log entry 2). -/
def Obligations.StreamInstructions : Prop :=
  ∀ (x : Bool) (a d : GReg) (s : State) (c : Nat), c = s.cur.1 →
    (canIssue (.strmLead x a) s = true →
      (s.cur.2 ≠ 0 → gives (.strmLead x a) s (s.trap 0x13 0 1)) ∧
      (s.cur.2 = 0 → fld (s.rg a) 0 5 < 2 → gives (.strmLead x a) s (s.trap 0x13 (s.rg a) 2)) ∧
      ∀ w h lim, s.cur.2 = 0 → s.rg a = word (w + h * 2 ^ 8 + lim * 2 ^ 16) → 2 ≤ w → 1 ≤ h → lim ≤ 40 →
        c % 16 + w ≤ 16 → c / 32 % 12 + h ≤ 12 → tget? s.flights c = none → ∃ t f, gives (.strmLead x a) s t ∧
          tget? t.flights c = some f ∧ f.w = w ∧ f.h = h ∧ f.formed = false ∧ f.accepted = [c] ∧
          f.deadline = (if lim = 0 then 0 else s.time.toNat + 2 ^ lim) ∧ t.th = { s.th with life := .parked .lead } ∧
          ∀ n, (∃ i j, i < w ∧ j < h ∧ n = c + 32 * j + i) → n ≠ c → ⟨.core c, .core n, .join c⟩ ∈ t.net) ∧
    (canIssue .strmJoin s = true →
      (s.cur.2 ≠ 0 → gives .strmJoin s (s.trap 0x13 0 1)) ∧
      (s.cur.2 = 0 → s.co.joins = [] → gives .strmJoin s (s.setTh { s.th with life := .parked .join })) ∧
      (∀ l, s.cur.2 = 0 → s.co.joins = [l] → s.th.live = true → s.th.asid ≠ (s.thread l 0).asid →
        gives .strmJoin s (s.setTh { s.th with life := .parked .join })) ∧
      ∀ l rest f, s.cur.2 = 0 → s.co.joins = l :: rest → l ∉ rest → s.liveCore c = true → s.co.flight = none →
        s.th.asid = (s.thread l 0).asid → tget? s.flights l = some f → ∃ t, gives .strmJoin s t ∧
        t.th = { s.th with life := .parked .join } ∧ t.co.joins = rest ∧
        tget? t.flights l = some { f with accepted := insertNat c f.accepted, resume := tset c (s.th.pc + 4) f.resume }) ∧
    (canIssue .strmEnd s = true →
      (s.stream = none ∨ s.co.flight = none → gives .strmEnd s (s.trap 0x13 0 8)) ∧
      ∀ l f, s.stream ≠ none → s.co.flight = some l → tget? s.flights l = some f → ∃ t, gives .strmEnd s t ∧
        t.co.flight = none ∧ bitOf t.co.spos 63 = false ∧
        (tget? t.flights l).map (fun g => g.left) = some (insertNat c f.left) ∧
        (l ≠ c → t.th.pc = tget f.resume c 0 ∧ t.th.life = s.th.life) ∧
        (l = c → t.th.pc = s.th.pc + 4 ∧ t.th.life = .parked .streamEnd)) ∧
    (canIssue (.strmPos d) s = true → ∃ (w : Word) (t : State), gives (.strmPos d) s t ∧ onlyThread s t ∧
      t.th = { (s.th.putG d w).setTag00 d with pc := s.th.pc + 4 } ∧ t.th.tag d = 0 ∧
      (bitOf s.co.spos 63 = false → w = 0) ∧
      (bitOf s.co.spos 63 = true → fld w 0 8 = fld s.co.spos 36 4 ∧ fld w 8 8 = fld s.co.spos 40 4 ∧
        fld w 16 8 = fld s.co.spos 36 4 + fld s.co.spos 40 4 ∧ fld w 24 8 = fld s.co.spos 48 5 ∧
        fld w 32 8 = fld s.co.spos 44 4 ∧ fld w 40 24 = 0))

/-! ### System registers (R350, R356) -/

/-- SRD writes g[D] := the register that R350 gives a number, and SPEEDRD the speed-table entry that g[A] names, 0 beyond the
summary (R30, R356). Field i of GROUPS holds the core's group that stands i-th in increasing number, with its valid bit, and 0
beyond them (R341). -/
def Obligations.SystemReads : Prop :=
  ∀ (h l : Fin 64) (x : Bool) (a d : GReg) (s : State) (n : Nat), n = h.val * 64 + l.val →
    let t := s.th
    let k := s.co
    let reads (r : Nat) (w : Word) : Prop :=
      n = r → canIssue (.srd h l d) s = true → gives (.srd h l d) s ((s.wg d w).advance 4)
    reads 0x000 (word s.cur.2) ∧ reads 0x001 (word s.cur.1) ∧ reads 0x002 (word s.devnum) ∧
    reads 0x003 (match k.part with | .p16 => 0 | .p8 => 1 | .p4 => 2) ∧ reads 0x004 t.status ∧
    reads 0x005 (t.asid.setWidth 64) ∧ reads 0x006 t.ptbase ∧ reads 0x007 t.meshwin ∧ reads 0x008 (word k.ways) ∧
    reads 0x009 (s.groupsReg s.cur.1) ∧ (∀ i < 4, fld (s.groupsReg s.cur.1) (16 * i) 16 =
      (((List.range 256).filter fun g => bitOf (tget s.groups g 0) s.cur.1)[i]?.map fun g => 2 ^ 15 + g).getD 0) ∧ reads 0x00A k.spos ∧ reads 0x010 t.trapvec ∧ reads 0x011 t.trappc ∧
    reads 0x012 t.trapcause ∧ reads 0x013 t.trapval ∧ reads 0x014 t.trapval2 ∧ reads 0x015 t.trapsave ∧
    reads 0x016 t.intpend ∧ reads 0x017 t.intmask ∧ reads 0x018 t.fpflags ∧ reads 0x020 s.time ∧ reads 0x021 k.cycle ∧
    reads 0x022 ((s.speed.getD s.cur.1 0).setWidth 64) ∧ reads 0x023 (s.freqReg s.cur.1) ∧ reads 0x030 (word k.quota) ∧
    reads 0x031 (word (k.refused * 2 ^ 32 + (k.l1.filter fun e => e.2.pm).length)) ∧
    (∀ i, 1 ≤ i → i ≤ 3 → reads (0x040 + i) (word (t.outs.filter fun o => o.cls == i).length)) ∧ reads 0x050 k.merrlog ∧
    (∀ i < 4, reads (0x060 + i) (tget t.brk i 0) ∧ reads (0x064 + i) (tget t.wch i 0)) ∧
    (canIssue (.speedrd x a d) s = true → gives (.speedrd x a d) s
      ((s.wg d (if (s.rg a).toNat ≤ 768 then (s.speed.getD (s.rg a).toNat 0).setWidth 64 else 0)).advance 4))

/-- SWR (R356, and R120, R247, R351, R367, R376, R397, R398 for the layouts): RW fields are written, W1C bits written as 1 are cleared, RO fields
keep their value, and nothing else changes but the pc; a value with a reserved bit set or out of range traps with ILLEGAL and
writes nothing. Stated for every writable register, with the fields of its layout and the ranges that the spec gives; of TRAPCAUSE the
codes of R83 are stated, and what becomes of others is the model's choice (log entry 126). -/
def Obligations.SystemWrites : Prop :=
  ∀ (h l : Fin 64) (d : GReg) (s : State) (n : Nat) (v : Word), n = h.val * 64 + l.val → v = s.rg d →
    let t := s.th
    let writes (r : Nat) (i : Instr) (s' : State) : Prop :=
      n = r → canIssue i s = true → sysLegal r v = true → gives i s (s'.advance 4)
    let swr (r : Nat) (t' : Thread) : Prop := writes r (.swr h l d) (s.setTh t')
    let core (r : Nat) (i : Instr) (k : Core) : Prop := writes r i (s.setCore s.cur.1 k)
    swr 0x004 { t with
      status := (v &&& 6) ||| (t.status &&& 1)
      late := if bitOf t.status 2 = true ∧ bitOf v 2 = false then t.deferred.length else t.late } ∧ swr 0x005 { t with asid := v.setWidth 16 } ∧
    swr 0x006 { t with ptbase := v } ∧ swr 0x007 { t with meshwin := v } ∧ swr 0x010 { t with trapvec := v } ∧
    swr 0x011 { t with trappc := v } ∧ swr 0x012 { t with trapcause := v } ∧ swr 0x013 { t with trapval := v } ∧
    swr 0x014 { t with trapval2 := v } ∧ swr 0x015 { t with trapsave := v } ∧ swr 0x017 { t with intmask := v } ∧
    swr 0x018 { t with fpflags := v } ∧ (∀ j < 4, swr (0x060 + j) { t with brk := tset j v t.brk } ∧
      swr (0x064 + j) { t with wch := tset j v t.wch }) ∧
    writes 0x016 (.swrIntpend d) (s.setTh { t with intpend := t.intpend &&& ~~~v }) ∧
    core 0x030 (.swrPshq d) { s.co with quota := v.toNat } ∧
    core 0x031 (.swrPshcnt d) { s.co with refused := fld v 32 16 } ∧
    core 0x050 (.swrMerrlog d) { s.co with merrlog := v } ∧
    (canIssue (.swr h l d) s = true → sysLegal n v = false →
      gives (.swr h l d) s (s.trap 0x01 (word (wordOf (.swr h l d))) 4)) ∧
    (∀ i r, (i, r) ∈ [(Instr.swrIntpend d, 0x016), (.swrPshq d, 0x030), (.swrPshcnt d, 0x031), (.swrMerrlog d, 0x050)] →
      canIssue i s = true → sysLegal r v = false → gives i s (s.trap 0x01 (word (wordOf i)) 4)) ∧
    (let fields (r : Nat) (mask : Word) (range : Prop) : Prop := sysLegal r v = true ↔ v &&& ~~~mask = 0 ∧ range
     fields 0x004 0x7 True ∧ fields 0x005 0xFFFF True ∧ fields 0x006 0x003FFFFFFFFE0000 True ∧
     fields 0x007 0x800000001F1F1F1F (fld v 24 5 ≤ 23) ∧ fields 0x010 0x01FFFFFFFFFFFFFE True ∧
     fields 0x011 0xFFFFFFFFFFFFFFFE True ∧ (∀ r, r = 0x013 ∨ r = 0x014 ∨ r = 0x015 → sysLegal r v = true) ∧
     fields 0x016 0x7 True ∧ fields 0x017 0x7 True ∧ fields 0x018 0x31F True ∧ (sysLegal 0x030 v = true ↔ v.toNat ≤ 8192) ∧
     fields 0x031 0x0000FFFF00003FFF True ∧ fields 0x050 0xFC00FFFF001FFFFF True ∧
     (v &&& ~~~(0x3FF : Word) ≠ 0 → sysLegal 0x012 v = false) ∧
     (v &&& ~~~(0x3FF : Word) = 0 → 1 ≤ fld v 0 8 → fld v 0 8 ≤ 0x15 → sysLegal 0x012 v = true) ∧
     ∀ j < 4, fields (0x060 + j) 0xC1FFFFFFFFFFFFFF (fld v 62 2 ≠ 3) ∧
       fields (0x064 + j) 0xF9FFFFFFFFFFFFF8 (fld v 61 2 ≠ 3 ∧ (fld v 61 2 = 2 → fld v 9 2 ≠ 3 ∧ fld v 11 46 = 0)))

/-! ### Memory instructions (R188 to R243) -/

/-- A load whose bytes lie in the own scratchpad completes at once: the value is sign-extended by LD, zero-extended by LDN and
whole for VLD, C.LD loads a doubleword, XLD fills x0 to x7, and VLDS and VGATH gather eight doublewords (R84, R140, R234,
R235). -/
def Obligations.LoadResults : Prop :=
  ∀ (o : BitVec 6) (z : Size) (e : Order) (w : Fin 4) (y x : Bool) (a b d : GReg) (vb vd : VReg) (oc cb : Fin 8) (cx : Fin 32)
    (s : State) (off n : Nat) (offs : List Nat), n = sizeBytes z →
    let va := s.rg a + o.signExtend 64 * word n
    let value (i : Instr) (va : Word) (size : Nat) (ord : AccOrder) (t : State) : Prop :=
      ownAccess s va size size { r := true } (.load size) false ord off → ownClean s off size → canIssue i s = true →
      gives i s t
    let gathers (i : Instr) (es : List Word) : Prop :=
      ownElements s es offs { r := true } (.load 8) w → (∀ f ∈ offs, ownClean s f 8) → canIssue i s = true →
      ∃ l, gives i s ((s.newId.wv vd l).advance 4) ∧ lanesAre l 64 (fun j => mnum s.co.spm (offs.getD j 0) 8)
    value (.ld o z e w x a d) va n ⟨e, none, w⟩
      ((s.wg d ((BitVec.ofNat (8 * n) (mnum s.co.spm off n)).signExtend 64)).advance 4) ∧
    value (.ldn o z e w x a d) va n ⟨e, none, w⟩
      ((s.wg d ((BitVec.ofNat (8 * n) (mnum s.co.spm off n)).setWidth 64)).advance 4) ∧
    value (.cLd oc cb cx) (s.rg (gBase cb) + word (8 * oc.val)) 8 {}
      ((s.wg (g32 cx) (word (mnum s.co.spm off 8))).advance 2) ∧
    value (.vld o e w x a vd) (s.rg a + o.signExtend 64 * 64) 64 ⟨e, none, w⟩
      ((s.wv vd (BitVec.ofNat 512 (mnum s.co.spm off 64))).advance 4) ∧
    (ownAccess s (s.rg a) 64 64 { r := true } (.load 64) false {} off → ownClean s off 64 → canIssue (.xld x a) s = true →
      ∃ r, gives (.xld x a) s ((s.setTh { s.th with x := r }).advance 4) ∧
        ∀ j < 8, tget r j 0 = word (mnum s.co.spm (off + 8 * j) 8)) ∧
    gathers (.vlds w y x b a vd) ((List.range 8).map fun j => s.rg a + word j * s.rg b) ∧
    gathers (.vgath w x vb a vd) ((List.range 8).map fun j => s.rg a + lineWord (s.rv vb) j)

/-- A store to the own scratchpad, with its FRAME: the bytes stored hold the value, every other byte of memory reads as before,
poison is cleared in the words that are wholly covered and in no other (R377), and nothing else changes but the pc. C.ST
stores a doubleword and CZERO 64 zero bytes (R84, R234, R242). The memory is in its canonical form, which every step keeps
(StepKeepsMemoriesCanonical). -/
def Obligations.StoreResults : Prop :=
  ∀ (o : BitVec 6) (z : Size) (e : Order) (w : Fin 4) (x : Bool) (a d : GReg) (vd : VReg) (oc cb : Fin 8) (cx : Fin 32)
    (s : State) (off n : Nat), n = sizeBytes z → mwf s.co.spm = true →
    let stores (i : Instr) (va : Word) (size v : Nat) (toHome : Bool) (ord : AccOrder) : Prop :=
      ownAccess s va size size { w := true } (.store size 0) toHome ord off → canIssue i s = true →
      ∃ t, gives i s t ∧ t.th = { s.th with pc := s.th.pc + word (lengthOf i) } ∧
        mnum t.co.spm off size = v % 2 ^ (8 * size) ∧ keepsMemoryBut off size s t ∧ onlyThreadAndScratch s t ∧
        ∀ q, q ∈ t.co.spmBad ↔ q ∈ s.co.spmBad ∧ ¬ (off ≤ 8 * q ∧ 8 * q + 8 ≤ off + size)
    stores (.st o z e w x a d) (s.rg a + o.signExtend 64 * word n) n (s.rg d).toNat false ⟨e, none, w⟩ ∧
    stores (.vst o e w x a vd) (s.rg a + o.signExtend 64 * 64) 64 (s.rv vd).toNat false ⟨e, none, w⟩ ∧
    stores (.cSt oc cb cx) (s.rg (gBase cb) + word (8 * oc.val)) 8 (s.rg (g32 cx)).toNat false {} ∧
    stores (.czero x a) (s.rg a) 64 0 true {}

/-- VSTS and VSCAT store element j of v[D] at address j, a later element over an earlier one at the same address; every byte
outside the eight doublewords reads as before (R235). -/
def Obligations.ScatterResults : Prop :=
  ∀ (w : Fin 4) (y x : Bool) (a b : GReg) (vb vd : VReg) (s : State) (offs : List Nat), mwf s.co.spm = true →
    let stores (i : Instr) (es : List Word) : Prop :=
      ownElements s es offs { w := true } (.store 8 0) w → canIssue i s = true →
      ∃ t, gives i s t ∧ t.th = { s.th with pc := s.th.pc + 4 } ∧ onlyThreadAndScratch s t ∧
        (∀ j < 8, (∀ k < 8, j < k → offs.getD k 0 ≠ offs.getD j 0) →
          mnum t.co.spm (offs.getD j 0) 8 = lane (s.rv vd) 64 j) ∧
        (∀ q, q ∈ t.co.spmBad → q ∈ s.co.spmBad) ∧ (∀ q, mread t.mem q = mread s.mem q) ∧
        ∀ q, (∀ f ∈ offs, q < f ∨ f + 8 ≤ q) → mread t.co.spm q = mread s.co.spm q
    stores (.vsts w y x b a vd) ((List.range 8).map fun j => s.rg a + word j * s.rg b) ∧
    stores (.vscat w x vb a vd) ((List.range 8).map fun j => s.rg a + lineWord (s.rv vb) j)

/-- The eight atomics on a doubleword of the own scratchpad (R236), with their FRAME: g[D] receives the old value, the
doubleword the new one, ACAS stores only where the old value equals x0, and nothing else changes but the pc. -/
def Obligations.AtomicResults : Prop :=
  ∀ (e : Order) (sc : Scope) (t : Bool) (b a d : GReg) (s : State) (off : Nat) (old q : Word),
    mwf s.co.spm = true → old = word (mnum s.co.spm off 8) → q = s.rg b →
    let atomic (i : Instr) (op : AtomOp) (new : Word) : Prop :=
      ownAccess s (s.rg a) 8 8 { r := true, w := true } (.atomic op q (s.th.xv 0)) (sc != .core) ⟨e, some sc, 0⟩ off →
      ownClean s off 8 → canIssue i s = true →
      ∃ t, gives i s t ∧ t.th = { s.th.putG d old with pc := s.th.pc + 4 } ∧ mnum t.co.spm off 8 = new.toNat ∧
        keepsMemoryBut off 8 s t ∧ onlyThreadAndScratch s t ∧ t.co.spmBad = s.co.spmBad
    atomic (.aadd e sc t b a d) .add (old + q) ∧ atomic (.aand e sc t b a d) .and (old &&& q) ∧
    atomic (.aor e sc t b a d) .or (old ||| q) ∧ atomic (.axor e sc t b a d) .xor (old ^^^ q) ∧
    atomic (.amin e sc t b a d) .min (if old.toInt < q.toInt then old else q) ∧
    atomic (.amax e sc t b a d) .max (if old.toInt > q.toInt then old else q) ∧
    atomic (.aswap e sc t b a d) .swap q ∧
    atomic (.acas e sc t b a d) .cas (if old = s.th.xv 0 then q else old)

/-- The checks of an access in their order (R231): an address that is not aligned traps with MISALIGN; then a mesh address that
the issuing core rejects with MESHFAULT reason 0 (R193), or bits 62:57 of a global one with PFLOAD or PFSTORE reason 4 (R188,
R355); then permissions of the page (R349), those of the exit page being the model's choice that it can only be executed (R336, log
entry 112); a page that the TLB does not hold parks the thread for the walk (R366); and a poisoned word of the own scratchpad traps
with UNCORR (R378). -/
def Obligations.AccessChecks : Prop :=
  ∀ (o : BitVec 6) (z : Size) (e : Order) (w : Fin 4) (x : Bool) (sc : Scope) (a b d : GReg) (vd : VReg) (s : State) (n : Nat)
    (va : Word), n = sizeBytes z → va = s.rg a + o.signExtend 64 * word n →
    let ld := Instr.ld o z e w x a d
    let st := Instr.st o z e w x a d
    let traps (i : Instr) (cause : Nat) (v1 v2 : Word) : Prop := canIssue i s = true → gives i s (s.trap cause v1 v2)
    let global : Prop := va.toNat % n = 0 ∧ isMesh va = false
    (va.toNat % n ≠ 0 → traps ld 0x04 va 0 ∧ traps (.ldn o z e w x a d) 0x04 va 0 ∧ traps st 0x04 va 0) ∧
    ((s.rg a).toNat % 8 ≠ 0 → traps (.aadd e sc x b a d) 0x04 (s.rg a) 0 ∧ traps (.acas e sc x b a d) 0x04 (s.rg a) 0) ∧
    ((s.rg a).toNat % 64 ≠ 0 → traps (.xld x a) 0x04 (s.rg a) 0 ∧ traps (.czero x a) 0x04 (s.rg a) 0 ∧
      traps (.pst x e sc x b a vd) 0x04 (s.rg a) 0) ∧
    (va.toNat % n = 0 → isMesh va = true → s.meshCheck s.cur.1 s.th.meshwin va n = none →
      traps ld 0x08 va 0 ∧ traps st 0x08 va 0) ∧
    (global → fld va 57 6 ≠ 0 → traps ld 0x05 va 4 ∧ traps st 0x06 va 4) ∧
    (global → fld va 57 6 = 0 → va.toNat / 4096 = 0x01FFFFFFFFFFF000 / 4096 →
      traps ld 0x05 va (pfVal2 2 1) ∧ traps st 0x06 va (pfVal2 2 1)) ∧
    (∀ p, global → fld va 57 6 = 0 → onExitPage va = false → (s.co.tlb.find? fun p => p.maps s.th.asid.toNat va.toNat) = some p →
      ((p.u = false ∧ s.th.smode = false) →
        traps ld 0x05 va (pfVal2 3 (levelOf p.bits)) ∧ traps st 0x06 va (pfVal2 3 (levelOf p.bits))) ∧
      ((p.u = true ∨ s.th.smode = true) → p.r = false → traps ld 0x05 va (pfVal2 2 (levelOf p.bits))) ∧
      ((p.u = true ∨ s.th.smode = true) → p.w = false → traps st 0x06 va (pfVal2 2 (levelOf p.bits)))) ∧
    (global → fld va 57 6 = 0 → onExitPage va = false → (s.co.tlb.find? fun p => p.maps s.th.asid.toNat va.toNat) = none →
      (canIssue ld s = true → gives ld s (s.setTh { s.th with
        life := .parked .walk, walk := some ⟨va, true, false, false, false, 4, none⟩ })) ∧
      (canIssue st s = true → gives st s (s.setTh { s.th with
        life := .parked .walk, walk := some ⟨va, false, true, false, false, 4, none⟩ }))) ∧
    ∀ off q, ownAccess s va n n { r := true } (.load n) false ⟨e, none, w⟩ off →
      (s.co.spmBad.find? fun q => decide (8 * q < off + n ∧ off < 8 * q + 8)) = some q →
      traps ld 0x12 (word (va.toNat / 64 * 64 + 8 * q % 64)) (word (0x18 * 256 + 1))

/-- Loads and stores of a page that the L1 caches (R197, R224, R246): a hit is performed at once, a load from M, O, E or S and a
store in M or E, which becomes M; either clears PM. A load that misses opens IS and asks the home for the line, leaves its
destination empty and lets the thread go on (R54, R224). A store that misses opens IM and asks for the line alone, one in S opens SM
and asks for the upgrade; either waits at the line, counts in class 2, and its thread goes on (R210, R224). Loads and stores of another core's scratchpad go out on the mesh (R194,
R197, R210): the request carries the thread's number, the destination of a load is empty until the value arrives, and a store
counts in class 1. -/
def Obligations.CachedAndMeshAccesses : Prop :=
  (∀ (o : BitVec 6) (z : Size) (e : Order) (w : Fin 4) (x : Bool) (a d : GReg) (s : State) (n pa : Nat) (p : TlbEnt) (va : Word),
     n = sizeBytes z → va = s.rg a + o.signExtend 64 * word n → paDev pa = s.devnum → p.sync = false → p.nc = false →
     s.podGone.contains s.devnum = false →
     let ld := Instr.ld o z e w x a d
     let st := Instr.st o z e w x a d
     let line := paOff pa / 64
     let reaches (k : Need) (acc : Access) (bit : Nat) : Prop := s.check s.actx va n n k = .ok (.glob p pa) ∧
       s.th.watchHit 0 bit va n = none ∧ s.gate [.glob p pa] acc false ⟨e, none, w⟩ = none
     (∀ l : L1Line, reaches { r := true } (.load n) 59 → tget? s.co.l1 line = some l →
       l.via = p.via s.th.asid.toNat → l.waits = [] → (l.st = .mod ∨ l.st = .own ∨ l.st = .exc ∨ l.st = .shr) → (touched (paOff pa % 64) n).all (fun q =>
         !bitOf l.lv.bad q) = true → canIssue ld s = true → ∃ t, gives ld s t ∧
         t.th = { s.th.putG d ((BitVec.ofNat (8 * n) (lineNum l.lv.data (paOff pa % 64) n)).signExtend 64) with
           pc := s.th.pc + 4 } ∧
         tget? t.co.l1 line = some { l with pm := false } ∧ t.mem = s.mem ∧ t.net = s.net) ∧
     (∀ l : L1Line, reaches { w := true } (.store n 0) 60 → tget? s.co.l1 line = some l →
       l.via = p.via s.th.asid.toNat → l.waits = [] → (l.st = .mod ∨ l.st = .exc) → canIssue st s = true → ∃ t l', gives st s t ∧
         t.th = { s.th with pc := s.th.pc + 4 } ∧ tget? t.co.l1 line = some l' ∧ l'.st = .mod ∧ l'.pm = false ∧
         l'.lv.data = linePut l.lv.data (paOff pa % 64) n (s.rg d).toNat ∧ t.mem = s.mem ∧ t.net = s.net) ∧
     (reaches { r := true } (.load n) 59 → tget? s.co.l1 line = none → canIssue ld s = true → ∃ t, gives ld s t ∧
       t.net = s.net ++ [⟨.core s.cur.1, .slice (homeSlice (line * 64) false),
         .home ⟨⟨s.devnum, s.cur.1, s.cur.2, s.txn + 1⟩, s.th.asid.toNat, line, p.priv, false, .read⟩⟩] ∧
       (tget? t.co.l1 line).map (fun l => (l.st, l.via)) = some (.is, p.via s.th.asid.toNat) ∧
       (d ≠ 0 → t.th.gs d = .pending (s.txn + 1) .load va) ∧ t.th.pc = s.th.pc + 4 ∧ t.th.life = s.th.life ∧ t.mem = s.mem) ∧
     (let waiting : L1Acc := ⟨s.cur.2, s.txn + 1, paOff pa % 64, .store n ((s.rg d).setWidth 512), p.via s.th.asid.toNat⟩
      let asks (t : State) (st : L1St) (priv : Bool) (k : HomeKind) (ws : List L1Acc) : Prop :=
        t.net = s.net ++ [⟨.core s.cur.1, .slice (homeSlice (line * 64) false),
          .home ⟨⟨s.devnum, s.cur.1, s.cur.2, s.txn + 1⟩, s.th.asid.toNat, line, priv, false, k⟩⟩] ∧
        (tget? t.co.l1 line).map (fun l => (l.st, l.via, l.pm, l.waits)) = some (st, p.via s.th.asid.toNat, false, ws ++ [waiting]) ∧
        t.th.pc = s.th.pc + 4 ∧ t.th.life = s.th.life ∧ t.th.wcnt 2 = s.th.wcnt 2 + 1 ∧ t.mem = s.mem
      reaches { w := true } (.store n 0) 60 → canIssue st s = true →
      (tget? s.co.l1 line = none → ∃ t, gives st s t ∧ asks t .im p.priv .readEx []) ∧
      ∀ l : L1Line, tget? s.co.l1 line = some l → l.via = p.via s.th.asid.toNat → l.st = .shr →
        ∃ t, gives st s t ∧ asks t .sm false .upgrade l.waits)) ∧
  (∀ (o : BitVec 6) (z : Size) (e : Order) (w : Fin 4) (x : Bool) (a d : GReg) (s : State) (n c off : Nat) (va : Word),
     n = sizeBytes z → va = s.rg a + o.signExtend 64 * word n → s.podGone.contains s.devnum = false →
     let ld := Instr.ld o z e w x a d
     let st := Instr.st o z e w x a d
     let me : Who := ⟨s.devnum, s.cur.1, s.cur.2, s.txn + 1⟩
     (s.check s.actx va n n { r := true } = .ok (.mesh c off) → s.gate [.mesh c off] (.load n) false ⟨e, none, w⟩ = none →
       canIssue ld s = true → ∃ t, gives ld s t ∧
         t.net = s.net ++ [⟨.core s.cur.1, .core c, .mesh me off (.load n)⟩] ∧ t.th.pc = s.th.pc + 4 ∧
         (d ≠ 0 → t.th.gs d = .pending (s.txn + 1) .load va) ∧ t.mem = s.mem) ∧
     (s.check s.actx va n n { w := true } = .ok (.mesh c off) → s.gate [.mesh c off] (.store n 0) false ⟨e, none, w⟩ = none →
       canIssue st s = true → ∃ t, gives st s t ∧
         t.net = s.net ++ [⟨.core s.cur.1, .core c, .mesh me off (.store n ((s.rg d).setWidth 512))⟩] ∧
         t.th.pc = s.th.pc + 4 ∧ t.th.wcnt 1 = s.th.wcnt 1 + 1 ∧ t.mem = s.mem))

/-- RPUT in its three forms (R248, R249): the value goes to the neighbour's or the named core's register under the thread's
number, a neighbour beyond the edge traps with MESHFAULT, and the arm form empties the own register until a delivery comes.
Stated outside a stream and for targets on the own device. -/
def Obligations.RputForms : Prop :=
  ∀ (c y x : Bool) (r : Dir) (b dn : Fin 64) (a : GReg) (s : State) (n : Nat), s.stream = none →
    s.th.acqReady = true → valuesReady s.th.outs = true → s.th.wcnt 1 < 4095 →
    let value : Line := if c then s.rv b else (s.rg b).setWidth 512
    let me : Who := ⟨s.devnum, s.cur.1, s.cur.2, s.txn + 1⟩
    let sends (i : Instr) (va : Word) (slot : Nat) : Prop := canIssue i s = true → ∃ t, gives i s t ∧
      t.net = s.net ++ [⟨.core s.cur.1, .core n, .rput me slot c dn value none⟩] ∧
      t.th = { s.th with
        pc := s.th.pc + 4
        outs := s.th.outs ++ [⟨s.txn + 1, 1, false, va, 0x16, .none, noLine, .mesh n, s.th.asid.toNat⟩] } ∧ t.mem = s.mem
    (neighbour s.cur.1 r = some n → s.present n = true →
      inWindow s.th.meshwin s.devnum s.devnum (n % 32) (n / 32) = true →
      sends (.rput c r y b dn) (neighbourAddr r s.cur.2) s.cur.2) ∧
    (neighbour s.cur.1 r = none → canIssue (.rput c r y b dn) s = true →
      gives (.rput c r y b dn) s (s.trap 0x08 (neighbourAddr r s.cur.2) 0)) ∧
    (∀ off, isMesh (s.rg a) = true → meshTarget s.devnum s.cur.1 (s.rg a) = some (s.devnum, n % 32, n / 32, off) → off < 16 →
      inWindow s.th.meshwin s.devnum s.devnum (n % 32) (n / 32) = true → s.routeOk s.cur.1 n = true →
      s.podGone.contains s.devnum = false → sends (.rputM c y x b a dn) (s.rg a) off) ∧
    (canIssue (.rputArm c dn) s = true →
      gives (.rputArm c dn) s ((s.setTh (if c then s.th.markV dn .armed else s.th.markG dn .armed)).advance 4))

/-- Fences, counts and line instructions (R206, R207, R211, R238 to R241, R243, R244): a fence that releases waits for the
condition of R205 and one that acquires holds the next access for every load before it; WAITC waits until its counts are 0;
CFLUSH asks the home of a shared line that an L1 may hold to flush it; CINV writes a dirty line back or drops a clean one; PREF opens a transient
state, but parks while the page is reclassified (R229), and one whose walk has failed does no more (R241); SPCFG puts its core into stop bath, and more than 6 ways is illegal; PST sends its line to the home as a push. On an
address that no L1 holds a line for, CFLUSH, CINV and PREF only move on. -/
def Obligations.OrderingAndLines : Prop :=
  ∀ (sc : Scope) (fk : FenceKind) (m : Fin 8) (x wr : Bool) (e : Order) (a b : GReg) (vd : VReg) (s : State) (p : TlbEnt)
    (pa line : Nat) (va : Word), va = s.rg a → line = paOff pa / 64 →
    let asid := s.th.asid.toNat
    let me : Who := ⟨s.devnum, s.cur.1, s.cur.2, s.txn + 1⟩
    let home (who : Who) (k : HomeKind) : Msg :=
      ⟨.core s.cur.1, .slice (homeSlice (line * 64) false), .home ⟨who, asid, line, false, false, k⟩⟩
    let shared (need : Need) (size : Nat) : Prop := s.placeOf s.actx va size need = .ok (.glob p pa) ∧ paDev pa = s.devnum ∧
      p.sync = false ∧ p.nc = false ∧ p.priv = false
    let unwatched (bit : Nat) (at_ : Word) : Prop := s.th.watchHit 0 bit at_ 64 = none
    let lineAddr := word (va.toNat / 64 * 64)
    (canIssue (.fence sc fk) s = true → (fk = .acq ∨ relReady sc s.th.outs = true) → gives (.fence sc fk) s
      ((if fk = .rel then s else s.setTh { s.th with
        acq := s.th.acq ++ (s.th.outs.filter (·.value)).map fun o => (o.id, sc) }).advance 4)) ∧
    (canIssue (.fence sc fk) s = true → fk ≠ .acq → relReady sc s.th.outs = false →
      gives (.fence sc fk) s (s.setTh { s.th with life := .parked (.order sc) })) ∧
    (canIssue (.waitc m) s = true →
      ((∀ j < 3, m.val.testBit j = true → s.th.wcnt (j + 1) = 0) → gives (.waitc m) s (s.advance 4)) ∧
      ((∃ j < 3, m.val.testBit j = true ∧ s.th.wcnt (j + 1) ≠ 0) →
        gives (.waitc m) s (s.setTh { s.th with life := .parked (.count m) }))) ∧
    (∀ off, s.placeOf s.actx va 1 { r := true } = .ok (.own off) →
      (canIssue (.cflush x a) s = true → gives (.cflush x a) s (s.advance 4)) ∧
      (canIssue (.cinv x a) s = true → gives (.cinv x a) s (s.advance 4))) ∧
    (shared { r := true } 1 → unwatched 59 lineAddr → s.gate [.glob p pa] (.load 1) true {} = none →
      (∀ k ∈ s.cores, tget? k.2.l1 line = none) → (∀ m ∈ s.net, m.body.concerns line = false) →
      canIssue (.cflush x a) s = true → gives (.cflush x a) s (s.advance 4)) ∧
    (shared { r := true } 1 → unwatched 59 lineAddr → s.gate [.glob p pa] (.load 1) true {} = none → s.th.wcnt 2 < 4095 →
      s.lineAway line = true → canIssue (.cflush x a) s = true → ∃ t, gives (.cflush x a) s t ∧ t.net = s.net ++ [home me .flush] ∧
        t.th = { s.th with pc := s.th.pc + 4, outs := s.th.outs ++ [⟨s.txn + 1, 2, false, va, 0x20, .none, line, .home, asid⟩] }) ∧
    (∀ l, shared { r := true } 1 → unwatched 59 lineAddr → tget? s.co.l1 line = some l → canIssue (.cinv x a) s = true →
      (l.st = .shr → ∃ t, gives (.cinv x a) s t ∧ t.th = { s.th with pc := s.th.pc + 4 } ∧ tget? t.co.l1 line = none ∧
        t.net = s.net) ∧
      (l.st = .mod ∨ l.st = .own → ∃ t, gives (.cinv x a) s t ∧ t.th = { s.th with pc := s.th.pc + 4 } ∧
        tget? t.co.l1 line = some { l with st := .mi, pm := false } ∧ t.net = s.net ++
          [⟨.core s.cur.1, .slice (homeSlice (line * 64) false), .wb line l.via.asid l.via.priv l.lv⟩])) ∧
    (shared { r := true } 1 → tget? s.co.l1 line = none → s.th.dropped ≠ some s.th.pc →
      canIssue (.pref x a wr) s = true → ∃ t, gives (.pref x a wr) s t ∧ t.th = { s.th with pc := s.th.pc + 4 } ∧
        t.net = s.net ++ [home ⟨s.devnum, s.cur.1, 0, 0⟩ (if wr then .readEx else .read)] ∧
        (tget? t.co.l1 line).map (·.st) = some (if wr then .im else .is)) ∧
    (∀ pte, s.placeOf s.actx va 1 { r := true } = .ok (.glob p pa) → s.th.dropped ≠ some s.th.pc → s.reclaimHold s.cur.1 [.glob p pa] = some pte →
      canIssue (.pref x a wr) s = true → gives (.pref x a wr) s (s.park (.reclaim pte))) ∧
    (s.th.dropped = some s.th.pc → canIssue (.pref x a wr) s = true →
      gives (.pref x a wr) s ((s.setTh { s.th with dropped := none }).advance 4)) ∧
    (∀ c v1 v2, s.placeOf s.actx va 1 { r := true } = .trap c v1 v2 → s.th.dropped ≠ some s.th.pc → canIssue (.pref x a wr) s = true →
      gives (.pref x a wr) s (s.advance 4)) ∧
    (canIssue (.spcfg x a) s = true →
      (6 < (s.rg a).toNat → gives (.spcfg x a) s (s.trap 0x01 (word (wordOf (.spcfg x a))) 4)) ∧
      ((s.rg a).toNat ≤ 6 → s.co.spcfg = none → s.co.flight = none → ∃ t, gives (.spcfg x a) s t ∧
        t.th = { s.th with life := .parked .drain } ∧ t.co.spcfg = some (s.cur.2, (s.rg a).toNat) ∧ t.co.ways = s.co.ways)) ∧
    (va.toNat % 64 = 0 → isMesh va = false → shared { w := true } 64 → unwatched 60 va →
      s.gate [.glob p pa] (.store 64 (s.rv vd)) true ⟨e, some sc, 0⟩ = none → canIssue (.pst wr e sc x b a vd) s = true →
      ∃ t, gives (.pst wr e sc x b a vd) s t ∧ t.net = s.net ++ [home me (.push wr (s.rg b) (s.rv vd))] ∧
        t.th.pc = s.th.pc + 4 ∧ t.th.wcnt 2 = s.th.wcnt 2 + 1 ∧ t.mem = s.mem)

/-! ### Typed operations and barriers (R263 to R296) -/

/-- A typed operation sends its request to the SSP of its home slice and parks its thread for the reply; the destination of one
that has a result is empty until then (R267, R268, R271). CND.WAIT sends its lock's place on the page of its condition word, or that
it lies elsewhere (R288); that a misaligned lock address takes MISALIGN, and that pages are compared by virtual address, are the
model's choices (log entry 98). An operation that touches a line which a queued matrix command has still to access waits (R199). -/
def Obligations.TypedRequests : Prop :=
  ∀ (l : Lim) (u y x : Bool) (b a d : GReg) (vb vd : VReg) (k : ObjType) (tag : Fin 16) (all : Bool) (s : State) (pa : Nat)
    (va q : Word), va = s.rg a → q = s.rg b →
    let sends (i : Instr) (bit : Nat) (kind : TypedKind) (lim : Lim) (operand : Word) (data : Line)
        (dst : Option (RegClass × Nat)) : Prop :=
      let lines := s.typedLines s.th.asid.toNat kind pa operand 0
      (∀ id, typedAllowed s va pa (majOf i) bit → s.wordHold s.cur.1 lines = some id → canIssue i s = true →
        gives i s (s.park (.operand id))) ∧
      (typedReady s va pa (majOf i) bit lines → canIssue i s = true → ∃ t, gives i s t ∧
        t.net = s.net ++ [⟨.core s.cur.1, .slice (homeSlice (paOff pa) true),
          .typed ⟨.thread ⟨s.devnum, s.cur.1, s.cur.2, s.txn + 1⟩, kind, majOf i, pa, va, operand, 0, true, lim, data,
            s.th.asid.toNat⟩⟩] ∧
        t.th.life = .parked .reply ∧ t.th.pc = s.th.pc ∧ t.th.putBuf = data ∧ t.mem = s.mem ∧
        ∀ c n, dst = some (c, n) → (c, n) ≠ (.g, 0) → t.regSt c n = .pending (s.txn + 1) .typed va)
    let g := some (RegClass.g, d.val)
    sends (.ldsy l u a d) 59 .ldsy l 0 0 g ∧ sends (.stsy l u b a) 59 .stsy l q 0 none ∧
    sends (.cntAdd u b a) 60 .cntAdd (.wait 0) q 0 none ∧ sends (.cntFadd u b a d) 60 .cntFadd (.wait 0) q 0 g ∧
    sends (.cntWait l u b a d) 59 .cntWait l q 0 g ∧ sends (.barArr u a d) 60 .barArr (.wait 0) 0 0 g ∧
    sends (.barWait l u b a d) 59 .barWait l q 0 g ∧ sends (.barArw l u a d) 59 .barArw l 0 0 g ∧
    sends (.lckAcq l u a) 59 .lckAcq l 0 0 none ∧ sends (.lckRel u a) 60 .lckRel (.wait 0) 0 0 none ∧
    sends (.qPut l u vb a) 59 .qPut l 0 (s.rv vb) none ∧ sends (.qGet l u a vd) 59 .qGet l 0 0 (some (.v, vd.val)) ∧
    sends (.cndSig u a all) 60 (if all then .cndSigAll else .cndSigOne) (.wait 0) 0 0 none ∧
    sends (.tinit y x b a k) 60 (.tinit k) (.wait 0) q 0 none ∧ sends (.traw y x b a tag) 60 (.traw tag) (.wait 0) q 0 none ∧
    sends (.tclr x a) 60 .tclr (.wait 0) 0 0 none ∧
    (typedAllowed s va pa 0x2E 59 → q.toNat % 8 ≠ 0 → canIssue (.cndWait l u b a) s = true →
      gives (.cndWait l u b a) s (s.trap 0x04 q 0)) ∧
    ∀ lp ok, (if q.toNat / 4096 = va.toNat / 4096 then lp = pa / 4096 * 4096 + q.toNat % 4096 ∧ ok = true
        else lp = 0 ∧ ok = false) → q.toNat % 8 = 0 →
      typedReady s va pa 0x2E 59 (s.typedLines s.th.asid.toNat .cndWait pa q lp) → canIssue (.cndWait l u b a) s = true → ∃ t, gives (.cndWait l u b a) s t ∧ t.th.life = .parked .reply ∧ t.th.pc = s.th.pc ∧
        t.net = s.net ++ [⟨.core s.cur.1, .slice (homeSlice (paOff pa) true),
          .typed ⟨.thread ⟨s.devnum, s.cur.1, s.cur.2, s.txn + 1⟩, .cndWait, 0x2E, pa, va, q, lp, ok, l, 0,
            s.th.asid.toNat⟩⟩]

/-- NBAR (R294 to R296): a group beyond 255, or one of which the core is no live member, traps with OBJFAULT reason 8; a try
with other members traps with LIMIT; otherwise the thread parks with its destination empty and joins the NBARs of its group
at the core, and when it is the first of them and its release holds, its first notification goes to the member whose rank is the next. A notification of the round awaited ends
it, and the next round's notification goes out, or the NBAR is answered with the core and rank awaited longest; one that arrives
before its round is kept, and one of an episode that expired here is discarded (NBAR_NOTIFY). An NBAR past its limit traps, and its
core's part in the episode ends (NBAR_EXPIRY). -/
def Obligations.NetworkBarriers : Prop :=
  (∀ (l : Lim) (u : Bool) (a d : GReg) (s : State) (c grp : Nat) (ms : List Nat), c = s.cur.1 → grp = (s.rg a).toNat →
     ms = s.members grp → canIssue (.nbar l u a d) s = true →
     let rank := ms.findIdx (· == c)
     (255 < grp ∨ c ∉ ms → gives (.nbar l u a d) s (s.trap 0x0B (s.rg a) 8)) ∧
     (grp ≤ 255 → c ∈ ms → 1 < ms.length → l = .try → gives (.nbar l u a d) s
       (s.trap 0x0A (s.rg a) (word ((rank + ms.length - 1) % ms.length * 65536)))) ∧
     (grp ≤ 255 → c ∈ ms → l ≠ .try → (∀ o ∈ s.th.outs, o.id ≠ s.txn + 1) →
       (s.nbAt c grp).cur ≠ none ∨ (s.nbAt c grp).queue = [] ∧ relReady .dev s.th.outs = false →
       ∃ t, gives (.nbar l u a d) s t ∧ t.th.life = .parked .reply ∧ t.th.pc = s.th.pc ∧ t.net = s.net ∧
         (t.nbAt c grp).cur = (s.nbAt c grp).cur ∧
         (t.nbAt c grp).queue.map (fun q => (q.slot, q.id)) =
           (s.nbAt c grp).queue.map (fun q => (q.slot, q.id)) ++ [(s.cur.2, s.txn + 1)]) ∧
     (grp ≤ 255 → c ∈ ms → l ≠ .try → relReady .dev s.th.outs = true →
       (s.nbAt c grp).cur = none → (s.nbAt c grp).queue = [] → (s.nbAt c grp).kept = [] → 1 < ms.length →
       ∃ t, gives (.nbar l u a d) s t ∧ t.th.life = .parked .reply ∧ t.th.pc = s.th.pc ∧
         (d ≠ 0 → t.th.gs d = .pending (s.txn + 1) .nbar (s.rg a)) ∧
         t.net = s.net ++ [⟨.core c, .core (ms.getD ((rank + 1) % ms.length) 0), .nbar grp rank 0 (s.nbAt c grp).parity⟩])) ∧
  (∀ (s : State) (src : Node) (c u g : Nat) (rest : List Msg) (nb : NbGroup) (k : NbCur), c < 768 → u < 16 →
     nb = s.nbAt c g → nb.cur = some k → nb.queue = [] → nb.kept = [] →
     let n := k.members.length
     let awaited := (k.rank + n - 2 ^ k.round % n) % n
     (∀ rank parity, heads s src (.core c) (.nbar g rank k.round parity) rest → nb.drop = [] → 1 < n → k.round < nbRounds n →
       parity = nb.parity →
       let wait := s.time.toNat - k.start
       let best := match k.best with
         | none => (awaited, wait)
         | some b => if b.2 < wait then (awaited, wait) else b
       ∃ t, exec (.nbarNotify src (.core c)) s = .next t ∧ t.mem = s.mem ∧ (∀ v, t.thread c v = s.thread c v) ∧
         (k.round + 1 < nbRounds n →
           (t.nbAt c g).cur = some { k with round := k.round + 1, start := s.time.toNat, best := some best } ∧
           t.net = rest ++ [⟨.core c, .core (k.members.getD ((k.rank + 2 ^ (k.round + 1)) % n) 0), .nbar g k.rank (k.round + 1) parity⟩]) ∧
         (k.round + 1 = nbRounds n → (t.nbAt c g).cur = none ∧ (t.nbAt c g).parity = 1 - parity ∧
           t.net = rest ++ [⟨.core c, .core c, .reply k.slot k.id (.value
             ((word (k.members.getD best.1 0 * 2 ^ 54 + best.1 * 2 ^ 44 + min best.2 (2 ^ 44 - 1))).setWidth 512))⟩])) ∧
     (∀ rank round parity, heads s src (.core c) (.nbar g rank round parity) rest → nb.drop = [] → k.round < nbRounds n →
       round ≠ k.round ∨ parity ≠ nb.parity → ∃ t, exec (.nbarNotify src (.core c)) s = .next t ∧ t.net = rest ∧ t.mem = s.mem ∧
         t.nbAt c g = { nb with kept := [(parity, round, rank, s.time.toNat)] }) ∧
     (∀ rank round parity, heads s src (.core c) (.nbar g rank round parity) rest → nb.drop = [(parity, round)] →
       ∃ t, exec (.nbarNotify src (.core c)) s = .next t ∧ t.net = rest ∧ t.mem = s.mem ∧ t.nbAt c g = { nb with drop := [] }) ∧
     (∀ o w d th, (s.coreAt c).nb = [(g, nb)] → k.slot = u → k.deadline ≠ 0 → k.deadline ≤ s.time.toNat → th = s.thread c u →
       (th.outs.find? fun o => o.id == k.id) = some o → o.dst = .g d 8 false → th.wait = some w → w.id = k.id → w.kind = .nbar →
       o.id = k.id → direct th k.id (some o) → s.streams c u = false → handles th 0x0A →
       let v2 := word (awaited * 65536 + k.round)
       threadReply s c k.id (.trap 0x0A (word g) v2) → ∃ t, exec (.nbarExpiry c u) s = .next t ∧ t.mem = s.mem ∧ t.net = s.net ∧
         (t.nbAt c g).cur = none ∧ (t.nbAt c g).parity = 1 - nb.parity ∧
         inHandler th (t.thread c u) 0x0A (word g) v2 th.pc (w.len == 2)))

/-! ### Engine commands (R154 to R187, R251 to R262) -/

/-- CPY and CPYM enter the copy queue with the x registers as read at issue, leave g[D] empty for the status, and move on
(R178, R251, R252); a full queue parks them (R158), and so, by the model's choice (log entry 95), does an ACCLOAD that is queued
before a CPYM. A descriptor that is wrong traps with COPYFAULT and its reason (R262), and x6 that holds no follow-on with ILLEGAL
(R178), before the descriptor is checked: the model's choice (log entry 78). With SIG = 1, of the instruction or of its follow-on,
the counter in x3 passes the checks of a typed operation at issue (R417), and their failure is the trap. -/
def Obligations.CopyCommands : Prop :=
  ∀ (sc : Scope) (r q g : Bool) (d : GReg) (s : State) (desc : Desc),
    desc = descOf ((List.range 8).map fun i => (i, s.th.xv i)) →
    let regs := (List.range 8).map fun i => (i, s.th.xv i)
    let fits (sig : Bool) : Prop := desc.reason regs sig = none ∧ (s.firstByte desc.src { r := true }).isNone = true ∧
      (s.firstByte desc.dst { w := true }).isNone = true
    let status : Prop := s.th.xv 5 = 0 ∨ (s.firstByte (s.th.xv 5) { w := true }).isNone = true
    let counter (sig : Bool) (maj sp : Nat) : Prop :=
      (sig = true → s.typedCheck (s.th.xv 3) maj = .ok sp) ∧ (sig = false → sp = 0)
    let queued (i : Instr) (m : Bool) (bytes : Nat) (own : Nat × Nat) (lines : List Nat) (sp : Nat) : Prop := ∃ t,
      gives i s t ∧ t.co.cq = s.co.cq ++ [⟨s.txn + 1, wordOf i, s.mkCtx q r g sc sp, d, m, regs, bytes, own, lines, none⟩] ∧
      t.th = { s.th.markG d (.pending (s.txn + 1) .copy desc.dst) with pc := s.th.pc + 4 } ∧ t.mem = s.mem ∧ t.net = s.net
    let cpy := Instr.cpy g sc r q d
    let cpym := Instr.cpym g sc r q d
    (∀ sp, canIssue cpy s = true → fits g → counter g 0x32 sp → status →
      (s.co.cq.length < 32 → queued cpy false 0 (0, 0) [] sp) ∧ (32 ≤ s.co.cq.length → gives cpy s (s.park .copyFull))) ∧
    (∀ f rng sp, canIssue cpym s = true → s.co.loading = false → followOf (s.th.xv 6) (s.th.xv 7) = some f →
      fits (g || f.sig) → counter (g || f.sig) 0x33 sp → status →
      s.matrixRange (s.th.xv 7) (f.bytes s.co.depthAfter) { r := true } (match f.op with | .mwl .. => true | _ => false) = .ok rng →
      (s.co.cq.length < 32 → queued cpym true (f.bytes s.co.depthAfter) rng.own rng.lines sp) ∧
      (32 ≤ s.co.cq.length → gives cpym s (s.park .copyFull))) ∧
    (canIssue cpym s = true → s.co.loading = true → gives cpym s (s.park .accload)) ∧
    (canIssue cpym s = true → s.co.loading = false → followOf (s.th.xv 6) (s.th.xv 7) = none →
      gives cpym s (s.trap 0x01 (word (wordOf cpym)) 4)) ∧
    (∀ x why, desc.reason regs g = some (x, why) → canIssue cpy s = true → gives cpy s (s.trap 0x15 (word x) (word why))) ∧
    (∀ x why f, canIssue cpym s = true → s.co.loading = false → followOf (s.th.xv 6) (s.th.xv 7) = some f →
      desc.reason regs (g || f.sig) = some (x, why) → gives cpym s (s.trap 0x15 (word x) (word why))) ∧
    (∀ s', canIssue cpy s = true → fits g → g = true → s.typedCheck (s.th.xv 3) 0x32 = .error s' → gives cpy s s')

/-- The matrix instructions enter the matrix queue with their operation (R158, R159): MWL, MMA and the ACC instructions that
only change tiles let their thread go on, and ACCRD, ACCSAVE, ACCLOAD and MSTAT park it until the entry is performed. A full queue
parks each of them (R158), and so does an ACCLOAD in the queue (R160); the counter of MWL and MMA with SIG = 1 passes the checks of a
typed operation at issue (R417). ACCRD and ACCSAVE, whose stores are the thread's own, wait as a store does (R166, R202, R207) and count
in its destination classes from issue on (R210); that an ACCLOAD does not wait for an acquire is the model's choice (log entry 118). ACCCFG
of a live tile without DISCARD, ACCADD of unequal anchors and ACCLOAD into a live tile trap with ACCLIVE instead, and MMA of 0 or more
than 64 rows is illegal (R169, R170, R172, R174, R175). -/
def Obligations.MatrixCommands : Prop :=
  ∀ (sc : Scope) (r q g u y x k : Bool) (b a d : GReg) (f : TyCode) (n m : TileNo) (s : State) (rng : OpRange) (sp : Nat),
    let queued (i : Instr) (ctx : Ctx) (op : MatOp) (o : OpRange) (park : Bool) : Prop := canIssue i s = true →
      (s.co.loading = true → gives i s (s.park .accload)) ∧
      (s.co.loading = false → 16 ≤ s.co.mq.length → gives i s (s.park .matrixFull)) ∧
      (s.co.loading = false → s.co.mq.length < 16 → ∃ t e, gives i s t ∧
        t.co.mq = s.co.mq ++ [e] ∧ e.id = s.txn + 1 ∧ e.word = wordOf i ∧ e.op = op ∧ e.own = o.own ∧ e.lines = o.lines ∧
        e.writes = o.writes ∧ e.ctx = ctx ∧ t.co.tiles = s.co.tiles ∧ t.mem = s.mem ∧ t.net = s.net ∧
        let th := { s.th with outs := s.th.outs ++ s.storeOuts (s.txn + 1) o.writes }
        (if park then t.th = { th with life := .parked .reply, wait := t.th.wait } else t.th = { th with pc := s.th.pc + 4 }))
    let plain := s.mkCtx false false false .core 0
    let traps (i : Instr) (cause : Nat) (v1 v2 : Word) : Prop :=
      canIssue i s = true → s.co.loading = false → gives i s (s.trap cause v1 v2)
    let stores (i : Instr) (op : MatOp) : Prop :=
      (s.storesGate rng.writes = none → queued i plain op rng true) ∧
      (canIssue i s = true → s.co.loading = false → rng.writes ≠ [] → s.th.acqReady = false → gives i s (s.park .acquire)) ∧
      (canIssue i s = true → s.co.loading = false → rng.writes ≠ [] → s.th.acqReady = true → valuesReady s.th.outs = false →
        gives i s (s.park .values))
    let rows := (s.rg b).toNat
    let live (t : TileNo) := (s.co.tileAfter t).1
    let anchor (t : TileNo) := (s.co.tileAfter t).2
    let counter (maj : Nat) : Prop := (g = true → s.typedCheck (s.th.xv 3) maj = .ok sp) ∧ (g = false → sp = 0)
    let mwl := Instr.mwl g sc r q u a f
    let mma := Instr.mma g sc r q u b a f n
    let mwlRange : Prop := s.matrixRange (s.rg a) (tileBytes f) { r := true } true = .ok rng
    let mmaRange : Prop := 1 ≤ rows ∧ rows ≤ 64 ∧
      s.matrixRange (s.rg a) (rows * rowStride f s.co.depthAfter) { r := true } false = .ok rng
    (mwlRange → counter 0x34 → queued mwl (s.mkCtx q r g sc sp) (.mwl f (s.rg a)) rng false) ∧
    (∀ s', mwlRange → g = true → s.typedCheck (s.th.xv 3) 0x34 = .error s' → canIssue mwl s = true → s.co.loading = false →
      gives mwl s s') ∧
    (mmaRange → counter 0x35 → queued mma (s.mkCtx q r g sc sp) (.mma f n (s.rg a) rows) rng false) ∧
    (∀ s', mmaRange → g = true → s.typedCheck (s.th.xv 3) 0x35 = .error s' → canIssue mma s = true → s.co.loading = false →
      gives mma s s') ∧
    (rows = 0 ∨ 64 < rows → canIssue mma s = true → gives mma s (s.trap 0x01 (word (wordOf mma)) 4)) ∧
    (live n = false ∨ k = true → queued (.acccfg x a k n) plain (.acccfg n ((s.rg a).setWidth 10) k) {} false) ∧
    (live n = true → traps (.acccfg x a false n) 0x0C (word n) (word (anchor n).toNat)) ∧
    queued (.acczero n) plain (.acczero n) {} false ∧
    (anchor n = anchor m → queued (.accadd m n) plain (.accadd n m) {} false) ∧
    (anchor n ≠ anchor m → traps (.accadd m n) 0x0C (word n)
      (word (2 ^ 56 + (anchor m).toNat * 65536 + (anchor n).toNat))) ∧
    (s.rg b = 0 → queued (.accrd y x b a f n) plain (.accrd n f (s.rg a) 0 0) {} true) ∧
    (s.rg b ≠ 0 → s.writeRange (s.rg a) ((Nat.log2 rows + 1) * accRowBytes f) (fun i => bitOf (s.rg b) (64 * i / accRowBytes f)) = .ok rng →
      stores (.accrd y x b a f n) (.accrd n f (s.rg a) rows 0)) ∧
    (s.writeRange (s.rg a) 49216 (fun _ => true) = .ok rng → stores (.accsave x a n) (.accsave n (s.rg a))) ∧
    (live n = false → s.matrixRange (s.rg a) 49216 { r := true } true = .ok rng →
      queued (.accload x a n) plain (.accload n (s.rg a)) rng true) ∧
    (live n = true → traps (.accload x a n) 0x0C (word n) (word (anchor n).toNat)) ∧
    queued (.mstat x a d) plain (.mstat (fld (s.rg a) 0 4) (bitOf (s.rg a) 4) d) {} true

/-! ### Events: messages at a core (R21, R54, R194, R210, R232, R250, R300) -/

/-- A reply reaches the thread that made the request: a value fills the register that was pending under it and completes an
instruction that waited for it (RESULT_FILL; R54, R268); a poisoned value leaves the register empty and posts UNCORR (R378); a
trap is taken at the waiting instruction (R268); a rejection leaves the register empty and posts MESHFAULT (REJECTION; R232); an
access without a value leaves the counts (ACCESS_PERFORMED, PUSH_COMPLETE; R210, R215); a fetched line fills the fetch buffer
(FETCH_FILL; R43). A deferred trap is taken with TRAPPC at the next instruction, or at the one at which the thread is parked
(DEFERRED_TRAP; R232, R352), with C16 = 0 by the model's choice (log entry 26). The model's choice too (log entry 8): an instruction
that has issued is set aside then, an answer that comes for it fills the register that awaits it and is kept, and a thread that is back
at it after an ERET waits for it again, or is past it when its answer has come. -/
def Obligations.RepliesReachThreads : Prop :=
  ∀ (s : State) (src : Node) (c u id : Nat) (rest : List Msg) (o : Out) (th : Thread), th = s.thread c u → s.streams c u = false →
    (th.outs.find? fun o => o.id == id) = some o →
    let outs := th.outs.filter fun o => o.id != id
    let comes (i : Instr) (r : Result) (q : Thread → Prop) : Prop :=
      heads s src (.core c) (.reply u id r) rest → threadReply s c id r →
      ∃ t, exec i s = .next t ∧ t.net = rest ∧ t.mem = s.mem ∧ (∀ v, v ≠ u → t.thread c v = s.thread c v) ∧
        (t.thread c u).outs = outs ∧ q (t.thread c u)
    let arrives (i : Instr) (r : Result) (q : Thread → Prop) : Prop := direct th id (some o) → comes i r q
    let same (t : Thread) : Prop := { t with outs := th.outs } = th
    (∀ v d size sg a, o.dst = .g d size sg → d ≠ 0 → th.gs d = .pending id a o.va → th.wait = none →
      arrives (.resultFill src (.core c)) (.value v)
        (fun t => t.gv d = extend v.toNat size sg ∧ t.gs d = .full ∧ t.pc = th.pc ∧ t.life = th.life)) ∧
    (∀ v d a, o.dst = .v d → th.vs d = .pending id a o.va → th.wait = none →
      arrives (.resultFill src (.core c)) (.value v)
        (fun t => t.vv d = v ∧ t.vs d = .full ∧ t.pc = th.pc ∧ t.life = th.life)) ∧
    (∀ v d w a, o.dst = .g d 8 false → d ≠ 0 → th.gs d = .pending id a o.va → th.wait = some w → w.id = id →
      arrives (.resultFill src (.core c)) (.value v)
        (fun t => t.gv d = v.setWidth 64 ∧ t.gs d = .full ∧ t.pc = th.pc + word w.len ∧ t.life = .runnable ∧ t.wait = none)) ∧
    (∀ off d size sg a, o.dst = .g d size sg → d ≠ 0 → th.gs d = .pending id a o.va → th.wait = none →
      arrives (.resultFill src (.core c)) (.poison off)
        (fun t => t.gs d = .empty ∧ t.pc = th.pc ∧ t.deferred = th.deferred ++
          [⟨0x12, word (o.va.toNat / 64 * 64 + off), word (2 ^ 63 + o.maj * 256 + 1)⟩])) ∧
    (∀ cause v1 v2 w, o.dst = .none → th.wait = some w → w.id = id → w.kind = .typed → handles th cause →
      arrives (.resultFill src (.core c)) (.trap cause v1 v2) (fun t => inHandler th t cause v1 v2 th.pc (w.len == 2))) ∧
    (∀ n d size sg a, o.dst = .g d size sg → d ≠ 0 → th.gs d = .pending id a o.va → th.wait = none →
      arrives (.rejection src (.core c)) (.reject n)
        (fun t => t.gs d = .empty ∧ t.pc = th.pc ∧ t.deferred = th.deferred ++
          [⟨0x08, o.va, word (2 ^ 63 + if n = 20 then 2 else n)⟩])) ∧
    (th.wait = none → arrives (.accessPerformed src (.core c)) .done same) ∧
    (∀ k, th.wait = none → arrives (.pushComplete src (.core c)) (.pushDone k) same) ∧
    (∀ lv, th.life = .parked (.fetch id) → o.id = id → arrives (.fetchFill src (.core c)) (.line lv)
      (fun t => t.fb = some ⟨word (o.va.toNat / 64 * 64), lv.data, lv.bad⟩ ∧ t.life = .runnable ∧ t.pc = th.pc)) ∧
    (∀ d more, c < 768 → u < 16 → th.deferred = d :: more → th.late = 0 → bitOf th.arm 1 = false → th.life = .runnable →
      th.owed = none → th.wait = none → handles th d.cause → (s.coreAt c).spcfg = none → ∃ t, exec (.deferredTrap c u) s = .next t ∧ t.mem = s.mem ∧
        (t.thread c u).deferred = more ∧ inHandler th (t.thread c u) d.cause d.v1 d.v2 th.pc) ∧
    (∀ d more w, c < 768 → u < 16 → th.deferred = d :: more → th.late = 0 → bitOf th.arm 1 = false → th.life = .parked .reply →
      th.owed = none → th.wait = some w → w.kind ≠ .typed → w.kind ≠ .nbar → handles th d.cause → (s.coreAt c).spcfg = none →
      ∃ t, exec (.deferredTrap c u) s = .next t ∧ t.mem = s.mem ∧ t.net = s.net ∧ (t.thread c u).deferred = more ∧
        (t.thread c u).outs = th.outs ∧ (t.thread c u).aside = th.aside ++ [⟨w, th.pc, th.intrap, []⟩] ∧
        inHandler th (t.thread c u) d.cause d.v1 d.v2 th.pc) ∧
    (∀ a v d size sg x, th.aside = [a] → a.wait.id = id → o.dst = .g d size sg → d ≠ 0 → th.gs d = .pending id x o.va →
      comes (.resultFill src (.core c)) (.value v) (fun t => t.gv d = extend v.toNat size sg ∧ t.gs d = .full ∧ t.pc = th.pc ∧
        t.life = th.life ∧ t.wait = th.wait ∧ t.aside = [{ a with got := a.got ++ [(some o, .value v)] }])) ∧
    (∀ a, th.aside = [a] → a.wait.id = id → o.dst = .none → comes (.accessPerformed src (.core c)) .done (fun t =>
      { t with outs := th.outs, aside := th.aside } = th ∧ t.aside = [{ a with got := a.got ++ [(some o, .done)] }])) ∧
    (∀ a, th.aside = [a] → (th.asideDue = some a ↔ th.fresh = true ∧ th.pc = a.pc ∧ th.intrap = a.intrap) ∧
      (a.got = [] → (s.takeAside c u a).thread c u =
        { th with aside := [], wait := some a.wait, life := .parked .reply, fresh := false }) ∧
      (a.wait.kind ≠ .store → a.wait.id = o.id → a.got = [(some o, .done)] → (s.takeAside c u a).thread c u =
        { th with aside := [], wait := none, life := .runnable, fresh := false, pc := th.pc + word a.wait.len }))

/-- A delivery is written into the register of a live receiver and acknowledged, rejected for one that is not live, and stays in
the network interface while a producer is pending, from where it is written when none is (RPUT_DELIVERY; R250). A remote access is performed at the core that holds the
bytes, or rejected beyond its scratch size, or in ways that an SPCFG takes away (MESH_ACCESS; R194, R232, R243). The interface of a waiting Q.PUT sends the data it holds
(PUT_DATA_REQUEST; R287). A join request is accepted by a core that waits in STRM.JOIN, and faults its flight with reason 3 at
one that refuses it (JOIN_REQUEST; R310). -/
def Obligations.DeliveriesAndRemoteAccesses : Prop :=
  ∀ (s : State) (src : Node) (c slot : Nat) (rest : List Msg) (who : Who) (th : Thread), localWho s who → th = s.thread c slot →
    let answer (r : Result) : List Msg := rest ++ [⟨.core c, .core who.core, .reply who.slot who.id r⟩]
    (∀ vec n val, heads s src (.core c) (.rput who slot vec n val none) rest → s.liveCore c = true → (s.coreAt c).inbox = [] →
      let fits := inPart (s.coreAt c).part (if vec then .v else .g) n
      let pending := (if vec then th.vs n else th.gs n).isPending
      (th.live = true → fits = true → pending = false → ∃ t, exec (.rputDelivery src (.core c)) s = .next t ∧ t.net = answer .done ∧
        (vec = true → (t.thread c slot).vv n = val ∧ (t.thread c slot).vs n = .full) ∧
        (vec = false → n ≠ 0 → (t.thread c slot).gv n = val.setWidth 64 ∧ (t.thread c slot).gs n = .full) ∧
        (t.thread c slot).pc = th.pc ∧ t.mem = s.mem) ∧
      (th.live = false → exec (.rputDelivery src (.core c)) s = .next { s with net := answer (.reject 1) }) ∧
      (th.live = true → fits = false → exec (.rputDelivery src (.core c)) s = .next { s with net := answer (.reject 3) }) ∧
      (th.live = true → fits = true → pending = true → ∃ t, exec (.rputDelivery src (.core c)) s = .next t ∧ t.net = rest ∧
        (t.coreAt c).inbox = [⟨who, slot, vec, n, val, none⟩] ∧ t.mem = s.mem ∧ ∀ v, t.thread c v = s.thread c v)) ∧
    (∀ vec n val, (s.coreAt c).inbox = [⟨who, slot, vec, n, val, none⟩] → s.liveCore c = true → th.live = true →
      (if vec then th.vs n else th.gs n).isPending = false → let t := s.settlePuts c
      (t.coreAt c).inbox = [] ∧ t.net = s.net ++ [⟨.core c, .core who.core, .reply who.slot who.id .done⟩] ∧
      (vec = true → (t.thread c slot).vv n = val ∧ (t.thread c slot).vs n = .full) ∧
      (vec = false → n ≠ 0 → (t.thread c slot).gv n = val.setWidth 64 ∧ (t.thread c slot).gs n = .full) ∧ t.mem = s.mem) ∧
    (∀ off n, heads s src (.core c) (.mesh who off (.load n)) rest → s.liveCore c = true → (s.coreAt c).spcfg = none →
      (off + n ≤ (s.coreAt c).ways * 131072 → (∀ w ∈ (s.coreAt c).spmBad, ¬ (8 * w < off + n ∧ off < 8 * w + 8)) →
        ∃ t, exec (.meshAccess src (.core c)) s = .next t ∧
          t.net = answer (.value (BitVec.ofNat 512 (mnum (s.coreAt c).spm off n))) ∧ t.coreAt c = s.coreAt c ∧ t.mem = s.mem) ∧
      ((s.coreAt c).ways * 131072 < off + n →
        exec (.meshAccess src (.core c)) s = .next { s with net := answer (.reject 2) })) ∧
    (∀ off a u w, heads s src (.core c) (.mesh who off a) rest → s.liveCore c = true → (s.coreAt c).spcfg = some (u, w) →
      off + Access.bytes a ≤ (s.coreAt c).ways * 131072 → w * 131072 < off + Access.bytes a →
      exec (.meshAccess src (.core c)) s = .next { s with net := answer (.reject 20) }) ∧
    (∀ off n v, heads s src (.core c) (.mesh who off (.store n v)) rest → s.liveCore c = true → (s.coreAt c).spcfg = none →
      mwf (s.coreAt c).spm = true → off + n ≤ (s.coreAt c).ways * 131072 →
      ∃ t, exec (.meshAccess src (.core c)) s = .next t ∧ t.net = answer .done ∧
        mnum (t.coreAt c).spm off n = v.toNat % 2 ^ (8 * n) ∧ t.mem = s.mem ∧
        ∀ a, (a < off ∨ off + n ≤ a) → mread (t.coreAt c).spm a = mread (s.coreAt c).spm a) ∧
    (∀ entry, heads s src (.core c) (.putAsk slot entry) rest → exec (.putDataRequest src (.core c)) s =
      .next { s with net := rest ++ [⟨.core c, src, .putData entry th.putBuf⟩] }) ∧
    (∀ l f, heads s src (.core c) (.join l) rest → tget? s.flights l = some f → s.liveCore c = true →
      (s.coreAt c).flight = none → slot = 0 → th.life = .parked .join → th.asid = (s.thread l 0).asid → (s.coreAt c).joins = [] →
      s.hasAccepted c = false → ∃ t, exec (.joinRequest src (.core c)) s = .next t ∧ t.net = rest ∧
        tget? t.flights l = some { f with accepted := insertNat c f.accepted, resume := tset c (th.pc + 4) f.resume }) ∧
    (∀ l f, heads s src (.core c) (.join l) rest → tget? s.flights l = some f → f.formed = false → f.accepted = [l] →
      (s.coreAt c).flight ≠ none → handles (s.thread l 0) 0x13 → (s.thread l 0).wait = none →
      s.streams l 0 = false → ∃ t, exec (.joinRequest src (.core c)) s = .next t ∧ tget? t.flights l = none ∧
        inHandler (s.thread l 0) (t.thread l 0) 0x13 (word c) 3 (s.thread l 0).pc)

/-! ### Events: walks, page ownership and groups (R229, R342, R361 to R366) -/

/-- A walk that finds its leaf on a page that no one need be asked about fills the TLB and lets the thread go on: it takes for its
core a page that nothing has accessed (R227), but fills a page of a PTE in the carve-out, which only an SSP may change, as shared
(R266; log entry 113). One that fails traps with the page fault its access calls for, or lets a prefetch
issue again and end (PAGE_WALK; R231, R241, R355, R363, R366), and one that finds a page private to another core asks that core. A reclassify that
has arrived holds the owner's later accesses to the page, and the owner answers it when the page is quiet (RECLASSIFY; R229), and the
walker that waited walks again and goes on (RECLASSIFY_ACK). TLBINV
removes the matching entries of the TLB and of the walk cache in every core, all at issue by the model's choice (log entry 40), and
parks until the accesses under them are performed (R361; TLBINV_COMPLETE). That the row of PRIV is checked before A = 0 is the model's
choice too (log entry 91). GRPSET reads its map from the own scratchpad
and sends it to the dispatch unit (R342), which sets the group and raises INTPEND.GROUP in every live thread of a core whose
membership changes, and in no other (GRPSET_PERFORM; R342, R351). -/
def Obligations.WalksAndGroups : Prop :=
  ∀ (s : State) (c u : Nat) (pick : WalkPick) (src : Node) (rest : List Msg) (th : Thread), c < 768 → u < 16 → th = s.thread c u →
    let asid := th.asid.toNat
    let after : State := { s with net := rest }
    let cut : State := s.modCore c fun k => { k with ptrs := k.ptrs.drop pick.forget }
    let walked (t : State) (w : Walk) (leaf : Leaf) : Prop :=
      let x := t.walkWith (t.coreAt c).ptrs asid th.ptbase w.va th.smode ⟨w.read, w.write, w.exec⟩
      x.leaf = leaf ∧ x.lines.all t.lineQuiet = true
    let maps (e : TlbEnt) (w : Walk) (p : Nat) : Prop := e.maps asid w.va.toNat = true ∧ e.r = pteBit p 1 ∧ e.w = pteBit p 2 ∧
      e.x = pteBit p 3 ∧ e.u = pteBit p 4 ∧ e.sync = pteBit p 5 ∧ e.nc = pteBit p 7 ∧ (w.write = true → e.dirty = true)
    (∀ w level off p, th.walk = some w → w.reclass = none → th.life = .parked .walk → walked cut w (.found level off p) →
      (s.classifies p = true → pteBit p 8 = true → p / 2 ^ 54 = c) →
      ∃ t e, exec (.pageWalk c u pick) s = .next t ∧ (t.thread c u).walk = none ∧ t.ready c u = !th.held ∧
        e ∈ (t.coreAt c).tlb ∧ maps e w p ∧ (inCarve off = true → e.priv = false) ∧
        (inCarve off = false → inPool off = false → e.priv = (s.classifies p && (pteBit p 8 || !pteBit p 9)))) ∧
    (∀ w level off p, th.walk = some w → w.reclass = none → walked cut w (.found level off p) → s.classifies p = true →
      inCarve off = false → inPool off = false → pteBit p 8 = true → p / 2 ^ 54 ≠ c → ∃ t, exec (.pageWalk c u pick) s = .next t ∧
        (t.thread c u).walk = some { w with reclass := some off } ∧
        t.net = s.net ++ [⟨.core c, .core (p / 2 ^ 54), .reclass c off asid⟩]) ∧
    (∀ w r level, th.walk = some w → w.reclass = none → walked cut w (.fail r level) →
      (w.drop = true → ∃ t, exec (.pageWalk c u pick) s = .next t ∧
        t.thread c u = { th with walk := none, life := .runnable, dropped := some th.pc }) ∧
      (let cause := if w.exec then 0x07 else if w.write then 0x06 else 0x05
       w.drop = false → handles th cause → s.streams c u = false → th.wait = none → ∃ t,
        exec (.pageWalk c u pick) s = .next t ∧
        (t.thread c u).walk = none ∧ inHandler th (t.thread c u) cause w.va (word (level * 256 + r)) th.pc (w.len == 2))) ∧
    (∀ n pte a, (s.coreAt c).fencing = none →
      let kept (s : State) : State := s.modCore c fun k => { k with reclaims := [(n, pte, a)] }
      let done (i : Instr) (s kept : State) : Prop := pteBit (kept.peekWord a pte).1 8 = true → ∃ t, exec i s = .next t ∧
        ⟨.core c, .core n, .reclassAck pte⟩ ∈ t.net ∧ (t.coreAt c).reclaims = [] ∧ ∀ e ∈ (t.coreAt c).tlb, e.pte ≠ pte
      (heads s src (.core c) (.reclass n pte a) rest → (s.coreAt c).reclaims = [] →
        ((kept after).reclassReady c pte = true → done (.reclassify src (.core c)) s (kept after)) ∧
        ((kept after).reclassReady c pte = false → exec (.reclassify src (.core c)) s = .next (kept after)) ∧
        ∀ e pa, e.priv = true → e.pte = pte → (kept after).reclaimHold c [.glob e pa] = some pte) ∧
      ((s.coreAt c).reclaims = [(n, pte, a)] → n < 768 → (∀ m ∈ s.net, ¬ (m.src = .core n ∧ m.dst = .core c)) →
        s.reclassReady c pte = true → done (.reclassify (.core n) (.core c)) s s)) ∧
    (∀ pte w level off p, heads s src (.core c) (.reclassAck pte) rest → (∀ v, v ≠ u → (s.thread c v).walk = none) →
      th.walk = some w → w.reclass = some pte →
      walked (after.modThread c u fun t => { t with walk := some { w with reclass := none } }) { w with reclass := none }
        (.found level off p) → pteBit p 8 = false →
      pteBit p 9 = true → ∃ t e, exec (.reclassifyAck src (.core c)) s = .next t ∧ (t.thread c u).walk = none ∧
        e ∈ (t.coreAt c).tlb ∧ maps e w p ∧ e.priv = false) ∧
    (∀ y x b a k, s.cur = (c, u) → canIssue (.tlbinv y x b a k) s = true → relReady .dev th.outs = true →
      ∃ t, gives (.tlbinv y x b a k) s t ∧ (t.thread c u).life = .parked .reply ∧ (t.thread c u).pc = th.pc ∧ t.mem = s.mem ∧
        ∀ n, (t.coreAt n).tlb = (s.coreAt n).tlb.filter fun e => !(match k with
          | .all => true
          | .asid => e.asid == fld (s.rg b) 0 16
          | .page => !isMesh (s.rg a) && e.maps (fld (s.rg b) 0 16) (s.rg a).toNat) ∧
        (t.coreAt n).ptrs = (s.coreAt n).ptrs.filter fun e => !(match k with
          | .all => true
          | .asid => e.asid == fld (s.rg b) 0 16
          | .page => !isMesh (s.rg a) && e.serves (fld (s.rg b) 0 16) (s.rg a).toNat)) ∧
    (∀ w, th.wait = some w → w.kind = .tlbinv → (∀ e ∈ w.got, (s.coreAt e.2.toNat).awaits e.1 = false ∧
        s.addsOut e.2.toNat e.1 = false) → exec (.tlbinvComplete c u) s = .next
        (s.setThread c u { th with wait := none, life := .runnable, pc := th.pc + word w.len })) ∧
    (∀ y x b a (offs : List Nat), s.cur = (c, u) → canIssue (.grpset y x b a) s = true → offs.length = 12 → (s.rg a).toNat ≤ 255 →
      s.checkAll s.actx 8 8 { r := true } ((List.range 12).map fun i => s.rg b + word (8 * i)) =
        .ok (((List.range 12).map fun i => s.rg b + word (8 * i)).zip (offs.map .own)) →
      s.podGone.contains s.devnum = false → s.gate (offs.map .own) (.load 8) false {} = none → relReady .dev th.outs = true →
      (s.coreAt c).spmBad = [] → ∃ t, gives (.grpset y x b a) s t ∧ (t.thread c u).life = .parked .reply ∧
        (t.thread c u).pc = th.pc ∧ t.net = s.net ++ [⟨.core c, .dispatch, .grpset ⟨s.devnum, c, u, s.txn + 1⟩ (s.rg a).toNat
          (offs.map fun off => word (mnum (s.coreAt c).spm off 8))⟩]) ∧
    (∀ who g map, heads s src .dispatch (.grpset who g map) rest → localWho s who → map.length = 12 →
      (∀ n < 768, bitOf (map.getD (n / 64) 0) (n % 64) = true → s.liveCore n = true ∧ s.groupCount n ≤ 3) →
      (∀ n, (s.coreAt n).nb = []) → (∀ m ∈ rest, nbarOf g m = false) →
      ∃ t, exec (.grpsetPerform src .dispatch) s = .next t ∧
        t.net = rest ++ [⟨.dispatch, .core who.core, .reply who.slot who.id .done⟩] ∧
        ∀ n < 768, bitOf (tget t.groups g 0) n = bitOf (map.getD (n / 64) 0) (n % 64) ∧ (t.coreAt n).threads =
          if bitOf (tget s.groups g 0) n = bitOf (map.getD (n / 64) 0) (n % 64) then (s.coreAt n).threads
          else (s.coreAt n).threads.map fun x =>
            (x.1, if x.2.live then { x.2 with intpend := setBit x.2.intpend 2 true } else x.2))

/-! ### Events: caches and homes (R215, R221 to R226, R237, R246, R414) -/

/-- The transitions of an L1 line (R224, R246): a grant turns IS into S or E and IM into M (L1_GRANT); a forwarded read turns M
into O and supplies the line (L1_FORWARDED_READ); a forwarded read-exclusive or a recall drops it (L1_FORWARDED_READ_EXCLUSIVE);
an invalidation drops S and is acknowledged (L1_INVALIDATE); the acknowledgement of a write-back ends MI (L1_WRITEBACK_ACK); and
a pushed copy enters in S with PM where there is quota and room, in the place of the least recently used clean line when its set is
full, or is refused and counted (PUSHED_COPY). A line of a private page answers a snoop as if the L1 did not hold it, and stays
(R228, R230). Stated for lines at which nothing waits; a grant for a line whose set has a place. -/
def Obligations.L1Transitions : Prop :=
  ∀ (s : State) (src : Node) (c line : Nat) (rest : List Msg) (l : L1Line), tget? (s.coreAt c).l1 line = some l → l.waits = [] →
    l.held = [] → l.inval = none → l.cinv = false → l.pref = none →
    let home : Node := .slice (homeSlice (line * 64) false)
    let leaves (i : Instr) (l' : Option L1Line) (sent : List Msg) : Prop := ∃ t, exec i s = .next t ∧
      tget? (t.coreAt c).l1 line = l' ∧ t.net = rest ++ sent ∧ t.mem = s.mem ∧ (t.coreAt c).threads = (s.coreAt c).threads ∧
      ∀ n, n ≠ line → tget? (t.coreAt c).l1 n = tget? (s.coreAt c).l1 n
    (∀ excl lv, heads s src (.core c) (.grant line excl lv) rest → (s.coreAt c).setFull line = false → leaves (.l1Grant src (.core c) none)
      (some { l with st := if l.st = .is then (if excl then .exc else .shr) else .mod, lv := lv.getD l.lv }) []) ∧
    (l.via.priv = true →
      (∀ dest, heads s src (.core c) (.fwd line false dest) rest →
        leaves (.l1ForwardedRead src (.core c)) (some l) [⟨.core c, home, .snoopAck line .invalid none⟩]) ∧
      (∀ dest, heads s src (.core c) (.fwd line true dest) rest →
        leaves (.l1ForwardedReadExclusive src (.core c)) (some l) [⟨.core c, home, .snoopAck line .invalid none⟩]) ∧
      (heads s src (.core c) (.inval line) rest →
        leaves (.l1Invalidate src (.core c)) (some l) [⟨.core c, home, .snoopAck line .invalid none⟩])) ∧
    (∀ n, heads s src (.core c) (.fwd line false (.core n)) rest → l.via.priv = false →
      (l.st = .mod → leaves (.l1ForwardedRead src (.core c)) (some { l with st := .own })
        [⟨.core c, .core n, .grant line false (some l.lv)⟩, ⟨.core c, home, .snoopAck line .kept none⟩]) ∧
      (l.st = .exc → leaves (.l1ForwardedRead src (.core c)) (some { l with st := .shr })
        [⟨.core c, .core n, .grant line false (some l.lv)⟩, ⟨.core c, home, .snoopAck line .shared none⟩])) ∧
    (∀ n, heads s src (.core c) (.fwd line true (.core n)) rest → l.via.priv = false → (l.st = .mod ∨ l.st = .own ∨ l.st = .exc) →
      leaves (.l1ForwardedReadExclusive src (.core c)) none [⟨.core c, .core n, .grant line true (some l.lv)⟩]) ∧
    (heads s src (.core c) (.fwd line true .home) rest → l.via.priv = false → (l.st = .mod ∨ l.st = .own ∨ l.st = .exc) →
      leaves (.l1ForwardedReadExclusive src (.core c)) none
        [⟨.core c, home, .snoopAck line .invalid (if l.st = .exc then none else some l.lv)⟩]) ∧
    (heads s src (.core c) (.inval line) rest → l.via.priv = false →
      (l.st = .shr → leaves (.l1Invalidate src (.core c)) none [⟨.core c, home, .snoopAck line .invalid none⟩]) ∧
      (l.st = .sm → leaves (.l1Invalidate src (.core c)) (some { l with st := .im })
        [⟨.core c, home, .snoopAck line .invalid none⟩])) ∧
    (heads s src (.core c) (.wbAck line) rest → (l.st = .mi ∨ l.st = .ei) →
      leaves (.l1WritebackAck src (.core c)) none []) ∧
    (∀ other asid pid lv, heads s src (.core c) (.push other asid pid lv) rest →
      let k := s.coreAt c
      let out (ok : Bool) : List Msg := rest ++ [⟨.core c, .slice (homeSlice (other * 64) false), .pushOut other pid ok⟩]
      let refused : Prop := ∃ t, exec (.pushedCopy src (.core c) other) s = .next t ∧ t.mem = s.mem ∧
        (t.coreAt c).l1 = k.l1 ∧ (t.coreAt c).refused = min 65535 (k.refused + 1) ∧ t.net = out false
      let admitted (q : State → Prop) : Prop := (k.l1.filter fun e => e.2.pm).length < k.quota → tget? k.l1 other = none →
        k.fenced = false → k.liveSlots ≠ [] → (∀ u ∈ k.liveSlots, (s.thread c u).asid.toNat = asid) →
        ∃ t, exec (.pushedCopy src (.core c) other) s = .next t ∧ t.mem = s.mem ∧
          (tget? (t.coreAt c).l1 other).map (fun l => (l.st, l.pm, l.via, l.lv)) = some (.shr, true, ⟨asid, false, 0⟩, lv) ∧
          t.net = out true ∧ q t
      let clean := ((k.sameSet other).filter fun e => e.2.st == .shr || e.2.st == .exc).map (·.1)
      (k.setFull other = false → admitted fun t => ∀ n, n ≠ other → tget? (t.coreAt c).l1 n = tget? k.l1 n) ∧
      (∀ v x, k.setFull other = true → k.oldest clean = some v → tget? k.l1 v = some x → x.st = .shr → v ≠ other →
        admitted fun t => ∀ n, n ≠ other → tget? (t.coreAt c).l1 n = if n = v then none else tget? k.l1 n) ∧
      (k.setFull other = true → clean = [] → refused) ∧
      (k.quota ≤ (k.l1.filter fun e => e.2.pm).length → refused) ∧ (other = line → refused))

/-- A home slice with no request of the line in progress (R221, R225, R237, R242, R256, R414): a read of a line that no core
holds is granted in E, and of one with an owner is forwarded (HOME_READ); a read-exclusive of a line that no other core holds
is granted (HOME_READ_EXCLUSIVE), and so is the upgrade of the only sharer, without data (HOME_UPGRADE); with other sharers the
upgrade first invalidates them, and a core that the directory no longer lists gets the line with its grant. A write-back of the owner is stored, and one of any other core is stale; both are acknowledged
(HOME_WRITE_BACK), as is an eviction notice (HOME_EVICTION_NOTICE). A load, a store and an atomic on a page without copies are
performed at the home (HOME_NC_ACCESS, HOME_ATOMIC), and so is one addition of a REDUCE (REDUCE_ADD). -/
def Obligations.HomeRequests : Prop :=
  ∀ (s : State) (n asid line : Nat) (rest : List Msg) (who : Who) (sync : Bool) (d : DirEnt),
    d = tget s.dir line {} → d.busy = none → d.queue = [] → localWho s who → memoriesCanonical s →
    let me : Node := .slice n
    let from_ : Node := .core who.core
    let home : Node := .slice (homeSlice (line * 64) false)
    let req (k : HomeKind) : Body := .home ⟨who, asid, line, false, false, k⟩
    let grant (excl : Bool) (lv : Option LineVal) : Msg := ⟨home, from_, .grant line excl lv⟩
    let asked (k : HomeKind) (i : Instr) (d' : DirEnt) (sent : List Msg) : Prop :=
      heads s from_ me (req k) rest → exec i s = .next { s with dir := tset line d' s.dir, net := rest ++ sent }
    (d.owner = none → d.sharers = [] → d.asid = asid → asked .read (.homeRead from_ me none)
      { d with owner := some who.core } [grant true (some (s.homeLine asid line))]) ∧
    (∀ o, d.owner = some o → o ≠ who.core → d.asid = asid → asked .read (.homeRead from_ me none)
      { d with busy := some ⟨⟨who, asid, line, false, false, .read⟩, [o], none⟩ } [⟨home, .core o, .fwd line false (.core who.core)⟩]) ∧
    (d.owner = none → d.sharers = [] → d.asid = asid → asked .readEx (.homeReadExclusive from_ me none)
      { d with owner := some who.core } [grant true (some (s.homeLine asid line))]) ∧
    (d.owner = none → d.sharers = [who.core] → d.asid = asid → asked .upgrade (.homeUpgrade from_ ⟨me, none⟩)
      { d with owner := some who.core, sharers := [] } [grant true none]) ∧
    (d.owner = none → d.sharers = [] → d.asid = asid → asked .upgrade (.homeUpgrade from_ ⟨me, none⟩)
      { d with owner := some who.core } [grant true (some (s.homeLine asid line))]) ∧
    (∀ o, d.owner = none → d.sharers = [o, who.core] → o ≠ who.core → d.asid = asid → asked .upgrade (.homeUpgrade from_ ⟨me, none⟩)
      { d with busy := some ⟨⟨who, asid, line, false, false, .upgrade⟩, [o], none⟩ } [⟨home, .core o, .inval line⟩]) ∧
    (∀ lv, heads s from_ me (.wb line asid false lv) rest →
      (d.owner = some who.core → ∃ t, exec (.homeWriteBack from_ me) s = .next t ∧ t.net = rest ++ [⟨home, from_, .wbAck line⟩] ∧
        t.homeLine asid line = lv ∧ (tget t.dir line {}).owner = none ∧
        ∀ l, l ≠ line → t.homeLine asid l = s.homeLine asid l) ∧
      (d.owner ≠ some who.core →
        exec (.homeWriteBack from_ me) s = .next { s with net := rest ++ [⟨home, from_, .wbAck line⟩] })) ∧
    (heads s from_ me (.evict line false) rest → d.owner = some who.core → exec (.homeEvictionNotice from_ me) s =
      .next { s with dir := tset line { d with owner := none } s.dir, net := rest ++ [⟨home, from_, .wbAck line⟩] }) ∧
    let slice : Node := .slice (homeSlice (line * 64) sync)
    let lv := s.homeLine asid line
    let performed (k : HomeKind) (i : Instr) (r : Result) (data : Line) : Prop :=
      heads s from_ me (.home ⟨who, asid, line, false, sync, k⟩) rest → d.owner = none → d.sharers = [] → d.asid = asid →
      ∃ t, exec i s = .next t ∧ t.net = rest ++ [⟨slice, from_, .reply who.slot who.id r⟩] ∧ t.cores = s.cores ∧
        (t.homeLine asid line).data = data ∧ ∀ l, l ≠ line → t.homeLine asid l = s.homeLine asid l
    ∀ off size, off + size ≤ 64 → lv.bad = 0 → (sync = true → s.typedWord (line * 64 + off) size = none) →
      performed (.access off (.load size)) (.homeNcAccess from_ me) (.value (BitVec.ofNat 512 (lineNum lv.data off size))) lv.data ∧
      (∀ v, performed (.access off (.store size v)) (.homeNcAccess from_ me) .done (linePut lv.data off size v.toNat)) ∧
      (∀ b x0, off % 8 = 0 → size = 8 → performed (.access off (.atomic .add b x0)) (.homeAtomic from_ me)
        (.value (BitVec.ofNat 512 (lineNum lv.data off 8))) (linePut lv.data off 8 (word (lineNum lv.data off 8) + b).toNat)) ∧
      (∀ el, off % 16 = 0 → off + 16 ≤ 64 → sync = false → performed (.reduce off el false) (.reduceAdd from_ me) .done
        (linePut lv.data off 16 (BitVec.ofNat 96 (lineNum lv.data off 12) + el).toNat))

/-- Invalidations and pushes at a home slice (R215 to R217, R221): the last acknowledgement lets the request in progress finish
(HOME_INVALIDATE_ACK); a push store writes the line at its home and offers a copy to each live receiver once, and one with no
live receiver is answered at once (HOME_PUSH_STORE); while the outcomes are out no other request of the line is ordered; a refused
copy leaves the sharers, and the last outcome tells the pusher and frees the line (PUSH_OUTCOME). -/
def Obligations.HomeAcknowledgements : Prop :=
  ∀ (s : State) (n c asid line : Nat) (rest : List Msg) (who : Who) (d : DirEnt), d = tget s.dir line {} → localWho s who →
    memoriesCanonical s →
    let me : Node := .slice n
    let home : Node := .slice (homeSlice (line * 64) false)
    let reply (r : Result) : Msg := ⟨home, .core who.core, .reply who.slot who.id r⟩
    (∀ req, d.busy = some ⟨req, [c], none⟩ → req = ⟨who, asid, line, false, false, .readEx⟩ → d.queue = [] → d.sharers = [c] →
      d.owner = none → d.asid = asid → heads s (.core c) me (.snoopAck line .invalid none) rest → who.core ≠ c →
      exec (.homeInvalidateAck (.core c) me) s = .next { s with
        dir := tset line { d with busy := none, owner := some who.core, sharers := [] } s.dir,
        net := rest ++ [⟨home, .core who.core, .grant line true (some (s.homeLine asid line))⟩] }) ∧
    (∀ sel data, d.busy = none → d.queue = [] → d.owner = none → d.sharers = [] → d.asid = asid →
      heads s (.core who.core) me (.home ⟨who, asid, line, false, false, .push false sel data⟩) rest →
      let rs := (((List.range 4).map fun i => fld sel (16 * i) 16).filter s.liveCore).eraseDups
      ∃ t, exec (.homePushStore (.core who.core) ⟨me, none⟩) s = .next t ∧ (t.homeLine asid line).data = data ∧ t.cores = s.cores ∧
        (rs = [] → t.net = rest ++ [reply (.pushDone 0)]) ∧
        (rs ≠ [] → (tget t.dir line {}).sharers = rs ∧
          (tget t.dir line {}).busy = some ⟨⟨who, asid, line, false, false, .push false sel data⟩, rs, some (s.txn + 1)⟩ ∧
          t.net = rest ++ rs.map (fun r => ⟨home, .core r, .push line asid (s.txn + 1) ⟨data, 0⟩⟩) ∧
          t.pushes = s.pushes ++ [⟨s.txn + 1, who, rs.length, (List.range 4).map fun i => fld sel (16 * i) 16, []⟩])) ∧
    (∀ p ok, s.pushes = [p] → p.who = who → d.queue = [] → heads s (.core c) me (.pushOut line p.pid ok) rest →
      ∃ t, exec (.pushOutcome (.core c) me) s = .next t ∧
        (tget t.dir line {}).sharers = (if ok then d.sharers else d.sharers.filter (· != c)) ∧
        (∀ l, l ≠ line → tget t.dir l {} = tget s.dir l {}) ∧
        (p.left ≤ 1 → t.pushes = [] ∧ (tget t.dir line {}).busy = none ∧ t.net = rest ++ [reply (.pushDone (tookMask p.named (if ok then c :: p.took else p.took)))]) ∧
        (1 < p.left → t.net = rest ∧ (tget t.dir line {}).busy = d.busy.map (fun b => { b with acks := b.acks.erase c }) ∧
          t.pushes = [{ p with left := p.left - 1, took := if ok then c :: p.took else p.took }]))

/-! ### Events: typed objects (R264 to R293) -/

/-- Typed requests at their SSP (R267 to R288). A poisoned word or one of another type answers a trap and changes nothing (R269,
R270). LDSY empties a full word and STSY fills an empty one; the other way round they wait, and a try traps (R275, R278). CNT.ADD and
CNT.FADD add and wake every CNT.WAIT whose threshold is reached, oldest first; CNT.WAIT answers a counter that has reached its
threshold (R279). An arrival counts, and the last one of a phase begins the next (R280). LCK.ACQ takes the next ticket and holds a
free lock; LCK.REL serves the next ticket, and on a free lock answers OBJFAULT 6 (R283, R292). Q.GET takes the head element and
Q.PUT writes the tail's (R286). CND.WAIT counts itself and releases its lock; CND.SIG counts, and lowers the count of
waiters (R288). A BAR.ARW arrives and parks in one, the first arrival of a phase makes its phase record, and the last answers a
BAR.ARW with the completion word, wakes those that wait for the phase, oldest first, and writes the report word from the record (R280
to R282). What waits at an object is served: an LDSY hands the word of the oldest waiting STSY on and an STSY answers the oldest LDSY
(R278), a release passes its lock to the next ticket behind void ones (R283, R284), a Q.PUT feeds the oldest waiting Q.GET and a Q.GET
grants the oldest waiting Q.PUT its position and asks for its data (R286, R287), and a signalled CND.WAIT takes a ticket of its lock,
or the lock (R288). -/
def Obligations.TypedOperations : Prop :=
  ∀ (s : State) (n : Nat) (rest : List Msg) (r : TypedReq) (who : Who), r.who = .thread who → localWho s who → memoriesCanonical s →
    s.cancels.contains who = false → poolWord (paOff r.pa) →
    let off := paOff r.pa
    let v := s.sspWord r.asid off
    let me : Node := .slice n
    let home : Node := .slice (homeSlice off true)
    let reply (w : Who) (x : Result) : Msg := ⟨home, .core w.core, .reply w.slot w.id x⟩
    let arrives (sent : List Msg) (q : State → Prop) : Prop := heads s (.core who.core) me (.typed r) rest →
      ∃ t, exec (.sspTypedRequest (.core who.core) me) s = .next t ∧ t.net = rest ++ sent ∧ t.cores = s.cores ∧ q t
    let answers (x : Result) (q : State → Prop) : Prop := arrives [reply who x] q
    let refused (cause v2 : Nat) : Prop := answers (.trap cause r.va (word (s.tag off * 2 ^ 60 + v2)))
      (fun t => t.mem = s.mem ∧ t.waiters = s.waiters)
    let waits (operand : Word) (q : State → Prop) : Prop := ∀ m, r.lim = .wait m → s.room off 1 = true → arrives [] (fun t =>
      (∃ e, t.waiters = s.waiters ++ [e] ∧ e.kind = .waiter ∧ e.req = r ∧ e.operand = operand ∧ e.deadline = s.deadline r.lim) ∧ q t)
    let sets (w : Word) (t : State) : Prop := writesWords [(off, w, s.tag off)] r.asid s t
    let idle : Prop := s.waiters = []
    let here (w : Waiter) : Prop := ∃ p, w.req.who = .thread p ∧ localWho s p
    let tell (w : Waiter) (x : Result) : Msg := ⟨.slice (homeSlice (paOff w.req.pa) true), .core w.req.party.2.1,
      .reply w.req.party.2.2 (match w.req.who with | .thread p => p.id | .sig .. => 0) x⟩
    let oldest (k : TypedKind) (w : Waiter) : Prop := w.req.asid = r.asid ∧ here w ∧
      (s.waiters.find? fun e => paOff e.req.pa == off && e.kind == .waiter && e.req.k == k) = some w
    let without (w : Waiter) : List Waiter := s.waiters.filter fun e => e.no != w.no
    let record (p : Waiter) : Prop := p.kind = .phase ∧ p.operand = s.time ∧ p.deadline = 0 ∧ p.req = r
    let c := fld v 0 32
    let next := fld v 32 32
    let q := s.qAt r.asid off
    (s.sspBad r.asid off = true → answers (.trap 0x12 r.va (word (r.maj * 256 + 3))) (fun t => t.mem = s.mem)) ∧
    (s.sspBad r.asid off = false →
      (∀ ty, TypedKind.needs r.k = some ty → s.typeOf off ≠ ty → refused 0x09 r.maj) ∧
      (r.k = .ldsy → s.tag off = 8 → idle → answers (.value (v.setWidth 512)) (writesWords [(off, v, 0)] r.asid s)) ∧
      (r.k = .ldsy → s.tag off = 0 → waits 0 (fun t => t.mem = s.mem) ∧ (r.lim = .try → refused 0x0A 0)) ∧
      (r.k = .stsy → s.tag off = 0 → idle → answers .done (writesWords [(off, r.b, 8)] r.asid s)) ∧
      (r.k = .stsy → s.tag off = 8 → waits 0 (fun t => t.mem = s.mem) ∧ (r.lim = .try → refused 0x0A 0)) ∧
      (r.k = .cntAdd ∨ r.k = .cntFadd → s.typeOf off = 1 →
        (∀ w ∈ s.waiters, paOff w.req.pa = off ∧ w.kind = .waiter ∧ ∃ p, w.req.who = .thread p ∧ localWho s p) →
        (s.waiters.map (·.no)).Nodup →
        let woken := s.waiters.filter fun w => w.req.k == .cntWait && decide (w.operand.toInt ≤ (v + r.b).toInt)
        arrives (reply who (if r.k = .cntFadd then .value (v.setWidth 512) else .done) ::
            woken.map fun w => ⟨home, .core w.req.party.2.1, .reply w.req.party.2.2
              (match w.req.who with | .thread p => p.id | .sig .. => 0) (.value ((v + r.b).setWidth 512))⟩)
          (fun t => sets (v + r.b) t ∧ t.waiters = s.waiters.filter fun w => !woken.contains w)) ∧
      (r.k = .cntWait → s.typeOf off = 1 →
        (r.b.toInt ≤ v.toInt → answers (.value (v.setWidth 512)) (fun t => t.mem = s.mem)) ∧
        (v.toInt < r.b.toInt → waits r.b (fun t => t.mem = s.mem) ∧ (r.lim = .try → refused 0x0A 0))) ∧
      (r.k = .barArr → s.typeOf off = 2 → fld v 16 16 + 1 < fld v 32 16 → fld v 0 16 = 0 →
        answers (.value (BitVec.ofNat 512 (fld v 48 16))) (sets (setFld v 16 16 (fld v 16 16 + 1)))) ∧
      (r.k = .barArr → s.typeOf off = 2 → fld v 16 16 + 1 = fld v 32 16 → fld v 0 16 = 0 → idle → poolWord (off + 8) →
        answers (.value (BitVec.ofNat 512 (fld v 48 16))) (fun t => t.tag off = s.tag off ∧
          t.sspWord r.asid off = setFld (setFld v 48 16 (fld v 48 16 + 1)) 16 16 0)) ∧
      (r.k = .barWait → s.typeOf off = 2 → fld v 16 16 < fld v 32 16 → fld v 0 16 = 0 →
        (fld v 48 16 ≠ fld r.b 0 16 → answers (.value (BitVec.ofNat 512 (fld v 48 16))) (fun t => t.mem = s.mem)) ∧
        (fld v 48 16 = fld r.b 0 16 → waits r.b (fun t => t.mem = s.mem))) ∧
      (r.k = .lckAcq → s.typeOf off = 4 →
        (c = next → answers .done (sets (setFld v 32 32 (next + 1)))) ∧
        (c ≠ next → waits (word next) (sets (setFld v 32 32 (next + 1))) ∧ (r.lim = .try → refused 0x0A 0))) ∧
      (r.k = .lckRel → s.typeOf off = 4 →
        (c ≠ next → idle → answers .done (sets (setFld v 0 32 (c + 1)))) ∧ (c = next → refused 0x0B 6)) ∧
      (r.k = .qGet ∨ r.k = .qPut → s.typeOf off = 5 → q.bad off = true → refused 0x0B 4) ∧
      (r.k = .qGet → s.typeOf off = 5 → q.bad off = false → 0 < q.n → idle → s.slotBad r.asid off q q.h = none →
          ∀ data : Line, (∀ i < 8, lineWord data i = if i < q.size / 8 then s.sspWord r.asid (q.slot off q.h + 8 * i) else 0) →
            answers (.value data) (fun t => t.qAt r.asid off = { q with h := (q.h + 1) % q.wrap } ∧
              ∀ i < q.size / 8, t.tag (q.slot off q.h + 8 * i) = 6)) ∧
      (r.k = .qPut → s.typeOf off = 5 → q.bad off = false → q.n < q.c → idle → s.ahead = [] →
          answers .done (fun t => t.qAt r.asid off = { q with t := (q.t + 1) % q.wrap } ∧
            ∀ i < q.size / 8, t.sspWord r.asid (q.slot off q.t + 8 * i) = lineWord r.data i ∧
              t.tag (q.slot off q.t + 8 * i) = 14)) ∧
      (r.k = .qGet → s.typeOf off = 5 → q.bad off = false → q.n = 0 → waits 0 (fun t => t.mem = s.mem)) ∧
      (r.k = .cndWait → s.typeOf off = 7 → r.lockOk = true → poolWord (paOff r.lockPa) → paOff r.lockPa ≠ off → idle →
        s.sspBad r.asid (paOff r.lockPa) = false → s.typeOf (paOff r.lockPa) = 4 →
        let l := s.sspWord r.asid (paOff r.lockPa)
        (fld l 0 32 ≠ fld l 32 32 → waits 0 (fun t => t.sspWord r.asid off = setFld v 0 32 (c + 1) ∧
          t.sspWord r.asid (paOff r.lockPa) = setFld l 0 32 (fld l 0 32 + 1))) ∧
        (fld l 0 32 = fld l 32 32 → refused 0x0B 6)) ∧
      (r.k = .cndSigOne → s.typeOf off = 7 → idle →
        answers .done (sets (setFld (setFld v 32 32 (next + 1)) 0 32 (c - 1)))) ∧
      (r.k = .cndSigAll → s.typeOf off = 7 → idle → answers .done (sets (setFld (setFld v 32 32 (next + 1)) 0 32 0))) ∧
      (∀ w, r.k = .ldsy → s.tag off = 8 → oldest .stsy w → arrives [reply who (.value (v.setWidth 512)), tell w .done]
        (fun t => t.waiters = without w ∧ writesWords [(off, w.req.b, 8)] r.asid s t)) ∧
      (∀ w, r.k = .stsy → s.tag off = 0 → oldest .ldsy w → arrives [tell w (.value (r.b.setWidth 512)), reply who .done]
        (fun t => t.waiters = without w ∧ writesWords [(off, r.b, 0)] r.asid s t)) ∧
      (s.typeOf off = 2 → fld v 16 16 + 1 < fld v 32 16 → fld v 0 16 = 0 →
        let arrived := setFld v 16 16 (fld v 16 16 + 1)
        let old := word (fld v 48 16)
        (r.k = .barArr → fld v 16 16 ≠ 0 → answers (.value (old.setWidth 512)) (fun t => t.waiters = s.waiters)) ∧
        (r.k = .barArr → fld v 16 16 = 0 → idle → answers (.value (old.setWidth 512)) (fun t => ∃ p, t.waiters = [p] ∧ record p)) ∧
        (r.k = .barArw → fld v 16 16 ≠ 0 → waits old (sets arrived)) ∧
        (∀ m, r.k = .barArw → fld v 16 16 = 0 → idle → r.lim = .wait m → arrives [] (fun t => sets arrived t ∧ ∃ e p,
          t.waiters = [e, p] ∧ e.kind = .waiter ∧ e.req = r ∧ e.operand = old ∧ e.deadline = s.deadline r.lim ∧ record p)) ∧
        (r.k = .barArw → r.lim = .try → refused 0x0A 0)) ∧
      (∀ p, r.k = .barArr ∨ r.k = .barArw → s.typeOf off = 2 → fld v 16 16 + 1 = fld v 32 16 → fld v 0 16 = 0 → poolWord (off + 8) →
        (∀ w ∈ s.waiters, paOff w.req.pa = off ∧ (w.kind = .waiter ∨ w.kind = .phase) ∧ here w) → (s.waiters.map (·.no)).Nodup →
        s.waiters.filter (fun w => w.kind == .phase) = [p] →
        let phase := (fld v 48 16 + 1) % 2 ^ 16
        let done := s.devnum * 2 ^ 16 + phase
        let woken := s.waiters.filter fun w => w.kind == .waiter &&
          (w.req.k == .barArw || (w.req.k == .barWait && fld w.operand 0 16 != phase))
        arrives (reply who (.value ((word (if r.k = .barArr then fld v 48 16 else 2 ^ 31 + done)).setWidth 512)) ::
            woken.map fun w => tell w (.value ((word (if w.req.k = .barArw then done else phase)).setWidth 512)))
          (fun t => t.waiters = (s.waiters.filter fun w => w.kind != .phase && !woken.contains w) ∧
            t.sspWord r.asid off = setFld (setFld v 48 16 phase) 16 16 0 ∧ t.sspWord r.asid (off + 8) =
              word (who.core * 2 ^ 54 + who.slot * 2 ^ 50 + min (s.time.toNat - p.operand.toNat) (2 ^ 50 - 1)))) ∧
      (∀ w m, r.k = .lckRel → s.typeOf off = 4 → c ≠ next → m < 2 ^ 32 → (s.waiters.map (·.no)).Nodup →
        let entry (j : Nat) := s.waiters.find? fun y => y.holds off ((c + 1 + j) % 2 ^ 32)
        (∀ j < m, ∃ y, entry j = some y ∧ y.kind = .void) → entry m = some w → w.kind = .waiter → here w →
        arrives [reply who .done, tell w .done] (fun t => sets (setFld v 0 32 (c + 1 + m)) t ∧
          ∀ y, y ∈ t.waiters ↔ y ∈ s.waiters ∧ y.no ≠ w.no ∧ ∀ j < m, entry j ≠ some y)) ∧
      (∀ w data, r.k = .qPut → s.typeOf off = 5 → q.bad off = false → q.n = 0 → s.ahead = [] → oldest .qGet w →
        (∀ e ∈ s.waiters, paOff e.req.pa = off → e.kind = .waiter ∧ e.req.k = .qGet) →
        (∀ i < q.size / 8, s.tagBad (q.slot off q.t + 8 * i) = false) →
        (∀ i < 8, lineWord data i = if i < q.size / 8 then lineWord r.data i else 0) →
        arrives [reply who .done, tell w (.value data)] (fun t => t.waiters = without w ∧
          t.qAt r.asid off = { q with h := (q.h + 1) % q.wrap, t := (q.t + 1) % q.wrap } ∧
          ∀ i < q.size / 8, t.tag (q.slot off q.t + 8 * i) = 6)) ∧
      (∀ w p data, r.k = .qGet → s.typeOf off = 5 → q.bad off = false → q.n = q.c → s.ahead = [] → oldest .qPut w →
        w.req.who = .thread p → (s.waiters.map (·.no)).Nodup →
        (∀ e ∈ s.waiters, paOff e.req.pa = off → e.kind = .waiter ∧ e.req.k = .qPut) → s.slotBad r.asid off q q.h = none →
        (∀ i < 8, lineWord data i = if i < q.size / 8 then s.sspWord r.asid (q.slot off q.h + 8 * i) else 0) →
        arrives [reply who (.value data), ⟨home, .core p.core, .putAsk p.slot w.no⟩] (fun t =>
          t.qAt r.asid off = { q with h := (q.h + 1) % q.wrap } ∧ t.waiters = s.waiters.map fun e =>
            if e.no = w.no then { w with kind := .granted, operand := word (q.t % q.wrap), deadline := 0 } else e)) ∧
      (∀ w more, r.k = .cndSigOne ∨ (r.k = .cndSigAll ∧ more = []) → s.typeOf off = 7 → c ≠ 0 → w.req.asid = r.asid → here w →
        (s.waiters.filter fun e => paOff e.req.pa == off && e.kind == .waiter && e.req.k == .cndWait && e.stage == 0) = w :: more →
        poolWord (paOff w.req.lockPa) → paOff w.req.lockPa ≠ off →
        let l := s.sspWord r.asid (paOff w.req.lockPa)
        let signalled (t : State) : Prop := t.sspWord r.asid (paOff w.req.lockPa) = setFld l 32 32 (fld l 32 32 + 1) ∧
          t.sspWord r.asid off = setFld (setFld v 32 32 (next + 1)) 0 32 (if r.k = .cndSigAll then 0 else c - 1)
        (fld l 0 32 = fld l 32 32 → arrives [reply who .done, tell w .done] (fun t => signalled t ∧ t.waiters = without w)) ∧
        (fld l 0 32 ≠ fld l 32 32 → arrives [reply who .done] (fun t => signalled t ∧ t.waiters = s.waiters.map fun e =>
          if e.no = w.no then { w with stage := 1, operand := word (fld l 32 32) } else e))))

/-- Making and unmaking objects, and what happens to an object's entries. TINIT, TRAW and TCLR write the words and tags of R289
to R291, or answer OBJFAULT with the first check that fails. The data of a granted put fills its slot, and the put is answered
(PUT_DATA; R287). An entry past its deadline is removed and its requester traps: a lock waiter leaves a void ticket, and a CND.WAIT
lowers the count or leaves one (WAITER_EXPIRY; R275, R277, R284, R288). An entry that is lost traps its waiter
(WAITER_ENTRY_LOST; R375). -/
def Obligations.ObjectsAndEntries : Prop :=
  ∀ (s : State) (n : Nat) (rest : List Msg) (r : TypedReq) (who : Who), r.who = .thread who → localWho s who → memoriesCanonical s →
    s.cancels.contains who = false → poolWord (paOff r.pa) →
    let off := paOff r.pa
    let v := s.sspWord r.asid off
    let me : Node := .slice n
    let reply (x : Result) : Msg := ⟨.slice (homeSlice off true), .core who.core, .reply who.slot who.id x⟩
    let answers (x : Result) (q : State → Prop) : Prop := heads s (.core who.core) me (.typed r) rest →
      ∃ t, exec (.sspTypedRequest (.core who.core) me) s = .next t ∧ t.net = rest ++ [reply x] ∧ t.cores = s.cores ∧
        t.waiters = s.waiters ∧ q t
    let refused (reason : Nat) : Prop :=
      answers (.trap 0x0B r.va (word (s.tag off * 2 ^ 60 + reason))) (fun t => t.mem = s.mem)
    (s.sspBad r.asid off = false → ∀ ty, r.k = .tinit ty → ty ≠ .slot → (ty = .queue → fld r.b 40 8 ≤ 3) →
      let made := madeWords ty off r.b
      let plain : Prop := if ty = .report then off % 4096 ≠ 0 ∧ s.typeOf (off - 8) = 2 ∧ s.typeOf off = 3
        else ∀ e ∈ made, e.1 / 4096 = off / 4096 → s.typeOf e.1 = 0
      (ty ≠ .report → s.typeOf off ≠ 0 → answers (.trap 0x09 r.va (word (s.tag off * 2 ^ 60 + r.maj))) (fun t => t.mem = s.mem)) ∧
      (plain → (∃ w ∈ s.waiters, paOff w.req.pa = off) → refused 3) ∧
      (plain → s.waiters = [] → off % objectAlign ty ≠ 0 → refused 5) ∧
      (plain → s.waiters = [] → off % objectAlign ty = 0 → 4096 < off % 4096 + 8 * made.length → refused 1) ∧
      (plain → s.waiters = [] → off % objectAlign ty = 0 → off % 4096 + 8 * made.length ≤ 4096 →
        (¬ initAllowed ty r.b → refused 2) ∧ (initAllowed ty r.b → answers .done (writesWords made r.asid s)))) ∧
    (s.sspBad r.asid off = false → ∀ k, r.k = .traw k →
      (s.waiters = [] → answers .done (writesWords [(off, r.b, k.val)] r.asid s)) ∧
      ((∃ w ∈ s.waiters, paOff w.req.pa = off) → refused 3)) ∧
    (s.sspBad r.asid off = false → r.k = .tclr →
      let ty := s.typeOf off
      let count := if ty = 2 then 2 else if ty = 5 then 8 + fld v 48 16 * 2 ^ fld v 40 8 else 1
      (ty = 3 ∨ ty = 6 → answers (.trap 0x09 r.va (word (s.tag off * 2 ^ 60 + r.maj))) (fun t => t.mem = s.mem)) ∧
      (ty ≠ 3 → ty ≠ 6 → (∃ w ∈ s.waiters, paOff w.req.pa = off) → refused 3) ∧
      (ty ≠ 3 → ty ≠ 6 → s.waiters = [] → off % 4096 + 8 * count ≤ 4096 → (ty = 5 → fld v 40 8 ≤ 3) →
        answers .done (writesWords ((List.range count).map fun i => (off + 8 * i, 0, 8)) r.asid s))) ∧
    (∀ w data, s.waiters = [w] → w.kind = .granted → w.written = false → w.req = r →
      heads s (.core who.core) me (.putData w.no data) rest →
      let q := s.qAt r.asid off
      s.ahead = [] → w.operand.toNat = q.t → q.t < q.wrap → q.bad off = false → q.n < q.c →
      ∃ t, exec (.putData (.core who.core) me) s = .next t ∧ t.net = rest ++ [reply .done] ∧ t.waiters = [] ∧ t.cores = s.cores ∧
        t.qAt r.asid off = { q with t := (q.t + 1) % q.wrap } ∧
        ∀ i < q.size / 8, t.sspWord r.asid (q.slot off q.t + 8 * i) = lineWord data i ∧ t.tag (q.slot off q.t + 8 * i) = 14) ∧
    (∀ w, (s.waiters.find? fun e => e.no == w.no) = some w → w.req = r → w.kind = .waiter →
      let q := if s.typeOf off = 5 then fld v 0 40 else 0
      let leaves (done signalled : Nat) (p : State → Prop) : Prop := ∃ t, exec (.waiterExpiry w.no) s = .next t ∧
        t.net = s.net ++ [reply (.trap 0x0A r.va (word (s.tag off * 2 ^ 60 + done * 2 ^ 59 + signalled * 2 ^ 58 + q)))] ∧
        t.cores = s.cores ∧ p t
      let gone (t : State) : Prop := t.waiters = s.waiters.filter fun e => e.no != w.no
      let voidAt (pa : Nat) (t : State) : Prop := t.mem = s.mem ∧ t.waiters.length = s.waiters.length ∧ ∀ e ∈ t.waiters, e.no = w.no →
        e.kind = .void ∧ e.deadline = 0 ∧ e.operand = w.operand ∧ e.req.pa = pa ∧ e.req.k = .lckAcq
      (w.deadline = 0 ∨ s.time.toNat < w.deadline → exec (.waiterExpiry w.no) s = .next s) ∧
      (w.deadline ≠ 0 → w.deadline ≤ s.time.toNat →
        (r.k ≠ .lckAcq → r.k ≠ .cndWait → leaves (if r.k = .barArw then 1 else 0) 0 (fun t => gone t ∧ t.mem = s.mem)) ∧
        (r.k = .lckAcq → leaves 0 0 (voidAt r.pa)) ∧
        (r.k = .cndWait → w.stage = 0 → leaves 1 0 (fun t => gone t ∧
          writesWords [(off, setFld v 0 32 (fld v 0 32 - 1), s.tag off)] r.asid s t)) ∧
        (r.k = .cndWait → w.stage = 1 → leaves 1 1 (voidAt r.lockPa)))) ∧
    (∀ w, (s.waiters.find? fun e => e.no == w.no) = some w → w.req = r → w.kind = .waiter →
      exec (.waiterEntryLost w.no) s = .next { s with
        waiters := s.waiters.filter fun e => e.no != w.no,
        net := s.net ++ [reply (.trap 0x12 r.va (word (r.maj * 256 + 4)))] })

/-! ### Events: flights (R308 to R321) -/

/-- A flight forms when every core of its rectangle has accepted: all run at the lowest tested frequency among them, STREAMPOS
takes the shape and the place of each core, and the stream begins after STRM.LEAD (FLIGHT_FORM; R310, R311, R322). Past its
limit it faults with reason 4 at its leader, naming the lowest core that has not accepted, and the others wait on
(FORMATION_TIMEOUT; R310, R320). A freeze ends 8 cycles after the last core dropped HOLD (FREEZE_END; R316). A step that traps when
its reply comes makes its core an originating one, and no step issues from 8 cycles later on (R319). A stream fault ends the flight,
when these cycles have passed and the issued steps are complete, with reason 6 at every slot-0 thread but the originating ones, at
its first step not executed (FLIGHT_ABORT; R319, R320; log entries 38 and 115). When every core has executed STRM.END the leader
goes on (FLIGHT_END; R321). -/
def Obligations.FlightEvents : Prop :=
  ∀ (s : State) (l : Nat) (f : Flight), tget? s.flights l = some f → onDie f l → s.stream = none →
    let lead := s.thread l 0
    (f.formed = false → (∀ c ∈ f.cores l, c ∈ f.accepted ∧ s.liveCore c = true) →
      ∃ t f', exec (.flightForm l) s = .next t ∧ t.mem = s.mem ∧ t.net = s.net ∧ tget? t.flights l = some f' ∧ f'.formed = true ∧
        f'.start = lead.pc + 4 ∧ f'.items = f.items ∧ f'.resume = f.resume ∧ (t.thread l 0).pc = lead.pc + 4 ∧
        (∀ c ∈ f.cores l, f'.clock ≤ s.tested c) ∧ (∃ c ∈ f.cores l, f'.clock = s.tested c) ∧
        ∀ c ∈ f.cores l, (t.coreAt c).flight = some l ∧ (t.thread c 0).life = .runnable ∧ (c ≠ l → (t.thread c 0).pc = (s.thread c 0).pc) ∧
          (t.coreAt c).spos = word (2 ^ 63 + (if c = l then 2 ^ 62 else 0) + f.w * 2 ^ 48 + f.h * 2 ^ 44 +
            (c / 32 - l / 32) * 2 ^ 40 + (c % 32 - l % 32) * 2 ^ 36)) ∧
    (f.formed = false → (∃ c ∈ f.cores l, c ∉ f.accepted) → exec (.flightForm l) s = .next s) ∧
    (∀ c, f.formed = false → f.deadline ≠ 0 → f.deadline ≤ s.time.toNat → c ∈ f.cores l → c ∉ f.accepted →
      (∀ n ∈ f.cores l, n < c → n ∈ f.accepted) → lead.wait = none → handles lead 0x13 → s.streams l 0 = false →
      ∃ t, exec (.formationTimeout l) s = .next t ∧ t.mem = s.mem ∧ tget? t.flights l = none ∧
        inHandler lead (t.thread l 0) 0x13 (word c) 4 lead.pc ∧ ∀ n, n ≠ l → (t.coreAt n).threads = (s.coreAt n).threads) ∧
    (f.frozen = true → (8 ≤ f.calm → (∀ c ∈ f.supplied l, s.stepReady c = true) →
        exec (.freezeEnd l) s = .next { s with flights := tset l { f with frozen := false } s.flights }) ∧
      ((f.calm < 8 ∨ ∃ c ∈ f.supplied l, s.stepReady c = false) → exec (.freezeEnd l) s = .next s)) ∧
    (∀ src c id cause v1 v2 o w rest, let th := s.thread c 0
      (s.coreAt c).flight = some l → cause < 256 → (th.outs.find? fun o => o.id == id) = some o → o.dst = .none → th.wait = some w →
      w.id = id → w.kind = .typed → handles th cause → heads s src (.core c) (.reply 0 id (.trap cause v1 v2)) rest →
      threadReply s c id (.trap cause v1 v2) → direct th id (some o) → ∃ t f', exec (.resultFill src (.core c)) s = .next t ∧ t.mem = s.mem ∧
        tget? t.flights l = some f' ∧ c ∈ f'.origins ∧ (f.origins = [] → f'.cause = cause) ∧
        f'.stop = some (f.stop.getD 8) ∧ tget f'.steps c 0 = tget f.steps c 0 - 1 ∧
        bitOf (t.thread c 0).trapcause 9 = true ∧ fld (t.thread c 0).trapcause 0 8 = cause ∧ (t.thread c 0).trappc = th.pc ∧
        (t.thread c 0).pc = word (fld th.trapvec 1 56 * 2)) ∧
    (f.origins = [] ∨ f.stop ≠ some 0 ∨ (∃ c ∈ f.active l, (s.thread c 0).wait ≠ none) → exec (.flightAbort l) s = .next s) ∧
    (∀ o more, f.origins = o :: more → (∀ c ∈ f.active l, (s.thread c 0).wait = none) → f.stop = some 0 → ∃ t, exec (.flightAbort l) s = .next t ∧ t.mem = s.mem ∧
        tget? t.flights l = none ∧ ∀ c ∈ f.cores l, c ∉ f.left → (t.coreAt c).flight = none ∧
          (c ∈ f.origins → (t.thread c 0).pc = (s.thread c 0).pc ∧ (t.thread c 0).life = (s.thread c 0).life) ∧
          (c ∉ f.origins → (s.thread c 0).live = true → handles (s.thread c 0) 0x13 →
            inHandler (s.thread c 0) (t.thread c 0) 0x13 (word o) (word (f.cause * 256 + 6)) (f.addr (tget f.steps c 0)))) ∧
    (f.formed = true → (∀ c ∈ f.cores l, c ∈ f.left) → lead.life = .parked .streamEnd → ∃ t, exec (.flightEnd l) s = .next t ∧
      t.mem = s.mem ∧ tget? t.flights l = none ∧ t.thread l 0 = { lead with life := .runnable } ∧
      ∀ n, n ≠ l → t.coreAt n = s.coreAt n)

/-! ### Events: the engines (R154 to R187, R251 to R262) -/

/-- The matrix unit performs the head of its queue (MATRIX_ENTRY_COMPLETE; R167 to R176), stated for operands in the own
scratchpad: MWL fills the shadow latch; MMA adds the rounded products of each row to the tile; ACCCFG and
ACCZERO clear a tile; ACCADD adds one to another; ACCRD writes the selected rows converted, and ACCSAVE the tile image; ACCLOAD takes
an image, or traps with ACCLIVE reason 2; MSTAT answers a status. MWL and MMA with SIG = 1 send their addition of 1 to the counter
(R214), and a counter on a device that has become unreachable leaves the thread a deferred UNCORR (R417). The thread that waits for an
entry goes on past it (R159), unless it has set the instruction aside (log entry 8); the stores of ACCRD and ACCSAVE count for it from issue on (R210), and where another thread has its
slot by now they are made without a change of it (R163). The shadow latch becomes the active one (SHADOW_ACTIVATE; R168). -/
def Obligations.MatrixEntries : Prop :=
  ∀ (s : State) (c : Nat) (m : MatCmd) (more : List MatCmd) (off : Nat), c < 768 → (s.coreAt c).mq = m :: more → m.asked = false →
    s.matrixReady c m = true → s.podGone.contains s.devnum = false → memoriesCanonical s →
    let k := s.coreAt c
    let slot := m.ctx.slot
    let th := s.thread c slot
    let here : Prop := m.ctx.sig = true → paDev m.ctx.sigPa = s.devnum
    let counts (maj : Nat) : List Msg := if m.ctx.sig then
      [⟨.core c, .slice (homeSlice (paOff m.ctx.sigPa) true), .typed ⟨.sig s.devnum c slot m.id, .cntAdd, maj, m.ctx.sigPa, m.ctx.sigVa, 1,
        0, true, .wait 0, 0, m.ctx.asid.toNat⟩⟩] else []
    let waiting : Prop := direct th m.id none ∧ ∃ w, th.wait = some w ∧ w.kind = .matrix ∧ w.id = m.id ∧ w.len = 4 ∧
      w.dst = match m.op with | .mstat _ _ d => .g d 8 false | _ => .none
    let sent : Thread := { th with outs := th.outs.filter fun o => o.id != m.id }
    let sends (sent : List Msg) (q : State → Prop) : Prop := ∃ t, exec (.matrixEntryComplete c) s = .next t ∧
      (t.coreAt c).mq = more ∧ t.mem = s.mem ∧ t.net = s.net ++ sent ∧ q t
    let performs (q : State → Prop) : Prop := sends [] q
    let pieces (a : Word) (from_ n : Nat) : List (Word × Place) :=
      (List.range (n / 64)).map fun i => (a + word (from_ + 64 * i), .own (off + from_ + 64 * i))
    let others (n : Nat) (t : State) : Prop := ∀ i, i ≠ n → (t.coreAt c).tile i = k.tile i
    (∀ f a, m.op = .mwl f a → let n := tileBytes f / 8
      ownOperand s c m.ctx a n off → (∀ w ∈ spmWords s c off n, w.2 = false) →
      let bits := wordsNat (spmWords s c off n)
      (m.ctx.sig = true → s.podGone.contains (paDev m.ctx.sigPa) = true → th.live = true → sends [] (fun t =>
        (t.thread c slot).deferred = th.deferred ++ [⟨0x12, m.ctx.sigVa, word (2 ^ 63 + 2 ^ 16 + 0x34 * 2 ^ 8 + 5)⟩])) ∧
      (here → sends (counts 0x34) (fun t => t.thread c slot = th ∧ ∃ l, (t.coreAt c).shadow = some l ∧ l.format = f ∧ l.k = tileDepth f ∧ l.src = a ∧
        l.werr = false ∧ l.valid = true ∧ l.holder = slot ∧ (t.coreAt c).active = k.active ∧
        ∀ j < tileDepth f, ∀ n < 64,
          tget l.w (j * 64 + n) 0 = elemCode f (bits / 2 ^ (8 * (n * colBytes f)) % 2 ^ (8 * colBytes f)) j))) ∧
    (∀ f n a rows, m.op = .mma f n a rows → rows ≤ 64 → here → let rs := rowStride f k.active.k
      ownOperand s c m.ctx a (rows * rs / 8) off → (∀ w ∈ spmWords s c off (rows * rs / 8), w.2 = false) →
      let bits := wordsNat (spmWords s c off (rows * rs / 8))
      sends (counts 0x35) (fun t => others n t ∧ t.thread c slot = th ∧ let x := (t.coreAt c).tile n
        x.live = true ∧ x.holder = some ((k.tile n).holder.getD slot) ∧ x.anchor = (k.tile n).anchor ∧
        x.err = ((k.tile n).err || k.active.werr) ∧ ∀ r < 64, ∀ j < 64, x.at (r * 64 + j) = (k.tile n).at (r * 64 + j) +
          (if r < rows then BitVec.ofInt 96 ((products k.active
            (rowPreps f k.active.k (bits / 2 ^ (8 * rs * r) % 2 ^ (8 * rs)) (r * rs) []) j (k.tile n).e).foldl (· + ·) 0) else 0))) ∧
    (∀ n e u, m.op = .acccfg n e u → performs (fun t => others n t ∧ t.thread c slot = th ∧
      (t.coreAt c).tile n = { anchor := e, holder := some slot })) ∧
    (∀ n, m.op = .acczero n → performs (fun t => others n t ∧ t.thread c slot = th ∧
      (t.coreAt c).tile n = { anchor := (k.tile n).anchor, holder := (k.tile n).holder })) ∧
    (∀ d x, m.op = .accadd d x → performs (fun t => others d t ∧ t.thread c slot = th ∧ let y := (t.coreAt c).tile d
      (∀ i, y.at i = (k.tile d).at i + (k.tile x).at i) ∧ y.anchor = (k.tile d).anchor ∧
      y.prange = ((k.tile d).prange || (k.tile x).prange) ∧ y.pinv = ((k.tile d).pinv || (k.tile x).pinv) ∧
      y.psat = ((k.tile d).psat || (k.tile x).psat) ∧ y.err = ((k.tile d).err || (k.tile x).err) ∧
      y.live = ((k.tile d).live || (k.tile x).live) ∧ y.holder = some ((k.tile d).holder.getD slot))) ∧
    (∀ n f a rows last, m.op = .accrd n f a rows last → waiting → (rows ≠ 0 → s.storesCounted c m = true) → let rb := accRowBytes f
      m.writes = ((List.range 64).filter rows.testBit).flatMap (fun r => pieces a (r * rb) rb) →
      performs (fun t => (t.coreAt c).tiles = k.tiles ∧
        (∀ r < 64, rows.testBit r = true → mbytes (t.coreAt c).spm (off + r * rb) rb = (accRow (k.tile n) f r).1) ∧
        (∀ b, (∀ r < 64, rows.testBit r = true → b < off + r * rb ∨ off + r * rb + rb ≤ b) →
          mread (t.coreAt c).spm b = mread k.spm b) ∧
        t.thread c slot = matrixDone { sent with fpflags := (t.thread c slot).fpflags } ∧
        ∀ i < 5, bitOf (t.thread c slot).fpflags i = (bitOf th.fpflags i ||
          (List.range 64).any fun r => rows.testBit r && bitOf (accRow (k.tile n) f r).2 i))) ∧
    (∀ n a, m.op = .accsave n a → m.writes = pieces a 0 49216 → performs (fun t => (t.coreAt c).tiles = k.tiles ∧
      mbytes (t.coreAt c).spm off 49216 = tileImage (k.tile n) ∧
      (waiting → s.storesCounted c m = true → t.thread c slot = matrixDone sent) ∧
      (th.wait = none → s.storesCounted c m = false → t.thread c slot = th) ∧
      ∀ b, b < off ∨ off + 49216 ≤ b → mread (t.coreAt c).spm b = mread k.spm b)) ∧
    (∀ n a, m.op = .accload n a → waiting → ownOperand s c m.ctx a 6152 off → let words := spmWords s c off 6152
      (imageOk words = true → (∀ w ∈ words, w.2 = false) → performs (fun t => others n t ∧ t.thread c slot = matrixDone th ∧
        let x := (t.coreAt c).tile n
        (∀ i < 4096, x.at i = BitVec.ofNat 96 (wordsNat (words.drop 8) / 2 ^ (96 * i))) ∧ x.holder = some slot ∧
        x.anchor = BitVec.ofNat 10 (words.getD 1 (0, false)).1)) ∧
      (imageOk words = false → handles th 0x0C → s.streams c slot = false → performs (fun t => (t.coreAt c).tiles = k.tiles ∧
        inHandler th (t.thread c slot) 0x0C (word n) (word (2 * 2 ^ 56 + (k.tile n).anchor.toNat)) th.pc))) ∧
    (∀ i clear d, m.op = .mstat i clear d → waiting → i < 16 → (∀ j < 4, tget th.wch j 0 = 0) →
      let v := if i < 8 then tget k.mlog i 0 else if i < 12 then (k.tile (i - 8)).status
        else if i = 12 then word (TyCode.code k.active.format + k.active.k * 2 ^ 4 + k.active.holder * 2 ^ 16 +
          b2n k.active.valid * 2 ^ 20 + b2n k.active.werr * 2 ^ 21)
        else if i = 13 then k.active.src else if i = 14 then k.logHeader else 0
      performs (fun t => t.thread c slot = matrixDone (th.putG d v) ∧ (clear = false → (t.coreAt c).mlog = k.mlog ∧
          (t.coreAt c).tiles = k.tiles ∧ (t.coreAt c).logHeader = k.logHeader) ∧
        (clear = true → (i < 8 → bitOf (tget (t.coreAt c).mlog i 0) 63 = false) ∧
          (i = 14 → (t.coreAt c).mlogOver = false ∧ (t.coreAt c).mlogErr = 0) ∧
          (8 ≤ i → i < 12 → (t.coreAt c).tile (i - 8) =
            { k.tile (i - 8) with prange := false, pinv := false, psat := false, err := false })))) ∧
    (∀ w, k.shadow = some w → ∃ t, exec (.shadowActivate c) s = .next t ∧ t.coreAt c = { k with active := w, shadow := none } ∧
      t.mem = s.mem ∧ t.net = s.net ∧ ∀ n, n ≠ c → t.coreAt n = s.coreAt n)

/-- The copy engine starts the head of its queue when its ACQ holds, and otherwise waits (COPY_START; R213, R251); none starts in
the stop bath of an SPCFG (R243), and the commands of a fenced core neither start nor complete (R379). A COPY of one
row of words of the own scratchpad, read whole before any of it is written (R254), lands them, by as many micro-steps as the event
allows; the micro-steps and their order within a row are the model's choice (log entry 17). A command whose data has landed
fills its status register and leaves the queue, its record written before (COPY_COMPLETE; R258), and the follow-on of a CPYM enters
the matrix queue (R179); with SIG = 1 it sends its addition of 1 to the counter, and without REL and record it may complete with its
writes still on their way (R214). It does so where no write can fail, or where it has no status register either: the model's choice
(log entry 19). ROWSDONE is the row of the first write still to be made, or the number of rows read where none is. A command that a
fault has stopped, at a read or at a write, leaves with RESULT 2 and a record of the address and the reason, or posts COPYFAULT where
it has neither a status register nor a record (COPY_STOP; R260). -/
def Obligations.CopyEvents : Prop :=
  ∀ (s : State) (c : Nat) (m : CopyCmd) (more : List CopyCmd), c < 768 → (s.coreAt c).cq = m :: more →
    memoriesCanonical s →
    let k := s.coreAt c
    let d := descOf m.x
    let slot := m.ctx.slot
    let th := s.thread c slot
    let counts : List Msg := if m.ctx.sig then
      [⟨.core c, .slice (homeSlice (paOff m.ctx.sigPa) true), .typed ⟨.sig s.devnum c slot m.id, .cntAdd, if m.m then 0x33 else 0x32,
        m.ctx.sigPa, m.ctx.sigVa, 1, 0, true, .wait 0, 0, m.ctx.asid.toNat⟩⟩] else []
    (k.fenced = true → (∀ steps, exec (.copyStart ⟨c, steps⟩) s = .next s) ∧ exec (.copyComplete c) s = .next s ∧
      exec (.copyStop c) s = .next s) ∧
    (∀ steps x off n v, k.lateq = [x] → x.id = none → x.place = some (.own off) → x.w = .acc (.store n v) → 0 < steps →
      k.fenced = false → k.spcfg ≠ none → m.run = none → s.copyHeld c m = false → ∃ t, exec (.copyStart ⟨c, steps⟩) s = .next t ∧
        (t.coreAt c).lateq = [] ∧ (t.coreAt c).cq = k.cq ∧ t.mem = s.mem ∧ (∀ u, t.thread c u = s.thread c u) ∧
        mbytes (t.coreAt c).spm off n = leBytes n v.toNat ∧
        ∀ a, a < off ∨ off + n ≤ a → mread (t.coreAt c).spm a = mread k.spm a) ∧
    (∀ steps, m.run = none → (m.ctx.acq = false ∨ s.beforeDone c m.ctx = true) → s.copyHeld c m = false → k.lateq = [] →
      k.fenced = false → k.spcfg = none →
      (∃ t r, exec (.copyStart ⟨c, steps⟩) s = .next t ∧ (t.coreAt c).cq = { m with run := some r } :: more) ∧
      ∀ from_ to_ n, d.op = 0 → d.rows = 1 → d.len = 8 * n → 0 < n → ownOperand s c m.ctx d.src n from_ →
        ownOperand s c m.ctx d.dst n to_ → d.src.toNat % 8 = 0 → d.dst.toNat % 8 = 0 → (∀ w ∈ spmWords s c from_ n, w.2 = false) →
        2 * n + 2 ≤ steps → ∃ t r, exec (.copyStart ⟨c, steps⟩) s = .next t ∧ (t.coreAt c).cq = { m with run := some r } :: more ∧ r.moved = true ∧
          r.stop = none ∧ r.poisoned = 0 ∧ r.flags = 0 ∧ r.row = 1 ∧ r.writes = [] ∧ t.mem = s.mem ∧ (∀ u, t.thread c u = s.thread c u) ∧
          mbytes (t.coreAt c).spm to_ (8 * n) = mbytes k.spm from_ (8 * n) ∧
          ∀ a, a < to_ ∨ to_ + 8 * n ≤ a → mread (t.coreAt c).spm a = mread k.spm a) ∧
    (∀ steps, m.run = none → k.spcfg ≠ none ∨ (m.ctx.acq = true ∧ s.beforeDone c m.ctx = false) → s.copyHeld c m = false → k.lateq = [] →
      exec (.copyStart ⟨c, steps⟩) s = .next s) ∧
    (∀ r, m.run = some r → m.ctx.rel = true → r.moved = false → r.stop = none → exec (.copyComplete c) s = .next s) ∧
    (∀ r, m.run = some r → r.await = none → r.follow = none → r.recFail = none → r.record = 0 →
      k.fenced = false → (m.ctx.sig = true → paDev m.ctx.sigPa = s.devnum) → s.podGone.contains s.devnum = false →
      let x5 := tget m.x 5 0
      let status (follow : Nat) : Word := word (rowsDone d r * 2 ^ 32 + r.poisoned * 2 ^ 16 + r.flags.toNat * 2 ^ 8 + follow * 2 ^ 4 +
        (if r.stop.isSome then 2 else if r.poisoned = 0 then 0 else 1))
      let leaves (i : Instr) (v : Word) (q : State → Prop) : Prop := ∃ t, exec i s = .next t ∧ (t.coreAt c).cq = more ∧
        t.mem = s.mem ∧ t.net = s.net ++ counts ∧ (t.thread c slot).pc = th.pc ∧
        ((∃ a, m.dst ≠ 0 ∧ th.gs m.dst = .pending m.id .copy a) → (t.thread c slot).gv m.dst = v ∧ (t.thread c slot).gs m.dst = .full) ∧
        q t
      let records (off : Nat) (w0 w1 w2 : Word) (t : State) : Prop := mnum (t.coreAt c).spm off 8 = w0.toNat ∧
        mnum (t.coreAt c).spm (off + 8) 8 = w1.toNat ∧ mnum (t.coreAt c).spm (off + 16) 8 = w2.toNat ∧
        (∀ i < 5, mnum (t.coreAt c).spm (off + 24 + 8 * i) 8 = (r.items.getD i 0).toNat) ∧
        ∀ a, a < off ∨ off + 64 ≤ a → mread (t.coreAt c).spm a = mread k.spm a
      let moved : Prop := r.moved = true ∧ r.stop = none ∧ r.writes = []
      let certain : Prop := ∀ w ∈ r.writes, w.2.2 ≠ .acc .taint ∧ (s.landing c m.ctx w.2.1 w.2.2.size).isSome = true
      (r.stop = none → r.moved = false →
        (m.ctx.rel = false → m.m = false → d.op ≠ 3 → x5 = 0 → d.rows ≤ r.row →
          (m.dst = 0 ∨ certain → leaves (.copyComplete c) (status 0) (fun t => (t.coreAt c).spm = k.spm ∧
            (t.coreAt c).lateq = k.lateq ++ r.writes.map fun w =>
              ⟨m.ctx, m.id, w.2.1, w.2.2, s.landing c m.ctx w.2.1 w.2.2.size, none⟩)) ∧
          (m.dst ≠ 0 → ¬ certain → exec (.copyComplete c) s = .next s)) ∧
        (m.ctx.rel = true ∨ m.m = true ∨ d.op = 3 ∨ x5 ≠ 0 ∨ r.row < d.rows → exec (.copyComplete c) s = .next s)) ∧
      (moved → m.m = false → x5 = 0 → leaves (.copyComplete c) (status 0) (fun t => (t.coreAt c).spm = k.spm ∧
        (m.dst = 0 → t.thread c slot = th))) ∧
      (∀ off, moved → m.m = false → x5 ≠ 0 → ownOperand s c m.ctx x5 8 off →
        leaves (.copyComplete c) (status 0) (records off (status 0) 0 0)) ∧
      (∀ f, moved → m.m = true → x5 = 0 → followOf (tget m.x 6 0) (tget m.x 7 0) = some f → k.mq.length < 16 →
        (f.bytes k.depthAfter ≤ m.follow → leaves (.copyComplete c) (status 1) (fun t =>
          ∃ e, (t.coreAt c).mq = k.mq ++ [e] ∧ e.op = f.op ∧ e.own = m.own ∧ e.lines = m.lines ∧ e.ctx.slot = slot)) ∧
        (m.follow < f.bytes k.depthAfter → leaves (.copyComplete c) (status 3) (fun t => (t.coreAt c).mq = k.mq))) ∧
      (r.stop = none → exec (.copyStop c) s = .next s) ∧
      let st := status (if m.m then 2 else 0)
      (∀ va why, r.stop = some (va, why) →
        (x5 = 0 → leaves (.copyStop c) st (fun t => (t.coreAt c).mq = k.mq ∧ (t.coreAt c).spm = k.spm ∧
          (m.dst = 0 → th.live = true → (t.thread c slot).deferred = th.deferred ++ [⟨0x15, va, word (2 ^ 63 + why)⟩]))) ∧
        ∀ off, x5 ≠ 0 → ownOperand s c m.ctx x5 8 off → leaves (.copyStop c) st (fun t => (t.coreAt c).mq = k.mq ∧
          records off st va (word why) t ∧ (m.dst = 0 → t.thread c slot = th))))

/-! ### Events: the device and its cores (R27 to R38, R243, R307, R330, R351, R374 to R376, R402) -/

/-- Bring-up and time. COLD_RESET leaves the reset state with the fuses it loads and their summary (R30, R38). The first PTP lock
sets TIME (R38 step 6), BRING_UP_RELEASE takes DEVNUM from the configuration area and waits without one (R38 steps 7, 8), and
from then on PTP changes the rate of TIME alone, within 200 ppm, or 10 ppm in holdover (R330). After a failed step no further one is
taken (R38). The security alarm erases
the root key and all but HBM, and sends notice 0xC3 (R374); that notices sent before stay to be acknowledged is the model's choice
(log entry 72). -/
def Obligations.BringUpTimeAlarm : Prop :=
  ∀ (s : State),
    (∀ f : Fuses, fusesOk f = true → ∃ t, exec (.coldReset f) s = .next t ∧ t.mem = [] ∧ t.cores = [] ∧ t.net = [] ∧
      t.time = 0 ∧ t.locked = false ∧ t.bring = 5 ∧ t.rootKey = true ∧ t.alarm = none ∧ t.groups = [] ∧ t.launches = [] ∧
      t.mgmt.stored = s.mgmt.stored ∧ (∀ c < 768, t.speedAt c = f.speed.getD c 0) ∧
      fld (t.speedAt 768) 22 10 = (f.speed.filter fun e => bitOf e 31).length % 1024 ∧
      ∀ c < 768, c ∈ t.bypass ↔ bitOf (f.speed.getD c 0) 31 = false) ∧
    (∀ ns, s.bring = 5 → s.bringFail = none → s.alarm = none →
      exec (.ptpFirstLock ns) s = .next { s with time := ns, frac := 0, ppm := 0, locked := true, bring := 6 }) ∧
    (∀ ns, s.bring ≠ 5 ∨ s.bringFail ≠ none → exec (.ptpFirstLock ns) s = .next s) ∧
    (∀ n, s.mgmt.stored = some n → s.bring = 6 → s.bringFail = none → s.alarm = none →
      exec .bringUpRelease s = .next { s with devnum := n, bring := 8, groups := [], tt := [], cores := [] }) ∧
    (s.mgmt.stored = none ∨ s.bringFail ≠ none → exec .bringUpRelease s = .next s) ∧
    (∀ ppm, s.locked = true → s.alarm = none → ∃ p, exec (.ptpMessage ppm) s = .next { s with ppm := p, holdover := false } ∧
      -200 ≤ p ∧ p ≤ 200 ∧ (-200 ≤ ppm → ppm ≤ 200 → p = ppm)) ∧
    (s.locked = true → s.alarm = none → ∃ p, exec .grandmasterLoss s =
      .next { s with ppm := p, holdover := true, txn := s.txn + 1 } ∧ -10 ≤ p ∧ p ≤ 10) ∧
    (∀ causes dies reading, s.alarm = none → causes ≠ 0 → ∃ t a, exec (.securityAlarm causes dies reading) s = .next t ∧
      t.alarm = some a ∧ a.time = s.time ∧ a.causes = causes ∧ a.dies = dies ∧ t.rootKey = false ∧ t.cores = [] ∧ t.dir = [] ∧
      t.waiters = [] ∧ t.net = [] ∧ t.podOut = [] ∧ t.mem = s.mem ∧
      ∃ n, t.notices = s.notices ++ [n] ∧ n.typ = 0xC3 ∧ t.hostOut = s.hostOut ++ [n.out]) ∧
    (∀ causes dies reading, s.alarm ≠ none → exec (.securityAlarm causes dies reading) s = .next s)

/-- Changes at a core or a slice. A frequency change holds for the core, and raises INTPEND.FREQ in its live threads (FREQ_CHANGE;
R31, R351); a hot die lowers each live core by 25 MHz (DIE_THROTTLE; R37); a doorbell sets INTPEND.DOORBELL (FIRMWARE_DOORBELL;
R351). An SPCFG whose drains are over changes the ways, and bytes of ways that leave are lost; ways join once no line of the L1 awaits
an upgrade (SPCFG_APPLY; R243; log entry 90). A REPART whose
core is quiet ends its thread and changes the partition (REPART_APPLY; R307). Background checking counts corrected errors, and
poisons a word it cannot correct, at the slice or stack that holds it (SCRUB; R20, R375, R376). A damaged directory entry is rebuilt from a recall, and a dirty copy that cannot
be read is poison (DIRECTORY_REBUILD; R375). An enabled contact sheet takes a sample of its source when its filter admits the slot
(CONTACT_SHEET_SAMPLE; R402, R403); one of source 8 takes the cycles between two issues of a slot as they come. The model's choices: FILTER says nothing of sources 5 to 7 (log entry 101), and an error of the
staging buffer names a word of the row that has been read (log entry 108). -/
def Obligations.CoreAndSliceEvents : Prop :=
  ∀ (s : State) (c : Nat), c < 768 →
    let k := s.coreAt c
    (∀ mhz, s.up = true → s.liveCore c = true → k.flight = none → mhz % 25 = 0 → 1500 ≤ mhz → mhz ≤ s.tested c →
      ∃ t, exec (.freqChange c mhz) s = .next t ∧ t.mhz c = mhz ∧ (∀ n, n ≠ c → t.coreAt n = s.coreAt n) ∧
        (mhz ≠ s.mhz c → ∀ e ∈ k.threads, e.2.live = true →
          (e.1, { e.2 with intpend := setBit e.2.intpend 1 true }) ∈ (t.coreAt c).threads) ∧
        (mhz = s.mhz c → (t.coreAt c).threads = k.threads)) ∧
    (∀ mhz, s.tested c < mhz ∨ mhz < 1500 → exec (.freqChange c mhz) s = .next s) ∧
    (∀ d < 4, s.up = true → ∃ t, exec (.dieThrottle d) s = .next t ∧ ∀ n < 768,
      (dieOf n = d → s.liveCore n = true → 1525 ≤ s.allowed n → t.allowed n = s.allowed n - 25) ∧
      (dieOf n ≠ d ∨ s.liveCore n = false ∨ s.allowed n < 1525 → t.allowed n = s.allowed n)) ∧
    (∃ t, exec (.firmwareDoorbell c) s = .next t ∧ (∀ n, n ≠ c → t.coreAt n = s.coreAt n) ∧ (t.coreAt c).threads =
      k.threads.map fun e => (e.1, if e.2.live then { e.2 with intpend := setBit e.2.intpend 0 true } else e.2)) ∧
    (∀ u w, k.spcfg = some (u, w) → k.mq = [] → k.cq = [] → k.lateq = [] → (s.thread c u).life = .parked .drain →
      let done (t : State) : Prop := (t.coreAt c).ways = w ∧ (t.coreAt c).spcfg = none ∧ t.mem = s.mem ∧
        t.thread c u = { s.thread c u with life := .runnable, pc := (s.thread c u).pc + 4 }
      (w < k.ways → ∃ t, exec (.spcfgApply c []) s = .next t ∧ done t ∧ ∀ a,
        mread (t.coreAt c).spm a = if a < w * 131072 then mread k.spm a else 0) ∧
      (k.ways ≤ w → (∀ e ∈ k.l1, e.2.st ≠ .sm ∧ e.2.st ≠ .om) →
        ∃ t, exec (.spcfgApply c []) s = .next t ∧ done t ∧ (t.coreAt c).spm = k.spm)) ∧
    (∀ u w, k.spcfg = some (u, w) →
      k.mq ≠ [] ∨ k.lateq ≠ [] ∨ (k.ways < w ∧ ∃ e ∈ k.l1, e.2.st = .sm ∨ e.2.st = .om) → exec (.spcfgApply c []) s = .next s) ∧
    (∀ u p, k.repart = some (u, p) → (∀ v ∈ k.liveSlots, v = u) → k.mq = [] → k.cq = [] → k.lateq = [] →
      k.kw = [] → k.flight = none →
      relReady .pod (s.thread c u).outs = true → (s.thread c u).life = .parked .drain → (s.thread c u).held = false →
      ∃ t, exec (.repartApply c) s = .next t ∧ (t.coreAt c).part = p ∧ (t.coreAt c).repart = none ∧ (t.coreAt c).threads = [] ∧
        t.mem = s.mem ∧ (t.coreAt c).spm = k.spm ∧
        ∀ l, (s.thread c u).launch = some l → (s.bind c u).valid = true → (s.bind c u).launch = l →
          (s.bind c u).state = 1 → (t.bind c u).state = 2) ∧
    (∀ u p, k.repart = some (u, p) → k.mq ≠ [] → exec (.repartApply c) s = .next s) ∧
    (∀ unit loc n, unit < 6 → ∃ t, exec (.scrub (.core c) (.corrected unit loc n)) s = .next t ∧ t.mem = s.mem ∧
      (t.coreAt c).spm = k.spm ∧ (t.coreAt c).spmBad = k.spmBad ∧ bitOf (t.coreAt c).merrlog 63 = true ∧
      fld (t.coreAt c).merrlog 60 3 = unit ∧ fld (t.coreAt c).merrlog 58 2 = 0 ∧
      fld (t.coreAt c).merrlog 32 16 = min 65535 (fld k.merrlog 32 16 + n)) ∧
    (∀ off, ∃ t, exec (.scrub (.core c) (.spmWord off)) s = .next t ∧ (t.coreAt c).spm = k.spm ∧
      (∀ w, w ∈ (t.coreAt c).spmBad ↔ w = off / 8 ∨ w ∈ k.spmBad) ∧ fld (t.coreAt c).merrlog 58 2 = 1) ∧
    (∀ off r w, k.cq.head?.bind (fun m => m.run) = some r → r.got[off / 8]? = some w → ∃ t r', exec (.scrub (.core c) (.stagingWord off)) s =
      .next t ∧ t.mem = s.mem ∧ (t.coreAt c).cq.head?.bind (fun m => m.run) = some r' ∧ r'.got = r.got.set (off / 8) (w.1, true) ∧
      fld (t.coreAt c).merrlog 60 3 = 4 ∧ fld (t.coreAt c).merrlog 58 2 = 1) ∧
    (∀ n m, n < 128 → exec (.scrub (.slice n) (.corrected 0 0 m)) s = .next { s with sliceErr := tset n (tget s.sliceErr n 0 + m) s.sliceErr } ∧
      exec (.scrub (.slice n) (.hbm m)) s = .next { s with hbmErr := tset (n / 16) (tget s.hbmErr (n / 16) 0 + m) s.hbmErr }) ∧
    (∀ n off, n < 128 → let poisons (f : Scrubbed) (q : State → Prop) : Prop :=
        (homedAt n off = true → ∃ t, exec (.scrub (.slice n) f) s = .next t ∧ t.mem = s.mem ∧ t.cores = s.cores ∧
          (∀ w, w ∈ t.memBad ↔ w = off % 2 ^ 39 / 8 ∨ w ∈ s.memBad) ∧ q t) ∧
        (homedAt n off = false → exec (.scrub (.slice n) f) s = .next s)
      poisons (.homeWord off) (fun t => tget t.sliceErr n 0 = tget s.sliceErr n 0 + 1 ∧ t.hbmErr = s.hbmErr) ∧
      poisons (.hbmWord off) (fun t => tget t.hbmErr (n / 16) 0 = tget s.hbmErr (n / 16) 0 + 1 ∧ t.sliceErr = s.sliceErr)) ∧
    (∀ line o d, d = tget s.dir line {} → d.owner = some o → d.sharers = [] → d.busy = none → d.queue = [] → ∃ t b,
      exec (.directoryRebuild ⟨line, false⟩) s = .next t ∧ tget t.dir line {} = { d with busy := some b } ∧ b.acks = [o] ∧ b.req.k = .flush ∧
      t.mem = s.mem ∧ t.net = s.net ++ [⟨.slice (homeSlice (line * 64) false), .core o, .fwd line true .home⟩]) ∧
    (∀ line l, (tget s.dir line {}).owner = some c → tget? k.l1 line = some l → l.st = .mod → l.via.priv = false → ∃ t,
      exec (.directoryRebuild ⟨line, true⟩) s = .next t ∧ tget? (t.coreAt c).l1 line = some { l with lv := { l.lv with bad := 0xFF } }) ∧
    (∀ line lost, (tget s.dir line {}).owner = none → (tget s.dir line {}).sharers = [] →
      exec (.directoryRebuild ⟨line, lost⟩) s = .next s) ∧
    (∀ i slot z v, i < 8 → let x := s.sheetAt (.core c) i
      let w := word (tget x 0 0)
      let source := fld w 48 8
      v = (if source = 5 then k.mq.length else if source = 6 then (k.l1.filter fun e => e.2.pm).length else z) → v < 2 ^ 64 →
      let admits : Prop := source = 5 ∨ source = 6 ∨ source = 7 ∨ (fld w 0 16).testBit slot = true
      let sampled (v : Nat) (t : State) : Prop := t.mem = s.mem ∧ let y := t.sheetAt (.core c) i
        let b := 4 + (if v / 2 ^ fld (word (tget x 0 0)) 40 5 < 2 then 0 else min 15 (Nat.log2 (v / 2 ^ fld (word (tget x 0 0)) 40 5)))
        tget y 0 0 = tget x 0 0 ∧ tget y 1 0 = (tget x 1 0 + 1) % 2 ^ 64 ∧ tget y 2 0 = min (tget x 2 0) v ∧
        tget y 3 0 = max (tget x 3 0) v ∧ tget y b 0 = min (2 ^ 32 - 1) (tget x b 0 + 1)
      (bitOf w 63 = true → admits → source ≠ 8 → ∃ t, exec (.contactSheetSample (.core c) i ⟨slot, z⟩) s = .next t ∧ sampled v t) ∧
      (∀ n now, k.sheets = [(i, x)] → bitOf w 63 = true → admits → source = 8 → tget? k.issued slot = some n →
        sampled (word now - word n).toNat (s.noteIssue c slot now)) ∧
      (bitOf w 63 = false ∨ ¬ admits ∨ source = 8 → exec (.contactSheetSample (.core c) i ⟨slot, z⟩) s = .next s))

/-! ### Events: the host port and launches (R325 to R346) -/

/-- The host port (R325 to R332, R344). MEMWR writes and MEMRD reads local memory on both sides of the carve-out of R263; STATUS 4
answers a range that meets the carve-out, a MEMWR to a pool word whose type is not 0 (R264), and a range of which a byte is on
another device. What is read under another ASID than a line's is recalled first (R372). LAUNCH admits a record
under a free number, or STATUS 5 gives its reason; TTSET writes a timed entry; the MGMT frames act as R329 lists, after a failure of
bring-up with its step and cause (R38), and after an alarm only an identity query is answered (R374). An ACK ends its
notice; a malformed header is answered STATUS 1. A repeated request gets its stored reply again and is not performed twice, one
beyond a gap is held, and one too far ahead is turned away (R328). Held requests behind a gap of 100 µs are answered STATUS 3
(HELD_REQUEST_TIMEOUT), and a notice is sent until it is acknowledged (NOTICE_RESEND; R327). The model's choices: one byte of step
and four of cause (log entry 102), an identity query answered outside the sequence after an alarm and no answer to the frame that
erases (log entry 72), a request that waits for a line in progress (log entry 103), and of the reasons of R332 that hold for a record the
lowest, 8 for one that cannot be read (log entry 80). The bytes of a MEMWR are stated where no core, message or directory entry holds
a line. -/
def Obligations.HostFrames : Prop :=
  ∀ (s : State) (f : Frame) (addr n : Nat) (data : List Byte) (l : Nat) (ws : List Word),
    let off := paOff addr
    let here (n : Nat) : Prop := addr / 2 ^ 39 = s.devnum ∧ (addr + n - 1) / 2 ^ 39 = s.devnum
    let carved (n : Nat) : Prop := off < 0x7E20000000 ∧ 0x7E00000000 < off + n
    let refuses (i : Instr) (typ status reason : Nat) : Prop := inTurn s f typ → ∃ t, exec i s = .next t ∧
      answered s t f status reason [] ∧ t.mem = s.mem ∧ t.cores = s.cores ∧ t.launches = s.launches
    let mgmt (i : Instr) (op : MgmtOp) (payload : List Byte) (q : State → Prop) : Prop := inTurn s f 6 → f.body = .mgmt op →
      (s.bringFail = none → ∃ t, exec i s = .next t ∧ answered s t f 0 0 payload ∧ t.mem = s.mem ∧ q t) ∧
      (∀ step cause, s.bringFail = some (step, cause) → ∃ t, exec i s = .next t ∧
        answered s t f 0 0 (leBytes 1 step ++ leBytes 4 cause) ∧ t.mem = s.mem ∧ t.cores = s.cores ∧ t.mgmt = s.mgmt)
    (f.body = .memwr addr data → inTurn s f 1 → n = data.length → 0 < n → here n → ¬ carved n →
      (∀ o ∈ poolWords addr n, s.typeOf o = 0) →
      ∃ t, exec (.memwr f) s = .next t ∧ answered s t f 0 0 [] ∧
        (s.cores = [] → s.net = [] → s.dir = [] → memoriesCanonical s → t.peekBytes f.asid off n = data ∧
          ∀ a, a < off ∨ off + n ≤ a → t.peekBytes f.asid a 1 = s.peekBytes f.asid a 1)) ∧
    (f.body = .memwr addr data → n = data.length → 0 < n →
      (¬ here n → refuses (.memwr f) 1 4 2) ∧
      (here n → carved n → refuses (.memwr f) 1 4 1) ∧
      (here n → (∃ o ∈ poolWords addr n, s.typeOf o ≠ 0) → refuses (.memwr f) 1 4 1)) ∧
    (f.body = .memrd addr n → 0 < n → n ≤ 8192 →
      (here n → ¬ carved n → inTurn s f 2 → (∀ i, (s.peekLine f.asid i).bad = 0) →
        ∃ t, exec (.memrd f) s = .next t ∧ answered s t f 0 0 (s.peekBytes f.asid off n) ∧
          (readsInPlace s f.asid off n → t.mem = s.mem ∧ t.cores = s.cores)) ∧
      (¬ here n → refuses (.memrd f) 2 4 2) ∧ (here n → carved n → refuses (.memrd f) 2 4 1)) ∧
    (f.body = .launch addr → addr / 2 ^ 39 = s.devnum → carved 64 → refuses (.launch f) 3 4 1) ∧
    (f.body = .launch addr → ¬ (addr / 2 ^ 39 = s.devnum ∧ carved 64) → inTurn s f 3 →
      let s0 := s.recordRead f.asid addr
      let answer (status reason : Nat) (payload : List Byte) (q : State → Prop) : Prop := ∃ t, exec (.launch f) s = .next t ∧
        answered s t f status reason payload ∧ t.mem = s0.mem ∧ t.cores = s0.cores ∧ q t
      let refused (status reason : Nat) : Prop := answer status reason [] (fun t => t.launches = s.launches)
      (readsInPlace s f.asid off 64 → s0 = s) ∧
      (s0.readRecord f.asid addr = some ws → s.recordReason ws f.asid = none → s.freeLaunch = some l →
        answer 0 0 [BitVec.ofNat 8 l] (fun t => ∃ e, tget? t.launches l = some e ∧ e.words = ws ∧
          e.parts = s.members (recGroup ws) ∧ e.src = f.src ∧ e.closed = [])) ∧
      (∀ r, s0.readRecord f.asid addr = some ws → s.recordReason ws f.asid = some r → refused 5 r) ∧
      (s0.readRecord f.asid addr = none → refused 5 8) ∧
      (s0.readRecord f.asid addr = some ws → s.recordReason ws f.asid = none → s.freeLaunch = none → refused 3 0)) ∧
    (∀ j, f.body = .ttset j true ws → j < 64 → s.ttOk ws = true → inTurn s f 4 → ∃ t e, exec (.ttset f) s = .next t ∧
      answered s t f 0 0 [] ∧ t.mem = s.mem ∧ tget? t.tt j = some e ∧ e.start = (ws.getD 0 0).toNat ∧ e.period = (ws.getD 1 0).toNat ∧
      e.record = (ws.getD 2 0).toNat ∧ e.valid = bitOf (ws.getD 3 0) 63 ∧ e.rule = fld (ws.getD 3 0) 61 2 ∧
      e.asid = fld (ws.getD 3 0) 32 16 ∧ e.save = (ws.getD 4 0).toNat ∧ e.missed = 0 ∧ e.src = f.src ∧
      (e.valid = true → s.time.toNat ≤ e.start → e.next = some e.start)) ∧
    mgmt (.mgmtIdentity f) .identity s.identity (fun t => t.cores = s.cores) ∧
    (∀ d, d < 32768 → mgmt (.mgmtSetDevnum f) (.setDevnum d) [] (fun t => t.mgmt.stored = some d ∧ t.devnum = s.devnum)) ∧
    (∀ x, x ≠ f.src → mgmt (.mgmtReleaseSource f) (.releaseSource x) [] (fun t => tget? t.sources x = none)) ∧
    (f.body = .mgmt .erase → inTurn s f 6 → s.bringFail = none → ∃ t a m, exec (.mgmtErase f) s = .next t ∧ t.alarm = some a ∧ a.causes = 0x20 ∧
      t.rootKey = false ∧ t.cores = [] ∧ t.mem = s.mem ∧ t.notices = s.notices ++ [m] ∧ m.typ = 0xC3 ∧
      t.hostOut = s.hostOut ++ [m.out]) ∧
    (s.alarm ≠ none → headerOk f = true → f.typ = 6 → f.body = .mgmt .identity → exec (.mgmtIdentity f) s = .next { s with
      hostOut := s.hostOut ++ [⟨f.src, 0x86, f.seq % 2 ^ 32, 0, 0, s.identity⟩] }) ∧
    (∀ asid base, asid < 65536 → sysLegal 0x006 base = true →
      mgmt (.mgmtSettings f) (.ptbase asid base) [] (fun t => tget? t.mgmt.ptbase asid = some base ∧ t.cores = s.cores)) ∧
    (∀ q, q ≤ 8192 → mgmt (.mgmtSettings f) (.defaultQuota q) [] (fun t => t.mgmt.defaultQuota = q)) ∧
    (∀ typ frame report, headerOk f = true → f.typ = 7 → s.accepts f = true → f.body = .ack typ frame report true →
      ackOk typ frame report true = true → exec (.ack f) s = .next { s with
        notices := s.notices.filter fun m => !(m.typ == typ && m.frame == frame && m.report == report),
        hostOut := s.hostOut ++ [⟨f.src, 0x87, 0, 0, 0, []⟩] }) ∧
    (headerOk f = false → s.accepts f = true → exec (.malformedRequest f) s = .next { s with
      hostOut := s.hostOut ++ [⟨f.src, f.typ % 128 + 128, f.seq, 1, 0, []⟩] }) ∧
    (∀ h, headerOk f = true → f.typ = 2 → f.seq < 2 ^ 32 → s.bring = 8 → s.alarm = none → tget? s.sources f.src = some h →
      h.h < 2 ^ 32 → (∀ a ∈ h.active, a.1 ≠ f.seq) → let ahead := (f.seq + 2 ^ 32 - h.h) % 2 ^ 32
      (∀ r, ahead = 0 ∨ 2 ^ 32 - 1024 < ahead → (h.replies.find? fun r => r.1 == f.seq) = some r →
        exec (.memrd f) s = .next { s with hostOut := s.hostOut ++ [r.2] }) ∧
      (2 ≤ ahead → ahead ≤ 64 → ∃ h', exec (.memrd f) s = .next { s with sources := tset f.src h' s.sources } ∧
        h'.held = h.held ++ [(s.time.toNat, f)] ∧ h'.h = h.h ∧ h'.replies = h.replies ∧ h'.active = h.active) ∧
      (64 < ahead → ahead < 2 ^ 31 → exec (.memrd f) s = .next { s with
        hostOut := s.hostOut ++ [⟨f.src, 0x82, f.seq, 3, 2, []⟩] }) ∧
      (2 ^ 31 ≤ ahead → ahead ≤ 2 ^ 32 - 1024 → exec (.memrd f) s = .next { s with
        hostOut := s.hostOut ++ [⟨f.src, 0x82, f.seq, 2, 0, []⟩] })) ∧
    (∀ src h t0 g more, tget? s.sources src = some h → h.held = (t0, g) :: more → h.active = [] → s.alarm = none →
      (∀ x ∈ h.held, x.2.seq ≠ (h.h + 1) % 2 ^ 32) →
      (t0 + 100000 ≤ s.time.toNat → ∃ t, exec (.heldRequestTimeout src) s = .next t ∧
        tget? t.sources src = some { h with held := [] } ∧ t.mem = s.mem ∧ t.hostOut = s.hostOut ++ h.held.map fun x =>
          ⟨x.2.src, x.2.typ % 128 + 128, x.2.seq, 3, 1, []⟩) ∧
      (s.time.toNat < t0 + 100000 → exec (.heldRequestTimeout src) s = .next s)) ∧
    (∀ m, (s.notices.find? fun x => x.no == m.no) = some m →
      exec (.noticeResend m.no) s = .next { s with hostOut := s.hostOut ++ [m.out] })

/-- Launches on the device (R333 to R346). A bind record takes what the firmware writes (BIND_RECORD_WRITE; R334). A thread of a
bound record starts with the registers of R336, or its record faults with cause 0xFE where its rank is not the core's
(THREAD_START; R335). TNEXT takes the next index of the core's range, with BAL the last of the longest, or −1
(DISTRIBUTOR_TNEXT_REQUEST; R338, R339). When its last thread has ended, a core adds 1 to DONE (CORE_DONE_ADD; R343). A timed
entry that is due admits its record, and one whose launch is unfinished obeys its rule (TIMED_RELEASE; R345, R346), stated for a
table with one entry; the start is that of a launch without images. The model's choices: notice 0xC2 holds entry, release time and
reason in eight bytes each (log entry 52), PTBASE is the one that MGMT holds at THREAD_START (log entry 47), a release that is refused
gives the lowest reason that holds (log entry 80), a core has ended when all its threads have been bound and have ended (log entry
49), and a release that is 2,000 ns late is made as TIME passes (log entry 145). -/
def Obligations.LaunchEvents : Prop :=
  ∀ (s : State) (c u l : Nat) (e : LaunchEnt), c < 768 → u < 16 → s.up = true →
    let b := s.bind c u
    let asid := recAsid e.words
    (∀ r, r.zeroOk = false → exec (.bindRecordWrite c u r) s = .next s) ∧
    (∀ r, r.own = none → r.zeroOk = true → ∃ t, exec (.bindRecordWrite c u r) s = .next t ∧ t.cores = s.cores ∧ t.mem = s.mem ∧
      t.bind c u = { b with valid := r.valid, launch := r.launch % 64, rank := r.rank % 1024, smode := r.smode } ∧
      ∀ d v, v < 16 → (d, v) ≠ (c, u) → t.bind d v = s.bind d v) ∧
    (tget? s.launches b.launch = some e → b.valid = true → b.state = 0 → e.parts.idxOf? c = some b.rank → s.canStart c u e = true →
      s.mustEvict c e = false → e.images = [] → ∃ t, exec (.threadStart c u) s = .next t ∧ t.mem = s.mem ∧
        (t.bind c u).state = 1 ∧ (∀ v, v ≠ u → t.thread c v = s.thread c v) ∧ let th := t.thread c u
        th.life = .runnable ∧ th.pc = recWord e.words 0 ∧ th.launch = some b.launch ∧ th.asid.toNat = asid ∧
        th.ptbase = tget s.mgmt.ptbase asid 0 ∧ th.gv 1 = 0x01FFFFFFFFFFF000 ∧ th.gv 2 = recWord e.words 4 ∧
        th.gv 3 = word (b.rank * (recTpc e.words + 1) + u) ∧ th.gv 4 = word b.rank ∧ th.gv 5 = word e.parts.length ∧
        th.gv 6 = recWord e.words 6 ∧ (∀ n, 6 < n → th.gv n = 0) ∧ (∀ n, th.gs n = .full ∧ th.vs n = .full ∧ th.vv n = 0) ∧
        th.p = 0 ∧ th.smode = b.smode ∧ th.intrap = false ∧ th.outs = [] ∧ th.deferred = [] ∧
        (c ∉ e.begun → (t.coreAt c).tiles = [] ∧ (t.coreAt c).active = {} ∧ (t.coreAt c).k = [] ∧ (t.coreAt c).mlog = []) ∧
        (c ∈ e.begun → (t.coreAt c).tiles = (s.coreAt c).tiles ∧ (t.coreAt c).k = (s.coreAt c).k ∧
          (t.coreAt c).spm = (s.coreAt c).spm)) ∧
    (tget? s.launches b.launch = some e → b.valid = true → b.state = 0 → e.parts.idxOf? c ≠ some b.rank → ∃ t,
      exec (.threadStart c u) s = .next t ∧ t.cores = s.cores ∧ t.bind c u = { b with state := 3, cause := 0xFE }) ∧
    (b.state ≠ 0 ∨ b.valid = false → exec (.threadStart c u) s = .next s) ∧
    (∀ src rest who r, heads s src .dispatch (.tnext who l) rest → localWho s who → tget? s.launches l = some e →
      r = tget e.ranges who.core ⟨0, 0⟩ →
      let answers (w : Word) (q : Tab Range → Prop) : Prop := ∃ t e', exec (.distributorTnextRequest src .dispatch) s = .next t ∧
        t.net = rest ++ [⟨.dispatch, .core who.core, .reply who.slot who.id (.value (w.setWidth 512))⟩] ∧
        tget? t.launches l = some e' ∧ q e'.ranges ∧ t.cores = s.cores
      (0 < r.left → answers (word r.next) (fun q => q = tset who.core ⟨r.next + 1, r.left - 1⟩ e.ranges)) ∧
      (r.left = 0 → recBal e.words = false → answers (wordI (-1)) (fun q => q = e.ranges)) ∧
      (r.left = 0 → recBal e.words = true → ∀ n x, tget? e.ranges n = some x → 0 < x.left → (e.ranges.map (·.1)).Pairwise (· < ·) →
        (∀ k ∈ e.ranges, k.2.left ≤ x.left ∧ (k.2.left = x.left → n ≤ k.1)) →
        answers (word (x.next + x.left - 1)) (fun q => q = tset n ⟨x.next, x.left - 1⟩ e.ranges))) ∧
    ((s.launches.find? fun x => s.coreEnded c x.1 x.2) = some (l, e) → ∀ level off p, let va := recWord e.words 5
      let x := s.walkWith [] asid (tget s.mgmt.ptbase asid 0) va true { r := true, w := true }
      isMesh va = false → x.leaf = .found level off p → x.lines.all s.lineQuiet = true →
      pteBit p 5 = true → s.classifies p = false →
      let pa := (leafEntry asid va.toNat level off p false false).pa va.toNat
      paDev pa = s.devnum → s.podGone.contains s.devnum = false → ∃ t id, exec (.coreDoneAdd c) s = .next t ∧
        (∃ e', tget? t.launches l = some e' ∧ tget? e'.adding c = some id ∧ e'.closed = e.closed) ∧
        t.net = s.net ++ [⟨.core c, .slice (homeSlice (paOff pa) true), .typed
          ⟨.thread ⟨s.devnum, c, 0, id⟩, .cntAdd, 0x24, pa, va, 1, 0, true, .wait 0, 0, asid⟩⟩]) ∧
    ((∀ x ∈ s.launches, s.coreEnded c x.1 x.2 = false) → exec (.coreDoneAdd c) s = .next s) ∧
    (∀ j x n, s.tt = [(j, x)] → x.next = some n → x.valid = true →
      let after : Option Nat := if x.period = 0 then none else some (n + x.period)
      (s.time.toNat < n → exec (.timedRelease j) s = .next s) ∧
      (n ≤ s.time.toNat → x.launch = none → ∀ ws, (s.recordRead x.asid x.record).readRecord x.asid x.record = some ws → s.recordReason ws x.asid = none →
        s.freeLaunch = some l → ∃ t e', exec (.timedRelease j) s = .next t ∧ tget? t.launches l = some e' ∧ e'.words = ws ∧
          e'.parts = s.members (recGroup ws) ∧ e'.timed = some j ∧
          tget? t.tt j = some { x with next := after, launch := some l, waiting := none }) ∧
      (n ≤ s.time.toNat → x.launch = none → ∀ ws r, (s.recordRead x.asid x.record).readRecord x.asid x.record = some ws → s.recordReason ws x.asid = some r →
        ∃ t, exec (.timedRelease j) s = .next t ∧ t.launches = s.launches ∧
          tget? t.tt j = some { x with next := after, waiting := none, missed := min 65535 (x.missed + 1) } ∧
          t.hostOut = s.hostOut ++ [⟨x.src, 0xC2, 0, 0, 0, leBytes 8 j ++ leBytes 8 n ++ leBytes 8 r⟩]) ∧
      (n ≤ s.time.toNat → x.launch = some l → x.rule = 0 → exec (.timedRelease j) s = .next { s with
        tt := [(j, { x with next := after, missed := min 65535 (x.missed + 1) })] }) ∧
      (n ≤ s.time.toNat → x.launch = some l → x.rule = 1 → exec (.timedRelease j) s = .next { s with
        tt := [(j, if x.waiting.isSome then { x with next := after, missed := min 65535 (x.missed + 1) }
          else { x with next := after, waiting := some n })] }) ∧
      (n ≤ s.time.toNat → x.launch = some l → x.rule = 2 → tget? s.launches l = some e → e.save = none → s.flights = [] →
        ∃ t e', exec (.timedRelease j) s = .next t ∧ tget? t.launches l = some e' ∧ e'.save = some (x.save, none) ∧
          ∀ n ∈ e.parts, ∀ y ∈ (t.coreAt n).threads, y.2.live = true → y.2.launch = some l → y.2.held = true) ∧
      (∀ ns, s.locked = true → s.waiters = [] → x.launch = some l → x.rule = 0 → x.period = 0 →
        let now := s.time + word ((s.frac + ns * (1000000 + s.ppm).toNat) / 1000000)
        (s.elapse ns).time = now ∧ (s.elapse ns).tt =
          if n + 2000 ≤ now.toNat then [(j, { x with next := none, missed := min 65535 (x.missed + 1) })] else s.tt))

/-! ### Events: the debug unit and pre-emption (R293, R389 to R402) -/

/-- The operations of the DEBUG frame (R394). HOLD and RELEASE hold and release live threads, a group's with CORE 0xFFFF (R395);
STEP releases a held thread for one instruction, but no slot 0 in a flight (R396); READ answers an image and what the thread waits
on (R401); WRITE sets a register of a held thread, of g, v and k full or empty; ARM sets stops, breakpoints and watchpoints; READLINE shows an L1
line or the entries of an object; SHEET configures and reads a contact sheet (R402); CANCEL removes the waiting entry of a held
thread's operation and records it, or, where the request is still on its way, has the SSP remove the entry it makes there (R293).
What names no live thread, or names for a WRITE or STEP one that is not held, is malformed (log entry 60). PREEMPT holds the launch
and is answered when its list is written, which PREEMPT_SAVE does when the drains are over (R389); RESUME admits the record and the
images again (R392), stated for lines that need no recall alone. Neither takes a range that meets the carve-out, which R263 ends at
0x7E_1FFF_FFFF (R264; statuses: log entry 66). The model's choices: the bytes of the replies to HOLD and READLINE (log entry 52),
that CANCEL ends the hold (log entry 61), that a recorded operation keeps its limit (log entry 123), stands for the pc behind the
instruction and is kept with that pc and INTRAP (log entry 54), the codes of WRITE for p, m and x (log entry 132), that RESUME answers
for the first wrong image in the list's order with the lowest of its reasons (log entry 68), and for a record with the lowest reason
that holds (log entry 80). -/
def Obligations.DebugEvents : Prop :=
  ∀ (s : State) (f : Frame) (d : DebugSel) (l : Nat) (e : LaunchEnt),
    let c := d.core
    let u := d.slot
    let th := s.thread c u
    let k := s.coreAt c
    let one : Prop := d.zeroOk = true ∧ s.liveCore c = true ∧ u < 16 ∧ th.live = true
    let asks (i : Instr) (op : DebugOp) (status reason : Nat) (payload : List Byte) (q : State → Prop) : Prop :=
      f.body = .debug op → inTurn s f 5 →
        ∃ t, exec i s = .next t ∧ answered s t f status reason payload ∧ t.mem = s.mem ∧ t.net = s.net ∧ q t
    let only (t : State) (q : Thread → Prop) : Prop :=
      q (t.thread c u) ∧ (∀ n v, (n, v) ≠ (c, u) → t.thread n v = s.thread n v) ∧
      ∀ n, { t.coreAt n with threads := (s.coreAt n).threads } = s.coreAt n
    let still (t : State) : Prop := t.cores = s.cores
    let bad (i : Instr) (op : DebugOp) : Prop := asks i op 1 0 [] still
    let now : List Byte := leBytes 8 s.time.toNat
    let carved (off n : Nat) : Prop := 0 < n ∧ off < 0x7E20000000 ∧ 0x7E00000000 < off + n
    let recorded (w : Wait) (x : Thread) : Prop := x.life = .runnable ∧ x.wait = none ∧ x.pc = th.pc + word w.len ∧
      x.outs = (th.outs.filter fun y => y.id != w.id) ∧ x.g = th.g ∧ x.reissue = some ⟨w.word, w.a, w.b, x.pc, th.intrap,
        match wordInstr w.word with | some (.qPut ..) => th.putBuf | _ => 0⟩
    (one → asks (.hold f) (.hold d) 0 0 now (fun t => only t fun x =>
      x = if th.held then th else { th with held := true, stopInfo := none, stepping := false, stepped := none })) ∧
    (d.zeroOk = true → c = 0xFFFF → asks (.hold f) (.hold d) 0 0 ((s.members d.group).flatMap fun _ => now) (fun t =>
      (∀ n ∈ s.members d.group, ∀ v < 16, (s.thread n v).live = true → (t.thread n v).held = true) ∧
      ∀ n ∉ s.members d.group, t.coreAt n = s.coreAt n)) ∧
    (one → s.saving th = false → asks (.release f) (.release d) 0 0 [] (fun t => only t fun x =>
      x = if th.held then { th with held := false, stepping := false, stepped := none, fresh := true } else th)) ∧
    (one → th.held = true → s.saving th = false →
      (¬ (u = 0 ∧ k.flight ≠ none) → asks (.step f) (.step d) 0 0 [] (fun t => only t fun x =>
        x = { th with held := false, stepping := true, stepped := none, fresh := true })) ∧
      (u = 0 → k.flight ≠ none → asks (.step f) (.step d) 4 3 [] still)) ∧
    (one → th.held = false → bad (.step f) (.step d) ∧ ∀ cls n v full, bad (.write f) (.write d cls n v full)) ∧
    (s.liveCore c = false ∨ 16 ≤ u ∨ th.live = false → bad (.step f) (.step d) ∧ bad (.cancel f) (.cancel d) ∧
      (∀ cls n v full, bad (.write f) (.write d cls n v full)) ∧ ∀ b brk wch, bad (.arm f) (.arm d b brk wch)) ∧
    (one → ∃ p, asks (.read f) (.read d) 0 0 p still ∧
      p.length = 0x1400 + 32 + 80 * (k.cq.filter fun m => m.ctx.slot == u && m.run.isNone).length + 32 ∧
      word8 p 0x40 = th.pc.toNat ∧ (∀ n < Part.gRegs k.part, word8 p (0x100 + 8 * n) = (th.gv n).toNat) ∧
      ∀ r n, th.life = .parked (.source r n) → word8 p (p.length - 32) % 256 = 1) ∧
    (one → th.held = true → ∀ n v full, let st : RegSt := if full then .full else .empty
      (0 < n → n < Part.gRegs k.part → asks (.write f) (.write d 0 n v full) 0 0 [] (fun t => only t fun x =>
        x.gv n = v.setWidth 64 ∧ x.gs n = st ∧ (∀ m, m ≠ n → x.gv m = th.gv m ∧ x.gs m = th.gs m) ∧
        { x with g := th.g, gst := th.gst } = th)) ∧
      (asks (.write f) (.write d 0 0 v full) 0 0 [] (fun t => only t fun x => x = th)) ∧
      (n < Part.vRegs k.part → asks (.write f) (.write d 1 n v full) 0 0 [] (fun t => only t fun x =>
        x.vv n = v ∧ x.vs n = st ∧ (∀ m, m ≠ n → x.vv m = th.vv m ∧ x.vs m = th.vs m) ∧
        { x with v := th.v, vst := th.vst } = th)) ∧
      (n < 8 → asks (.write f) (.write d 2 n v full) 0 0 [] (fun t =>
        (t.coreAt c).kv n = v.setWidth 64 ∧ (t.coreAt c).ks n = st ∧ (∀ m, m ≠ n → (t.coreAt c).kv m = k.kv m) ∧
        { t.coreAt c with k := k.k, kst := k.kst } = k ∧ ∀ m, m ≠ c → t.coreAt m = s.coreAt m)) ∧
      (n < 8 → asks (.write f) (.write d 3 n v full) 0 0 [] (fun t => only t fun x => x.pv n = (decide (n = 0) || bitOf v 0) ∧
          (∀ m < 8, m ≠ n → x.pv m = th.pv m) ∧ { x with p := th.p } = th) ∧
        asks (.write f) (.write d 4 n v full) 0 0 [] (fun t => only t fun x =>
          x.mv n = (if n = 0 then BitVec.allOnes 64 else v.setWidth 64) ∧ (∀ m, m ≠ n → x.mv m = th.mv m) ∧ { x with m := th.m } = th) ∧
        asks (.write f) (.write d 5 n v full) 0 0 [] (fun t => only t fun x => x.xv n = v.setWidth 64 ∧
          (∀ m, m ≠ n → x.xv m = th.xv m) ∧ { x with x := th.x } = th)) ∧
      (8 ≤ n → ∀ cls, 2 ≤ cls → cls ≤ 5 → bad (.write f) (.write d cls n v full)) ∧
      (Part.gRegs k.part ≤ n → bad (.write f) (.write d 0 n v full)) ∧
      (Part.vRegs k.part ≤ n → bad (.write f) (.write d 1 n v full))) ∧
    (one → ∀ bits b0 b1 b2 b3 w0 w1 w2 w3, (∀ b ∈ [b0, b1, b2, b3], sysLegal 0x060 b = true) →
      (∀ w ∈ [w0, w1, w2, w3], sysLegal 0x064 w = true) →
      asks (.arm f) (.arm d bits [b0, b1, b2, b3] [w0, w1, w2, w3]) 0 0 [] (fun t => only t fun x =>
        x.arm = bits ∧ [tget x.brk 0 0, tget x.brk 1 0, tget x.brk 2 0, tget x.brk 3 0] = [b0, b1, b2, b3] ∧
        [tget x.wch 0 0, tget x.wch 1 0, tget x.wch 2 0, tget x.wch 3 0] = [w0, w1, w2, w3] ∧
        { x with arm := th.arm, brk := th.brk, wch := th.wch } = th)) ∧
    (d.zeroOk = true → ∀ n line o,
      (s.liveCore n = true → (s.coreAt n).lineAt line = none → asks (.readline f) (.readline d (.l1 n line)) 0 0 [0, 0] still) ∧
      (∀ x, s.liveCore n = true → (s.coreAt n).lineAt line = some x → x.st = .mod → x.pm = true →
        asks (.readline f) (.readline d (.l1 n line)) 0 0 [1, 1] still) ∧
      ((∀ w ∈ s.waiters, paOff w.req.pa ≠ o) → asks (.readline f) (.readline d (.waiters o)) 0 0 [] still)) ∧
    (∀ n i w, s.liveCore n = true → i < 8 → controlOk true w = true →
      asks (.sheet f) (.sheet (.core n) i (some w)) 0 0 [] (fun t => ∀ j < 20, tget (t.sheetAt (.core n) i) j 0 =
        if j = 0 then w.toNat else if j = 2 then 2 ^ 64 - 1 else 0)) ∧
    (∀ n i, s.liveCore n = true → i < 8 → asks (.sheet f) (.sheet (.core n) i none) 0 0 (sheetBytes (s.sheetAt (.core n) i)) still) ∧
    (one → th.held = true → s.saving th = false → (u ≠ 0 ∨ k.flight = none) →
      ((∀ w, th.wait = some w → w.kind ≠ .typed) → asks (.cancel f) (.cancel d) 0 0 [] still) ∧
      (∀ w o i, th.wait = some w → w.kind = .typed → w.dst = .none → (th.outs.find? fun x => x.id == w.id) = some o →
        (∀ n, o.path ≠ .pod n) → wordInstr w.word = some i → recordable i = true →
        f.body = .debug (.cancel d) → inTurn s f 5 →
        (∀ x, (s.waiters.find? fun y => y.kind == .waiter && y.req.by s.devnum c u w.id) = some x → x.req.k ≠ .lckAcq →
          x.req.k ≠ .cndWait → ∃ t, exec (.cancel f) s = .next t ∧ answered s t f 0 0 [] ∧
          recorded w (t.thread c u) ∧ (t.thread c u).held = false ∧
          t.waiters = (s.waiters.filter fun y => y.no != x.no) ∧ t.net = s.net) ∧
        ((s.waiters.find? fun y => y.kind == .waiter && y.req.by s.devnum c u w.id) = none →
          s.net.any (typedInFlight s.devnum c u w.id) = true → s.cancels.contains ⟨s.devnum, c, u, w.id⟩ = false →
          ∃ t, exec (.cancel f) s = .next t ∧ answered s t f 0 0 [] ∧ t.cancels = s.cancels ++ [⟨s.devnum, c, u, w.id⟩] ∧
          t.thread c u = { th with held := false, stepping := false, stepped := none } ∧ t.waiters = s.waiters ∧
          t.net = s.net))) ∧
    (∀ w n rest r i m, th.wait = some w → w.dst = .none → w.kind = .typed → wordInstr w.word = some i → recordable i = true →
      (c < 768 ∧ u < 16) → r.who = .thread ⟨s.devnum, c, u, w.id⟩ → s.cancels.contains ⟨s.devnum, c, u, w.id⟩ = true →
      heads s (.core c) (.slice n) (.typed r) rest → r.k = .ldsy → r.lim = .wait m → poolWord (paOff r.pa) →
      s.sspBad r.asid (paOff r.pa) = false → s.tag (paOff r.pa) = 0 → s.room (paOff r.pa) 1 = true → s.waiters = [] →
      ∃ t, exec (.sspTypedRequest (.core c) (.slice n)) s = .next t ∧ t.net = rest ∧ t.mem = s.mem ∧ t.waiters = [] ∧
        t.cancels.contains ⟨s.devnum, c, u, w.id⟩ = false ∧ recorded w (t.thread c u)) ∧
    (∀ base, base / 2 ^ 39 = s.devnum → base % 4096 = 0 →
      let size := listOff e.parts.length + 16 * e.parts.length
      let whole : Prop := (base + size - 1) / 2 ^ 39 = s.devnum
      (tget? s.launches l = some e → e.save = none → s.flights = [] → whole → ¬ carved (paOff base) size →
        f.body = .debug (.preempt l base) → inTurn s f 5 →
        ∃ t e', exec (.preempt f) s = .next t ∧ t.hostOut = s.hostOut ∧ t.mem = s.mem ∧ tget? t.launches l = some e' ∧
          e'.save = some (base, some (f.src, f.seq)) ∧ ∀ n ∈ e.parts, ∀ x ∈ (s.coreAt n).threads, x.2.live = true →
            x.2.launch = some l → (x.1, { x.2 with held := true }) ∈ (t.coreAt n).threads) ∧
      (tget? s.launches l = none → bad (.preempt f) (.preempt l base)) ∧
      (tget? s.launches l = some e → ¬ whole → bad (.preempt f) (.preempt l base)) ∧
      (tget? s.launches l = some e → whole → carved (paOff base) size → asks (.preempt f) (.preempt l base) 4 1 [] still) ∧
      (tget? s.launches l = some e → e.save ≠ none → whole → ¬ carved (paOff base) size →
        asks (.preempt f) (.preempt l base) 3 0 [] still)) ∧
    (∀ record base list, record / 2 ^ 39 = s.devnum → carved (paOff record) 64 →
      asks (.resume f) (.resume record base list) 4 1 [] still) ∧
    (∀ record base list ws, ¬ (record / 2 ^ 39 = s.devnum ∧ carved (paOff record) 64) →
      (base / 2 ^ 39 ≠ s.devnum ∨ list / 2 ^ 39 ≠ s.devnum → bad (.resume f) (.resume record base list)) ∧
      (base / 2 ^ 39 = s.devnum → list / 2 ^ 39 = s.devnum → s.readRecord f.asid record = some ws →
      (∀ x ∈ s.resumeReads f.asid record base list, readsInPlace s f.asid x.1 x.2) →
      let parts := s.members (recGroup ws)
      (∀ r, s.recordReason ws f.asid = some r → asks (.resume f) (.resume record base list) 5 r [] still) ∧
      (s.recordReason ws f.asid = none → s.freeLaunch = some l → list = base + listOff parts.length →
        (carved (paOff list) (16 * parts.length) → asks (.resume f) (.resume record base list) 4 1 [] still) ∧
        (¬ carved (paOff list) (16 * parts.length) →
        let b := s.peekBytes f.asid (paOff list) (16 * parts.length)
        let raw := s.readImages f.asid base b parts.length
        let clear : Prop := ∀ x ∈ raw, ¬ carved (paOff base + imageOff x.1 x.2.1) x.2.2.length
        let zeros : Prop := ∀ r < parts.length, word8 b (16 * r + 8) / 2 ^ 16 = 0
        (¬ clear → asks (.resume f) (.resume record base list) 4 1 [] still) ∧
        (clear → ¬ zeros → asks (.resume f) (.resume record base list) 4 2 [] still) ∧
        (clear → zeros → ∀ x r, raw.head? = some x → s.imageWrong ws parts x = some r →
          asks (.resume f) (.resume record base list) 4 r [] still) ∧
        (clear → zeros → raw ≠ [] → (∀ x ∈ raw, s.imageWrong ws parts x = none) → (raw.map (·.1)).Nodup →
          asks (.resume f) (.resume record base list) 0 0 [BitVec.ofNat 8 l] (fun t => t.cores = s.cores ∧
            ∃ e', tget? t.launches l = some e' ∧ e'.words = ws ∧ e'.parts = parts ∧ e'.resumed = true ∧ e'.src = f.src ∧
              e'.images.map (fun i => (i.rank, i.slot)) = raw.map fun x => (x.1, x.2.1))))))) ∧
    (tget? s.launches l = some e → e.save = none → exec (.preemptSave l) s = .next s) ∧
    (∀ base src seq h, tget? s.launches l = some e → e.save = some (base, some (src, seq)) → e.timed = none → e.firmware = false →
      e.adding = [] → s.flights = [] → tget? s.sources src = some h → h.active = [(seq, 1)] → h.held = [] →
      (∀ n ∈ e.parts, (s.coreAt n).mq = [] ∧ (s.coreAt n).cq = [] ∧ (s.coreAt n).shadow = none ∧ (s.coreAt n).lateq = [] ∧
        (s.coreAt n).kw = [] ∧ ∀ v < 16, (s.thread n v).live = true →
        (s.thread n v).launch = some l → (s.thread n v).life = .runnable ∧ (s.thread n v).wait = none ∧ (s.thread n v).outs = [] ∧
        (s.thread n v).owed = none ∧ (s.thread n v).deferred = [] ∧ (s.thread n v).reissue = none ∧ (s.thread n v).aside = []) →
      let h := (s.holdLaunch l e).cancelAll l e
      let refused := h.saveRefused l base e
      h.saveQuiet l base e = true → ∃ t m, exec (.preemptSave l) s = .next t ∧ tget? t.launches l = none ∧
        (∀ n ∈ e.parts, ∀ v < 16, (s.thread n v).live = true → (s.thread n v).launch = some l → (t.thread n v).live = false) ∧
        t.notices = s.notices ++ [m] ∧ m.typ = 0xC1 ∧ m.out.payload.take 2 = [BitVec.ofNat 8 l, 2] ∧
        t.hostOut = s.hostOut ++
          [m.out, ⟨src, 0x85, seq, if refused then 4 else 0, if refused then 1 else 0, leBytes 8 (base + listOff e.parts.length)⟩])

/-! ### Events: failed cores, routers and devices (R347, R348, R376 to R388) -/

/-- An uncorrectable control error of a live core fences it (FENCE_CORE; R379): its threads stop with their registers kept, the
bind records of its slots end with STATE 3 and CAUSE 0xFF, the launch counts it as ended, MERRLOG records class 2 (R376), and
when nothing of it is on its way notice 0xC4 reports it. A failed router is bypassed and its core fenced (ROUTER_BYPASS; R382). A
datagram of another device reaches the slice or core that performs it, under that device's requester; a reply to a thread here is
written as one of this device is (POD_DATAGRAM; R196, R347), an acknowledged datagram waits no more, and sending one again changes
nothing (POD_RETRANSMIT). A device that has acknowledged nothing for the time
that MGMT set becomes unreachable: what was asked of it is lost with
UNCORR of kind 5, and notice 0xC5 reports it (PEER_UNREACHABLE; R348, R386). The model's choices: a datagram of an unreachable
device is dropped (log entry 57), and only valid bind records take STATE 3 (log entry 71). -/
def Obligations.RecoveryEvents : Prop :=
  ∀ (s : State) (c l dev : Nat) (e : LaunchEnt), c < 768 → s.alarm = none →
    let k := s.coreAt c
    let quiet : Prop := s.liveCore c = true ∧ k.l1 = [] ∧ k.mq = [] ∧ k.cq = [] ∧ k.flight = none ∧ s.flights = [] ∧
      k.joins = [] ∧ k.lateq = [] ∧ k.inbox = [] ∧ s.mgmt.ptbase = [] ∧
      (∀ x ∈ k.threads, x.2.outs = []) ∧ (∀ w ∈ s.waiters, w.req.ofCore s.devnum c = none) ∧ s.podOut = [] ∧
      s.launches = [(l, e)] ∧ c ∈ e.parts ∧ c ∉ e.closed ∧ e.save = none ∧ ∃ n ∈ e.parts, n ≠ c ∧ n ∉ e.closed
    let fenced (t : State) : Prop :=
      (t.coreAt c).fenced = true ∧ (t.coreAt c).fencing = none ∧ (t.coreAt c).k = k.k ∧ (t.coreAt c).spm = k.spm ∧ t.mem = s.mem ∧
      (∀ n, n ≠ c → t.coreAt n = s.coreAt n) ∧ t.liveCore c = false ∧
      (∀ v, (t.thread c v).live = false ∧ (t.thread c v).g = (s.thread c v).g ∧ (t.thread c v).pc = (s.thread c v).pc) ∧
      (∀ v < 16, t.bind c v = if (s.bind c v).valid then { s.bind c v with state := 3, cause := 0xFF } else s.bind c v) ∧
      (∀ n v, n ≠ c → v < 16 → t.bind n v = s.bind n v) ∧
      (∃ e', t.launches = [(l, e')] ∧ (∀ n, n ∈ e'.closed ↔ n = c ∨ n ∈ e.closed) ∧ tget? e'.endState c = some (3, 0xFF)) ∧
      ∃ m, t.notices = s.notices ++ [m] ∧ m.typ = 0xC4 ∧ t.hostOut = s.hostOut ++ [m.out] ∧
        m.out.payload.take 12 = leBytes 8 s.time.toNat ++ leBytes 2 s.devnum ++ leBytes 2 c
    let heard : State := { s with podHeard := tset dev s.time.toNat s.podHeard }
    let from_ (p : PodIn) (dst : Node) (b : Body) : Prop :=
      exec (.podDatagram dev p) s = .next { s with net := s.net ++ [⟨.port dev, dst, b⟩] }
    (∀ unit loc lost, quiet → ∃ t, exec (.fenceCore c unit loc lost) s = .next t ∧ fenced t ∧ t.bypass = s.bypass ∧
      bitOf (t.coreAt c).merrlog 63 = true ∧ fld (t.coreAt c).merrlog 60 3 = unit % 6 ∧ fld (t.coreAt c).merrlog 58 2 = 2) ∧
    (∀ unit loc lost, s.liveCore c = false → k.fencing = none → exec (.fenceCore c unit loc lost) s = .next s) ∧
    (quiet → ∃ t, exec (.routerBypass c) s = .next t ∧ fenced t ∧ (∀ n, n ∈ t.bypass ↔ n = c ∨ n ∈ s.bypass) ∧
      (t.coreAt c).merrlog = k.merrlog) ∧
    (s.liveCore c = false → k.fencing = none → ∃ b, exec (.routerBypass c) s = .next { s with bypass := b } ∧
      ∀ n, n ∈ b ↔ n = c ∨ n ∈ s.bypass) ∧
    (s.up = true → dev ≠ s.devnum → dev < 32768 →
      (∀ p, s.podGone.contains dev = true → exec (.podDatagram dev p) s = .next s) ∧
      (s.podGone.contains dev = false → ∀ core slot id asid,
        let who : Who := ⟨dev, core, slot, id⟩
        (∀ pa sync a, from_ (.request core slot id asid none (.access pa sync a)) (.slice (homeSlice (paOff pa / 64 * 64) sync))
          (.home ⟨who, asid, paOff pa / 64, false, sync, .access (pa % 64) a⟩)) ∧
        (∀ x y off a, from_ (.request core slot id asid none (.mesh x y off a)) (.core (y * 32 + x)) (.mesh who off a)) ∧
        (∀ q maj pa va b lockPa ok data lim, id ≠ 0 →
          from_ (.request core slot id asid none (.typed q maj pa va b lockPa ok data lim)) (.slice (homeSlice (paOff pa) true))
            (.typed ⟨.thread who, q, maj, pa, va, b, lockPa, ok, lim, data, asid⟩)) ∧
        (∀ x y to_ vec num val, from_ (.request core slot id asid none (.rput x y to_ vec num val)) (.core (y * 32 + x))
          (.rput who to_ vec num val none)) ∧
        (∀ m, s.podOut = [m] → m.dev = dev → exec (.podDatagram dev (.ack m.no)) s =
          .next { heard with podOut := if PodOut.spent m.body then [] else [{ m with acked := true }] }) ∧
        (∀ v o d size sg a, s.podOut.any (fun m => m.asks dev core slot id) = true → id ≠ 0 → s.streams core slot = false →
          threadReply s core id (.value v) → ((s.thread core slot).outs.find? fun o => o.id == id) = some o → o.dst = .g d size sg →
          direct (s.thread core slot) id (some o) → d ≠ 0 → (s.thread core slot).gs d = .pending id a o.va → (s.thread core slot).wait = none →
          ∃ t, exec (.podDatagram dev (.reply core slot id (.value v))) s = .next t ∧ t.mem = s.mem ∧
            t.podOut = (s.podOut.filter fun m => !m.asks dev core slot id) ∧ (t.thread core slot).gv d = extend v.toNat size sg ∧
            (t.thread core slot).gs d = .full ∧ (t.thread core slot).pc = (s.thread core slot).pc ∧
            (t.thread core slot).outs = (s.thread core slot).outs.filter fun o => o.id != id))) ∧
    (∀ no, exec (.podRetransmit no) s = .next s) ∧
    (∀ m u id asid pa sync a o d size sg x, s.up = true → s.podOut = [m] → m.dev = dev → m.acked = false →
      m.body = .request c u id asid none (.access pa sync a) → u < 16 → id ≠ 0 → (s.cores.map (·.1)).Nodup →
      (s.thread c u).outs = [o] → o.id = id → o.dst = .g d size sg → d ≠ 0 → (s.thread c u).gs d = .pending id x o.va →
      (s.thread c u).wait = none → (s.thread c u).life = .runnable → (s.thread c u).aside = [] → threadReply s c id (.trap 0x12 0 0) → s.podGone.contains dev = false →
      s.net = [] → s.progress = [] →
      (∀ w ∈ s.waiters, w.req.party.1 ≠ dev) → let since := max m.sent (tget s.podHeard dev 0) + s.mgmt.peerMs * 1000000
      (since ≤ s.time.toNat → ∃ t n, exec (.peerUnreachable dev) s = .next t ∧ t.mem = s.mem ∧ t.podOut = [] ∧
        (∀ v, v ∈ t.podGone ↔ v = dev ∨ v ∈ s.podGone) ∧ (t.thread c u).gs d = .empty ∧ (t.thread c u).outs = [] ∧
        (t.thread c u).pc = (s.thread c u).pc ∧ (t.thread c u).deferred =
          (s.thread c u).deferred ++ [⟨0x12, o.va, word (2 ^ 63 + 2 ^ 16 + o.maj * 2 ^ 8 + 5)⟩] ∧
        t.notices = s.notices ++ [n] ∧ n.typ = 0xC5 ∧ t.hostOut = s.hostOut ++ [n.out] ∧ n.out.payload.length = 64 ∧
        n.out.payload.take 12 = leBytes 8 s.time.toNat ++ leBytes 2 s.devnum ++ leBytes 2 dev) ∧
      (s.time.toNat < since → exec (.peerUnreachable dev) s = .next s))
end

