-- ==== Sys2Proof/Laws/State.lean ====
section
/-! SUPPORT. Reading after writing: the tables, the cores and threads of a state, and one lemma for each field that an
update keeps. -/

namespace Sys2Proof.Machine

open Sys2Proof

/-! ### Tables -/

/-- A key reads what was written to it. -/
@[simp] theorem tget_tset_same {α : Type} (k : Nat) (v d : α) (t : Tab α) : tget (tset k v t) k d = v := by
  induction t with
  | nil => simp [tset, tget]
  | cons e r ih =>
    obtain ⟨k', v'⟩ := e
    simp only [tset]
    split
    · simp [tget]
    · split
      · simp [tget]
      · rename_i h1 h2; simp [tget, h2, ih]

/-- Another key reads as before. -/
theorem tget_tset_ne {α : Type} {k j : Nat} (h : j ≠ k) (v d : α) (t : Tab α) : tget (tset k v t) j d = tget t j d := by
  induction t with
  | nil => simp [tset, tget, h]
  | cons e r ih =>
    obtain ⟨k', v'⟩ := e
    simp only [tset]
    split
    · simp [tget, h]
    · split
      · rename_i h1 h2; subst h2; simp [tget, h]
      · simp [tget, ih]

/-- A key that is present reads what was written to it. -/
@[simp] theorem tget?_tset_same {α : Type} (k : Nat) (v : α) (t : Tab α) : tget? (tset k v t) k = some v := by
  induction t with
  | nil => simp [tset, tget?]
  | cons e r ih =>
    obtain ⟨k', v'⟩ := e
    simp only [tset]
    split
    · simp [tget?]
    · split
      · simp [tget?]
      · rename_i h1 h2; simp [tget?, h2, ih]

/-- Another key is present as before. -/
theorem tget?_tset_ne {α : Type} {k j : Nat} (h : j ≠ k) (v : α) (t : Tab α) : tget? (tset k v t) j = tget? t j := by
  induction t with
  | nil => simp [tset, tget?, h]
  | cons e r ih =>
    obtain ⟨k', v'⟩ := e
    simp only [tset]
    split
    · simp [tget?, h]
    · split
      · rename_i h1 h2; subst h2; simp [tget?, h]
      · simp [tget?, ih]

/-- The last of two writes to a key stands. -/
@[simp] theorem tset_tset {α : Type} (k : Nat) (v w : α) (t : Tab α) : tset k w (tset k v t) = tset k w t := by
  induction t with
  | nil => simp [tset]
  | cons e r ih =>
    obtain ⟨k', v'⟩ := e
    simp only [tset]
    split
    · simp [tset]
    · split
      · simp [tset]
      · rename_i h1 h2; simp [tset, h1, h2, ih]

/-! ### Cores and threads -/

/-- A core position reads what was written to it. -/
@[simp] theorem coreAt_setCore (s : State) (c : Nat) (k : Core) : (s.setCore c k).coreAt c = k := by
  simp [State.coreAt, State.setCore]
/-- Another core position reads as before. -/
theorem coreAt_setCore_ne {c n : Nat} (h : n ≠ c) (s : State) (k : Core) : (s.setCore c k).coreAt n = s.coreAt n := by
  simp [State.coreAt, State.setCore, tget_tset_ne h]
/-- The last of two writes to a core position stands. -/
@[simp] theorem setCore_setCore (s : State) (c : Nat) (k l : Core) : (s.setCore c k).setCore c l = s.setCore c l := by
  simp [State.setCore]
/-- A changed core reads as changed. -/
@[simp] theorem coreAt_modCore (s : State) (c : Nat) (f : Core → Core) : (s.modCore c f).coreAt c = f (s.coreAt c) := by
  simp [State.modCore]
/-- Another core reads as before a change. -/
theorem coreAt_modCore_ne {c n : Nat} (h : n ≠ c) (s : State) (f : Core → Core) : (s.modCore c f).coreAt n = s.coreAt n := by
  simp [State.modCore, coreAt_setCore_ne h]
/-- The core of a thread that was written. -/
theorem coreAt_setThread (s : State) (c t : Nat) (th : Thread) :
    (s.setThread c t th).coreAt c = { s.coreAt c with threads := tset t th (s.coreAt c).threads } := by
  simp [State.setThread]
/-- A thread slot reads what was written to it. -/
@[simp] theorem thread_setThread (s : State) (c t : Nat) (th : Thread) : (s.setThread c t th).thread c t = th := by
  simp [State.thread, coreAt_setThread]
/-- Another slot of the core reads as before. -/
theorem thread_setThread_slot {t u : Nat} (h : u ≠ t) (s : State) (c : Nat) (th : Thread) :
    (s.setThread c t th).thread c u = s.thread c u := by
  simp [State.thread, coreAt_setThread, tget_tset_ne h]
/-- A slot of another core reads as before. -/
theorem thread_setThread_core {c n : Nat} (h : n ≠ c) (s : State) (t u : Nat) (th : Thread) :
    (s.setThread c t th).thread n u = s.thread n u := by
  simp [State.thread, State.setThread, coreAt_modCore_ne h]
/-- The last of two writes to a slot stands. -/
@[simp] theorem setThread_setThread (s : State) (c t : Nat) (a b : Thread) :
    (s.setThread c t a).setThread c t b = s.setThread c t b := by
  simp [State.setThread, State.modCore]
/-- A changed thread reads as changed. -/
@[simp] theorem thread_modThread (s : State) (c t : Nat) (f : Thread → Thread) :
    (s.modThread c t f).thread c t = f (s.thread c t) := by
  simp [State.modThread]
/-- Two changes of a thread are one. -/
@[simp] theorem modThread_modThread (s : State) (c t : Nat) (f g : Thread → Thread) :
    (s.modThread c t f).modThread c t g = s.modThread c t (g ∘ f) := by
  simp [State.modThread]
/-- The performing thread reads what was written to it. -/
@[simp] theorem th_setTh (s : State) (t : Thread) : (s.setTh t).th = t := thread_setThread s s.cur.1 s.cur.2 t
/-- The last of two writes to the performing thread stands. -/
@[simp] theorem setTh_setTh (s : State) (a b : Thread) : (s.setTh a).setTh b = s.setTh b :=
  setThread_setThread s s.cur.1 s.cur.2 a b
/-- The performing thread reads as it was changed. -/
@[simp] theorem th_modTh (s : State) (f : Thread → Thread) : (s.modTh f).th = f s.th := by
  simp [State.modTh]
/-- Two changes of the performing thread are one. -/
@[simp] theorem modTh_modTh (s : State) (f g : Thread → Thread) : (s.modTh f).modTh g = s.modTh (g ∘ f) := by
  simp only [State.modTh, th_setTh, setTh_setTh, Function.comp]
/-- A changed performing thread is the written one. -/
theorem modTh_eq (s : State) (f : Thread → Thread) : s.modTh f = s.setTh (f s.th) := rfl
/-- Writing g[d] changes the performing thread only. -/
theorem wg_eq (s : State) (d : GReg) (w : Word) : s.wg d w = s.setTh (s.th.putG d w) := rfl
/-- Writing v[d] changes the performing thread only. -/
theorem wv_eq (s : State) (d : VReg) (l : Line) : s.wv d l = s.setTh (s.th.putV d l) := rfl
/-- Moving past an instruction changes the pc of the performing thread only. -/
theorem advance_eq (s : State) (n : Nat) : s.advance n = s.setTh { s.th with pc := s.th.pc + word n } := rfl
/-- Parking changes the life of the performing thread only. -/
theorem park_eq (s : State) (w : Park) : s.park w = s.setTh { s.th with life := .parked w } := rfl

/-! ### Registers -/

/-- A g register reads what was written to it; g0 reads as zero (R53). -/
theorem gv_putG (t : Thread) (n : Nat) (w : Word) : (t.putG n w).gv n = if n = 0 then 0 else w := by
  unfold Thread.putG Thread.gv; split <;> simp
/-- Another g register reads as before. -/
theorem gv_putG_ne {n m : Nat} (h : m ≠ n) (t : Thread) (w : Word) : (t.putG n w).gv m = t.gv m := by
  unfold Thread.putG Thread.gv; by_cases hn : n = 0 <;> by_cases hm : m = 0 <;> simp [hn, hm, tget_tset_ne h]
/-- A written g register is full. -/
@[simp] theorem gs_putG (t : Thread) (n : Nat) (w : Word) : (t.putG n w).gs n = .full := by
  unfold Thread.putG Thread.gs; split <;> simp
/-- The full/empty state of another g register is as before. -/
theorem gs_putG_ne {n m : Nat} (h : m ≠ n) (t : Thread) (w : Word) : (t.putG n w).gs m = t.gs m := by
  unfold Thread.putG Thread.gs; by_cases hn : n = 0 <;> by_cases hm : m = 0 <;> simp [hn, hm, tget_tset_ne h]
/-- A v register reads what was written to it. -/
@[simp] theorem vv_putV (t : Thread) (n : Nat) (l : Line) : (t.putV n l).vv n = l := by simp [Thread.putV, Thread.vv]
/-- Another v register reads as before. -/
theorem vv_putV_ne {n m : Nat} (h : m ≠ n) (t : Thread) (l : Line) : (t.putV n l).vv m = t.vv m := by
  simp [Thread.putV, Thread.vv, tget_tset_ne h]
/-- A written v register is full. -/
@[simp] theorem vs_putV (t : Thread) (n : Nat) (l : Line) : (t.putV n l).vs n = .full := by simp [Thread.putV, Thread.vs]
/-- The full/empty state of another v register is as before. -/
theorem vs_putV_ne {n m : Nat} (h : m ≠ n) (t : Thread) (l : Line) : (t.putV n l).vs m = t.vs m := by
  simp [Thread.putV, Thread.vs, tget_tset_ne h]

/-! ### Fields that an update of the state keeps -/

@[simp] theorem State.setCore_devnum (s : State) (c : Nat) (k : Core) : (s.setCore c k).devnum = s.devnum := rfl
@[simp] theorem State.setCore_time (s : State) (c : Nat) (k : Core) : (s.setCore c k).time = s.time := rfl
@[simp] theorem State.setCore_frac (s : State) (c : Nat) (k : Core) : (s.setCore c k).frac = s.frac := rfl
@[simp] theorem State.setCore_ppm (s : State) (c : Nat) (k : Core) : (s.setCore c k).ppm = s.ppm := rfl
@[simp] theorem State.setCore_locked (s : State) (c : Nat) (k : Core) : (s.setCore c k).locked = s.locked := rfl
@[simp] theorem State.setCore_holdover (s : State) (c : Nat) (k : Core) : (s.setCore c k).holdover = s.holdover := rfl
@[simp] theorem State.setCore_bring (s : State) (c : Nat) (k : Core) : (s.setCore c k).bring = s.bring := rfl
@[simp] theorem State.setCore_bringFail (s : State) (c : Nat) (k : Core) : (s.setCore c k).bringFail = s.bringFail := rfl
@[simp] theorem State.setCore_rootKey (s : State) (c : Nat) (k : Core) : (s.setCore c k).rootKey = s.rootKey := rfl
@[simp] theorem State.setCore_boots (s : State) (c : Nat) (k : Core) : (s.setCore c k).boots = s.boots := rfl
@[simp] theorem State.setCore_speed (s : State) (c : Nat) (k : Core) : (s.setCore c k).speed = s.speed := rfl
@[simp] theorem State.setCore_bypass (s : State) (c : Nat) (k : Core) : (s.setCore c k).bypass = s.bypass := rfl
@[simp] theorem State.setCore_mem (s : State) (c : Nat) (k : Core) : (s.setCore c k).mem = s.mem := rfl
@[simp] theorem State.setCore_memAsid (s : State) (c : Nat) (k : Core) : (s.setCore c k).memAsid = s.memAsid := rfl
@[simp] theorem State.setCore_memBad (s : State) (c : Nat) (k : Core) : (s.setCore c k).memBad = s.memBad := rfl
@[simp] theorem State.setCore_dir (s : State) (c : Nat) (k : Core) : (s.setCore c k).dir = s.dir := rfl
@[simp] theorem State.setCore_pushes (s : State) (c : Nat) (k : Core) : (s.setCore c k).pushes = s.pushes := rfl
@[simp] theorem State.setCore_waiters (s : State) (c : Nat) (k : Core) : (s.setCore c k).waiters = s.waiters := rfl
@[simp] theorem State.setCore_ahead (s : State) (c : Nat) (k : Core) : (s.setCore c k).ahead = s.ahead := rfl
@[simp] theorem State.setCore_cancels (s : State) (c : Nat) (k : Core) : (s.setCore c k).cancels = s.cancels := rfl
@[simp] theorem State.setCore_groups (s : State) (c : Nat) (k : Core) : (s.setCore c k).groups = s.groups := rfl
@[simp] theorem State.setCore_launches (s : State) (c : Nat) (k : Core) : (s.setCore c k).launches = s.launches := rfl
@[simp] theorem State.setCore_binds (s : State) (c : Nat) (k : Core) : (s.setCore c k).binds = s.binds := rfl
@[simp] theorem State.setCore_tt (s : State) (c : Nat) (k : Core) : (s.setCore c k).tt = s.tt := rfl
@[simp] theorem State.setCore_sources (s : State) (c : Nat) (k : Core) : (s.setCore c k).sources = s.sources := rfl
@[simp] theorem State.setCore_notices (s : State) (c : Nat) (k : Core) : (s.setCore c k).notices = s.notices := rfl
@[simp] theorem State.setCore_hostOut (s : State) (c : Nat) (k : Core) : (s.setCore c k).hostOut = s.hostOut := rfl
@[simp] theorem State.setCore_mgmt (s : State) (c : Nat) (k : Core) : (s.setCore c k).mgmt = s.mgmt := rfl
@[simp] theorem State.setCore_podOut (s : State) (c : Nat) (k : Core) : (s.setCore c k).podOut = s.podOut := rfl
@[simp] theorem State.setCore_podGone (s : State) (c : Nat) (k : Core) : (s.setCore c k).podGone = s.podGone := rfl
@[simp] theorem State.setCore_podHeard (s : State) (c : Nat) (k : Core) : (s.setCore c k).podHeard = s.podHeard := rfl
@[simp] theorem State.setCore_progress (s : State) (c : Nat) (k : Core) : (s.setCore c k).progress = s.progress := rfl
@[simp] theorem State.setCore_flights (s : State) (c : Nat) (k : Core) : (s.setCore c k).flights = s.flights := rfl
@[simp] theorem State.setCore_report (s : State) (c : Nat) (k : Core) : (s.setCore c k).report = s.report := rfl
@[simp] theorem State.setCore_sliceErr (s : State) (c : Nat) (k : Core) : (s.setCore c k).sliceErr = s.sliceErr := rfl
@[simp] theorem State.setCore_hbmErr (s : State) (c : Nat) (k : Core) : (s.setCore c k).hbmErr = s.hbmErr := rfl
@[simp] theorem State.setCore_sliceSheets (s : State) (c : Nat) (k : Core) : (s.setCore c k).sliceSheets = s.sliceSheets := rfl
@[simp] theorem State.setCore_alarm (s : State) (c : Nat) (k : Core) : (s.setCore c k).alarm = s.alarm := rfl
@[simp] theorem State.setCore_net (s : State) (c : Nat) (k : Core) : (s.setCore c k).net = s.net := rfl
@[simp] theorem State.setCore_agenda (s : State) (c : Nat) (k : Core) : (s.setCore c k).agenda = s.agenda := rfl
@[simp] theorem State.setCore_cur (s : State) (c : Nat) (k : Core) : (s.setCore c k).cur = s.cur := rfl
@[simp] theorem State.setCore_focus (s : State) (c : Nat) (k : Core) : (s.setCore c k).focus = s.focus := rfl
@[simp] theorem State.setCore_txn (s : State) (c : Nat) (k : Core) : (s.setCore c k).txn = s.txn := rfl
@[simp] theorem State.setCore_stream (s : State) (c : Nat) (k : Core) : (s.setCore c k).stream = s.stream := rfl
@[simp] theorem State.modCore_devnum (s : State) (c : Nat) (f : Core → Core) : (s.modCore c f).devnum = s.devnum := rfl
@[simp] theorem State.modCore_time (s : State) (c : Nat) (f : Core → Core) : (s.modCore c f).time = s.time := rfl
@[simp] theorem State.modCore_frac (s : State) (c : Nat) (f : Core → Core) : (s.modCore c f).frac = s.frac := rfl
@[simp] theorem State.modCore_ppm (s : State) (c : Nat) (f : Core → Core) : (s.modCore c f).ppm = s.ppm := rfl
@[simp] theorem State.modCore_locked (s : State) (c : Nat) (f : Core → Core) : (s.modCore c f).locked = s.locked := rfl
@[simp] theorem State.modCore_holdover (s : State) (c : Nat) (f : Core → Core) : (s.modCore c f).holdover = s.holdover := rfl
@[simp] theorem State.modCore_bring (s : State) (c : Nat) (f : Core → Core) : (s.modCore c f).bring = s.bring := rfl
@[simp] theorem State.modCore_bringFail (s : State) (c : Nat) (f : Core → Core) : (s.modCore c f).bringFail = s.bringFail := rfl
@[simp] theorem State.modCore_rootKey (s : State) (c : Nat) (f : Core → Core) : (s.modCore c f).rootKey = s.rootKey := rfl
@[simp] theorem State.modCore_boots (s : State) (c : Nat) (f : Core → Core) : (s.modCore c f).boots = s.boots := rfl
@[simp] theorem State.modCore_speed (s : State) (c : Nat) (f : Core → Core) : (s.modCore c f).speed = s.speed := rfl
@[simp] theorem State.modCore_bypass (s : State) (c : Nat) (f : Core → Core) : (s.modCore c f).bypass = s.bypass := rfl
@[simp] theorem State.modCore_mem (s : State) (c : Nat) (f : Core → Core) : (s.modCore c f).mem = s.mem := rfl
@[simp] theorem State.modCore_memAsid (s : State) (c : Nat) (f : Core → Core) : (s.modCore c f).memAsid = s.memAsid := rfl
@[simp] theorem State.modCore_memBad (s : State) (c : Nat) (f : Core → Core) : (s.modCore c f).memBad = s.memBad := rfl
@[simp] theorem State.modCore_dir (s : State) (c : Nat) (f : Core → Core) : (s.modCore c f).dir = s.dir := rfl
@[simp] theorem State.modCore_pushes (s : State) (c : Nat) (f : Core → Core) : (s.modCore c f).pushes = s.pushes := rfl
@[simp] theorem State.modCore_waiters (s : State) (c : Nat) (f : Core → Core) : (s.modCore c f).waiters = s.waiters := rfl
@[simp] theorem State.modCore_ahead (s : State) (c : Nat) (f : Core → Core) : (s.modCore c f).ahead = s.ahead := rfl
@[simp] theorem State.modCore_cancels (s : State) (c : Nat) (f : Core → Core) : (s.modCore c f).cancels = s.cancels := rfl
@[simp] theorem State.modCore_groups (s : State) (c : Nat) (f : Core → Core) : (s.modCore c f).groups = s.groups := rfl
@[simp] theorem State.modCore_launches (s : State) (c : Nat) (f : Core → Core) : (s.modCore c f).launches = s.launches := rfl
@[simp] theorem State.modCore_binds (s : State) (c : Nat) (f : Core → Core) : (s.modCore c f).binds = s.binds := rfl
@[simp] theorem State.modCore_tt (s : State) (c : Nat) (f : Core → Core) : (s.modCore c f).tt = s.tt := rfl
@[simp] theorem State.modCore_sources (s : State) (c : Nat) (f : Core → Core) : (s.modCore c f).sources = s.sources := rfl
@[simp] theorem State.modCore_notices (s : State) (c : Nat) (f : Core → Core) : (s.modCore c f).notices = s.notices := rfl
@[simp] theorem State.modCore_hostOut (s : State) (c : Nat) (f : Core → Core) : (s.modCore c f).hostOut = s.hostOut := rfl
@[simp] theorem State.modCore_mgmt (s : State) (c : Nat) (f : Core → Core) : (s.modCore c f).mgmt = s.mgmt := rfl
@[simp] theorem State.modCore_podOut (s : State) (c : Nat) (f : Core → Core) : (s.modCore c f).podOut = s.podOut := rfl
@[simp] theorem State.modCore_podGone (s : State) (c : Nat) (f : Core → Core) : (s.modCore c f).podGone = s.podGone := rfl
@[simp] theorem State.modCore_podHeard (s : State) (c : Nat) (f : Core → Core) : (s.modCore c f).podHeard = s.podHeard := rfl
@[simp] theorem State.modCore_progress (s : State) (c : Nat) (f : Core → Core) : (s.modCore c f).progress = s.progress := rfl
@[simp] theorem State.modCore_flights (s : State) (c : Nat) (f : Core → Core) : (s.modCore c f).flights = s.flights := rfl
@[simp] theorem State.modCore_report (s : State) (c : Nat) (f : Core → Core) : (s.modCore c f).report = s.report := rfl
@[simp] theorem State.modCore_sliceErr (s : State) (c : Nat) (f : Core → Core) : (s.modCore c f).sliceErr = s.sliceErr := rfl
@[simp] theorem State.modCore_hbmErr (s : State) (c : Nat) (f : Core → Core) : (s.modCore c f).hbmErr = s.hbmErr := rfl
@[simp] theorem State.modCore_sliceSheets (s : State) (c : Nat) (f : Core → Core) : (s.modCore c f).sliceSheets = s.sliceSheets := rfl
@[simp] theorem State.modCore_alarm (s : State) (c : Nat) (f : Core → Core) : (s.modCore c f).alarm = s.alarm := rfl
@[simp] theorem State.modCore_net (s : State) (c : Nat) (f : Core → Core) : (s.modCore c f).net = s.net := rfl
@[simp] theorem State.modCore_agenda (s : State) (c : Nat) (f : Core → Core) : (s.modCore c f).agenda = s.agenda := rfl
@[simp] theorem State.modCore_cur (s : State) (c : Nat) (f : Core → Core) : (s.modCore c f).cur = s.cur := rfl
@[simp] theorem State.modCore_focus (s : State) (c : Nat) (f : Core → Core) : (s.modCore c f).focus = s.focus := rfl
@[simp] theorem State.modCore_txn (s : State) (c : Nat) (f : Core → Core) : (s.modCore c f).txn = s.txn := rfl
@[simp] theorem State.modCore_stream (s : State) (c : Nat) (f : Core → Core) : (s.modCore c f).stream = s.stream := rfl
@[simp] theorem State.setThread_devnum (s : State) (c t : Nat) (th : Thread) : (s.setThread c t th).devnum = s.devnum := rfl
@[simp] theorem State.setThread_time (s : State) (c t : Nat) (th : Thread) : (s.setThread c t th).time = s.time := rfl
@[simp] theorem State.setThread_frac (s : State) (c t : Nat) (th : Thread) : (s.setThread c t th).frac = s.frac := rfl
@[simp] theorem State.setThread_ppm (s : State) (c t : Nat) (th : Thread) : (s.setThread c t th).ppm = s.ppm := rfl
@[simp] theorem State.setThread_locked (s : State) (c t : Nat) (th : Thread) : (s.setThread c t th).locked = s.locked := rfl
@[simp] theorem State.setThread_holdover (s : State) (c t : Nat) (th : Thread) : (s.setThread c t th).holdover = s.holdover := rfl
@[simp] theorem State.setThread_bring (s : State) (c t : Nat) (th : Thread) : (s.setThread c t th).bring = s.bring := rfl
@[simp] theorem State.setThread_bringFail (s : State) (c t : Nat) (th : Thread) : (s.setThread c t th).bringFail = s.bringFail := rfl
@[simp] theorem State.setThread_rootKey (s : State) (c t : Nat) (th : Thread) : (s.setThread c t th).rootKey = s.rootKey := rfl
@[simp] theorem State.setThread_boots (s : State) (c t : Nat) (th : Thread) : (s.setThread c t th).boots = s.boots := rfl
@[simp] theorem State.setThread_speed (s : State) (c t : Nat) (th : Thread) : (s.setThread c t th).speed = s.speed := rfl
@[simp] theorem State.setThread_bypass (s : State) (c t : Nat) (th : Thread) : (s.setThread c t th).bypass = s.bypass := rfl
@[simp] theorem State.setThread_mem (s : State) (c t : Nat) (th : Thread) : (s.setThread c t th).mem = s.mem := rfl
@[simp] theorem State.setThread_memAsid (s : State) (c t : Nat) (th : Thread) : (s.setThread c t th).memAsid = s.memAsid := rfl
@[simp] theorem State.setThread_memBad (s : State) (c t : Nat) (th : Thread) : (s.setThread c t th).memBad = s.memBad := rfl
@[simp] theorem State.setThread_dir (s : State) (c t : Nat) (th : Thread) : (s.setThread c t th).dir = s.dir := rfl
@[simp] theorem State.setThread_pushes (s : State) (c t : Nat) (th : Thread) : (s.setThread c t th).pushes = s.pushes := rfl
@[simp] theorem State.setThread_waiters (s : State) (c t : Nat) (th : Thread) : (s.setThread c t th).waiters = s.waiters := rfl
@[simp] theorem State.setThread_ahead (s : State) (c t : Nat) (th : Thread) : (s.setThread c t th).ahead = s.ahead := rfl
@[simp] theorem State.setThread_cancels (s : State) (c t : Nat) (th : Thread) : (s.setThread c t th).cancels = s.cancels := rfl
@[simp] theorem State.setThread_groups (s : State) (c t : Nat) (th : Thread) : (s.setThread c t th).groups = s.groups := rfl
@[simp] theorem State.setThread_launches (s : State) (c t : Nat) (th : Thread) : (s.setThread c t th).launches = s.launches := rfl
@[simp] theorem State.setThread_binds (s : State) (c t : Nat) (th : Thread) : (s.setThread c t th).binds = s.binds := rfl
@[simp] theorem State.setThread_tt (s : State) (c t : Nat) (th : Thread) : (s.setThread c t th).tt = s.tt := rfl
@[simp] theorem State.setThread_sources (s : State) (c t : Nat) (th : Thread) : (s.setThread c t th).sources = s.sources := rfl
@[simp] theorem State.setThread_notices (s : State) (c t : Nat) (th : Thread) : (s.setThread c t th).notices = s.notices := rfl
@[simp] theorem State.setThread_hostOut (s : State) (c t : Nat) (th : Thread) : (s.setThread c t th).hostOut = s.hostOut := rfl
@[simp] theorem State.setThread_mgmt (s : State) (c t : Nat) (th : Thread) : (s.setThread c t th).mgmt = s.mgmt := rfl
@[simp] theorem State.setThread_podOut (s : State) (c t : Nat) (th : Thread) : (s.setThread c t th).podOut = s.podOut := rfl
@[simp] theorem State.setThread_podGone (s : State) (c t : Nat) (th : Thread) : (s.setThread c t th).podGone = s.podGone := rfl
@[simp] theorem State.setThread_podHeard (s : State) (c t : Nat) (th : Thread) : (s.setThread c t th).podHeard = s.podHeard := rfl
@[simp] theorem State.setThread_progress (s : State) (c t : Nat) (th : Thread) : (s.setThread c t th).progress = s.progress := rfl
@[simp] theorem State.setThread_flights (s : State) (c t : Nat) (th : Thread) : (s.setThread c t th).flights = s.flights := rfl
@[simp] theorem State.setThread_report (s : State) (c t : Nat) (th : Thread) : (s.setThread c t th).report = s.report := rfl
@[simp] theorem State.setThread_sliceErr (s : State) (c t : Nat) (th : Thread) : (s.setThread c t th).sliceErr = s.sliceErr := rfl
@[simp] theorem State.setThread_hbmErr (s : State) (c t : Nat) (th : Thread) : (s.setThread c t th).hbmErr = s.hbmErr := rfl
@[simp] theorem State.setThread_sliceSheets (s : State) (c t : Nat) (th : Thread) : (s.setThread c t th).sliceSheets = s.sliceSheets := rfl
@[simp] theorem State.setThread_alarm (s : State) (c t : Nat) (th : Thread) : (s.setThread c t th).alarm = s.alarm := rfl
@[simp] theorem State.setThread_net (s : State) (c t : Nat) (th : Thread) : (s.setThread c t th).net = s.net := rfl
@[simp] theorem State.setThread_agenda (s : State) (c t : Nat) (th : Thread) : (s.setThread c t th).agenda = s.agenda := rfl
@[simp] theorem State.setThread_cur (s : State) (c t : Nat) (th : Thread) : (s.setThread c t th).cur = s.cur := rfl
@[simp] theorem State.setThread_focus (s : State) (c t : Nat) (th : Thread) : (s.setThread c t th).focus = s.focus := rfl
@[simp] theorem State.setThread_txn (s : State) (c t : Nat) (th : Thread) : (s.setThread c t th).txn = s.txn := rfl
@[simp] theorem State.setThread_stream (s : State) (c t : Nat) (th : Thread) : (s.setThread c t th).stream = s.stream := rfl
@[simp] theorem State.modThread_devnum (s : State) (c t : Nat) (f : Thread → Thread) : (s.modThread c t f).devnum = s.devnum := rfl
@[simp] theorem State.modThread_time (s : State) (c t : Nat) (f : Thread → Thread) : (s.modThread c t f).time = s.time := rfl
@[simp] theorem State.modThread_frac (s : State) (c t : Nat) (f : Thread → Thread) : (s.modThread c t f).frac = s.frac := rfl
@[simp] theorem State.modThread_ppm (s : State) (c t : Nat) (f : Thread → Thread) : (s.modThread c t f).ppm = s.ppm := rfl
@[simp] theorem State.modThread_locked (s : State) (c t : Nat) (f : Thread → Thread) : (s.modThread c t f).locked = s.locked := rfl
@[simp] theorem State.modThread_holdover (s : State) (c t : Nat) (f : Thread → Thread) : (s.modThread c t f).holdover = s.holdover := rfl
@[simp] theorem State.modThread_bring (s : State) (c t : Nat) (f : Thread → Thread) : (s.modThread c t f).bring = s.bring := rfl
@[simp] theorem State.modThread_bringFail (s : State) (c t : Nat) (f : Thread → Thread) : (s.modThread c t f).bringFail = s.bringFail := rfl
@[simp] theorem State.modThread_rootKey (s : State) (c t : Nat) (f : Thread → Thread) : (s.modThread c t f).rootKey = s.rootKey := rfl
@[simp] theorem State.modThread_boots (s : State) (c t : Nat) (f : Thread → Thread) : (s.modThread c t f).boots = s.boots := rfl
@[simp] theorem State.modThread_speed (s : State) (c t : Nat) (f : Thread → Thread) : (s.modThread c t f).speed = s.speed := rfl
@[simp] theorem State.modThread_bypass (s : State) (c t : Nat) (f : Thread → Thread) : (s.modThread c t f).bypass = s.bypass := rfl
@[simp] theorem State.modThread_mem (s : State) (c t : Nat) (f : Thread → Thread) : (s.modThread c t f).mem = s.mem := rfl
@[simp] theorem State.modThread_memAsid (s : State) (c t : Nat) (f : Thread → Thread) : (s.modThread c t f).memAsid = s.memAsid := rfl
@[simp] theorem State.modThread_memBad (s : State) (c t : Nat) (f : Thread → Thread) : (s.modThread c t f).memBad = s.memBad := rfl
@[simp] theorem State.modThread_dir (s : State) (c t : Nat) (f : Thread → Thread) : (s.modThread c t f).dir = s.dir := rfl
@[simp] theorem State.modThread_pushes (s : State) (c t : Nat) (f : Thread → Thread) : (s.modThread c t f).pushes = s.pushes := rfl
@[simp] theorem State.modThread_waiters (s : State) (c t : Nat) (f : Thread → Thread) : (s.modThread c t f).waiters = s.waiters := rfl
@[simp] theorem State.modThread_ahead (s : State) (c t : Nat) (f : Thread → Thread) : (s.modThread c t f).ahead = s.ahead := rfl
@[simp] theorem State.modThread_cancels (s : State) (c t : Nat) (f : Thread → Thread) : (s.modThread c t f).cancels = s.cancels := rfl
@[simp] theorem State.modThread_groups (s : State) (c t : Nat) (f : Thread → Thread) : (s.modThread c t f).groups = s.groups := rfl
@[simp] theorem State.modThread_launches (s : State) (c t : Nat) (f : Thread → Thread) : (s.modThread c t f).launches = s.launches := rfl
@[simp] theorem State.modThread_binds (s : State) (c t : Nat) (f : Thread → Thread) : (s.modThread c t f).binds = s.binds := rfl
@[simp] theorem State.modThread_tt (s : State) (c t : Nat) (f : Thread → Thread) : (s.modThread c t f).tt = s.tt := rfl
@[simp] theorem State.modThread_sources (s : State) (c t : Nat) (f : Thread → Thread) : (s.modThread c t f).sources = s.sources := rfl
@[simp] theorem State.modThread_notices (s : State) (c t : Nat) (f : Thread → Thread) : (s.modThread c t f).notices = s.notices := rfl
@[simp] theorem State.modThread_hostOut (s : State) (c t : Nat) (f : Thread → Thread) : (s.modThread c t f).hostOut = s.hostOut := rfl
@[simp] theorem State.modThread_mgmt (s : State) (c t : Nat) (f : Thread → Thread) : (s.modThread c t f).mgmt = s.mgmt := rfl
@[simp] theorem State.modThread_podOut (s : State) (c t : Nat) (f : Thread → Thread) : (s.modThread c t f).podOut = s.podOut := rfl
@[simp] theorem State.modThread_podGone (s : State) (c t : Nat) (f : Thread → Thread) : (s.modThread c t f).podGone = s.podGone := rfl
@[simp] theorem State.modThread_podHeard (s : State) (c t : Nat) (f : Thread → Thread) : (s.modThread c t f).podHeard = s.podHeard := rfl
@[simp] theorem State.modThread_progress (s : State) (c t : Nat) (f : Thread → Thread) : (s.modThread c t f).progress = s.progress := rfl
@[simp] theorem State.modThread_flights (s : State) (c t : Nat) (f : Thread → Thread) : (s.modThread c t f).flights = s.flights := rfl
@[simp] theorem State.modThread_report (s : State) (c t : Nat) (f : Thread → Thread) : (s.modThread c t f).report = s.report := rfl
@[simp] theorem State.modThread_sliceErr (s : State) (c t : Nat) (f : Thread → Thread) : (s.modThread c t f).sliceErr = s.sliceErr := rfl
@[simp] theorem State.modThread_hbmErr (s : State) (c t : Nat) (f : Thread → Thread) : (s.modThread c t f).hbmErr = s.hbmErr := rfl
@[simp] theorem State.modThread_sliceSheets (s : State) (c t : Nat) (f : Thread → Thread) : (s.modThread c t f).sliceSheets = s.sliceSheets := rfl
@[simp] theorem State.modThread_alarm (s : State) (c t : Nat) (f : Thread → Thread) : (s.modThread c t f).alarm = s.alarm := rfl
@[simp] theorem State.modThread_net (s : State) (c t : Nat) (f : Thread → Thread) : (s.modThread c t f).net = s.net := rfl
@[simp] theorem State.modThread_agenda (s : State) (c t : Nat) (f : Thread → Thread) : (s.modThread c t f).agenda = s.agenda := rfl
@[simp] theorem State.modThread_cur (s : State) (c t : Nat) (f : Thread → Thread) : (s.modThread c t f).cur = s.cur := rfl
@[simp] theorem State.modThread_focus (s : State) (c t : Nat) (f : Thread → Thread) : (s.modThread c t f).focus = s.focus := rfl
@[simp] theorem State.modThread_txn (s : State) (c t : Nat) (f : Thread → Thread) : (s.modThread c t f).txn = s.txn := rfl
@[simp] theorem State.modThread_stream (s : State) (c t : Nat) (f : Thread → Thread) : (s.modThread c t f).stream = s.stream := rfl
@[simp] theorem State.setTh_devnum (s : State) (t : Thread) : (s.setTh t).devnum = s.devnum := rfl
@[simp] theorem State.setTh_time (s : State) (t : Thread) : (s.setTh t).time = s.time := rfl
@[simp] theorem State.setTh_frac (s : State) (t : Thread) : (s.setTh t).frac = s.frac := rfl
@[simp] theorem State.setTh_ppm (s : State) (t : Thread) : (s.setTh t).ppm = s.ppm := rfl
@[simp] theorem State.setTh_locked (s : State) (t : Thread) : (s.setTh t).locked = s.locked := rfl
@[simp] theorem State.setTh_holdover (s : State) (t : Thread) : (s.setTh t).holdover = s.holdover := rfl
@[simp] theorem State.setTh_bring (s : State) (t : Thread) : (s.setTh t).bring = s.bring := rfl
@[simp] theorem State.setTh_bringFail (s : State) (t : Thread) : (s.setTh t).bringFail = s.bringFail := rfl
@[simp] theorem State.setTh_rootKey (s : State) (t : Thread) : (s.setTh t).rootKey = s.rootKey := rfl
@[simp] theorem State.setTh_boots (s : State) (t : Thread) : (s.setTh t).boots = s.boots := rfl
@[simp] theorem State.setTh_speed (s : State) (t : Thread) : (s.setTh t).speed = s.speed := rfl
@[simp] theorem State.setTh_bypass (s : State) (t : Thread) : (s.setTh t).bypass = s.bypass := rfl
@[simp] theorem State.setTh_mem (s : State) (t : Thread) : (s.setTh t).mem = s.mem := rfl
@[simp] theorem State.setTh_memAsid (s : State) (t : Thread) : (s.setTh t).memAsid = s.memAsid := rfl
@[simp] theorem State.setTh_memBad (s : State) (t : Thread) : (s.setTh t).memBad = s.memBad := rfl
@[simp] theorem State.setTh_dir (s : State) (t : Thread) : (s.setTh t).dir = s.dir := rfl
@[simp] theorem State.setTh_pushes (s : State) (t : Thread) : (s.setTh t).pushes = s.pushes := rfl
@[simp] theorem State.setTh_waiters (s : State) (t : Thread) : (s.setTh t).waiters = s.waiters := rfl
@[simp] theorem State.setTh_ahead (s : State) (t : Thread) : (s.setTh t).ahead = s.ahead := rfl
@[simp] theorem State.setTh_cancels (s : State) (t : Thread) : (s.setTh t).cancels = s.cancels := rfl
@[simp] theorem State.setTh_groups (s : State) (t : Thread) : (s.setTh t).groups = s.groups := rfl
@[simp] theorem State.setTh_launches (s : State) (t : Thread) : (s.setTh t).launches = s.launches := rfl
@[simp] theorem State.setTh_binds (s : State) (t : Thread) : (s.setTh t).binds = s.binds := rfl
@[simp] theorem State.setTh_tt (s : State) (t : Thread) : (s.setTh t).tt = s.tt := rfl
@[simp] theorem State.setTh_sources (s : State) (t : Thread) : (s.setTh t).sources = s.sources := rfl
@[simp] theorem State.setTh_notices (s : State) (t : Thread) : (s.setTh t).notices = s.notices := rfl
@[simp] theorem State.setTh_hostOut (s : State) (t : Thread) : (s.setTh t).hostOut = s.hostOut := rfl
@[simp] theorem State.setTh_mgmt (s : State) (t : Thread) : (s.setTh t).mgmt = s.mgmt := rfl
@[simp] theorem State.setTh_podOut (s : State) (t : Thread) : (s.setTh t).podOut = s.podOut := rfl
@[simp] theorem State.setTh_podGone (s : State) (t : Thread) : (s.setTh t).podGone = s.podGone := rfl
@[simp] theorem State.setTh_podHeard (s : State) (t : Thread) : (s.setTh t).podHeard = s.podHeard := rfl
@[simp] theorem State.setTh_progress (s : State) (t : Thread) : (s.setTh t).progress = s.progress := rfl
@[simp] theorem State.setTh_flights (s : State) (t : Thread) : (s.setTh t).flights = s.flights := rfl
@[simp] theorem State.setTh_report (s : State) (t : Thread) : (s.setTh t).report = s.report := rfl
@[simp] theorem State.setTh_sliceErr (s : State) (t : Thread) : (s.setTh t).sliceErr = s.sliceErr := rfl
@[simp] theorem State.setTh_hbmErr (s : State) (t : Thread) : (s.setTh t).hbmErr = s.hbmErr := rfl
@[simp] theorem State.setTh_sliceSheets (s : State) (t : Thread) : (s.setTh t).sliceSheets = s.sliceSheets := rfl
@[simp] theorem State.setTh_alarm (s : State) (t : Thread) : (s.setTh t).alarm = s.alarm := rfl
@[simp] theorem State.setTh_net (s : State) (t : Thread) : (s.setTh t).net = s.net := rfl
@[simp] theorem State.setTh_agenda (s : State) (t : Thread) : (s.setTh t).agenda = s.agenda := rfl
@[simp] theorem State.setTh_cur (s : State) (t : Thread) : (s.setTh t).cur = s.cur := rfl
@[simp] theorem State.setTh_focus (s : State) (t : Thread) : (s.setTh t).focus = s.focus := rfl
@[simp] theorem State.setTh_txn (s : State) (t : Thread) : (s.setTh t).txn = s.txn := rfl
@[simp] theorem State.setTh_stream (s : State) (t : Thread) : (s.setTh t).stream = s.stream := rfl
@[simp] theorem State.modTh_devnum (s : State) (f : Thread → Thread) : (s.modTh f).devnum = s.devnum := rfl
@[simp] theorem State.modTh_time (s : State) (f : Thread → Thread) : (s.modTh f).time = s.time := rfl
@[simp] theorem State.modTh_frac (s : State) (f : Thread → Thread) : (s.modTh f).frac = s.frac := rfl
@[simp] theorem State.modTh_ppm (s : State) (f : Thread → Thread) : (s.modTh f).ppm = s.ppm := rfl
@[simp] theorem State.modTh_locked (s : State) (f : Thread → Thread) : (s.modTh f).locked = s.locked := rfl
@[simp] theorem State.modTh_holdover (s : State) (f : Thread → Thread) : (s.modTh f).holdover = s.holdover := rfl
@[simp] theorem State.modTh_bring (s : State) (f : Thread → Thread) : (s.modTh f).bring = s.bring := rfl
@[simp] theorem State.modTh_bringFail (s : State) (f : Thread → Thread) : (s.modTh f).bringFail = s.bringFail := rfl
@[simp] theorem State.modTh_rootKey (s : State) (f : Thread → Thread) : (s.modTh f).rootKey = s.rootKey := rfl
@[simp] theorem State.modTh_boots (s : State) (f : Thread → Thread) : (s.modTh f).boots = s.boots := rfl
@[simp] theorem State.modTh_speed (s : State) (f : Thread → Thread) : (s.modTh f).speed = s.speed := rfl
@[simp] theorem State.modTh_bypass (s : State) (f : Thread → Thread) : (s.modTh f).bypass = s.bypass := rfl
@[simp] theorem State.modTh_mem (s : State) (f : Thread → Thread) : (s.modTh f).mem = s.mem := rfl
@[simp] theorem State.modTh_memAsid (s : State) (f : Thread → Thread) : (s.modTh f).memAsid = s.memAsid := rfl
@[simp] theorem State.modTh_memBad (s : State) (f : Thread → Thread) : (s.modTh f).memBad = s.memBad := rfl
@[simp] theorem State.modTh_dir (s : State) (f : Thread → Thread) : (s.modTh f).dir = s.dir := rfl
@[simp] theorem State.modTh_pushes (s : State) (f : Thread → Thread) : (s.modTh f).pushes = s.pushes := rfl
@[simp] theorem State.modTh_waiters (s : State) (f : Thread → Thread) : (s.modTh f).waiters = s.waiters := rfl
@[simp] theorem State.modTh_ahead (s : State) (f : Thread → Thread) : (s.modTh f).ahead = s.ahead := rfl
@[simp] theorem State.modTh_cancels (s : State) (f : Thread → Thread) : (s.modTh f).cancels = s.cancels := rfl
@[simp] theorem State.modTh_groups (s : State) (f : Thread → Thread) : (s.modTh f).groups = s.groups := rfl
@[simp] theorem State.modTh_launches (s : State) (f : Thread → Thread) : (s.modTh f).launches = s.launches := rfl
@[simp] theorem State.modTh_binds (s : State) (f : Thread → Thread) : (s.modTh f).binds = s.binds := rfl
@[simp] theorem State.modTh_tt (s : State) (f : Thread → Thread) : (s.modTh f).tt = s.tt := rfl
@[simp] theorem State.modTh_sources (s : State) (f : Thread → Thread) : (s.modTh f).sources = s.sources := rfl
@[simp] theorem State.modTh_notices (s : State) (f : Thread → Thread) : (s.modTh f).notices = s.notices := rfl
@[simp] theorem State.modTh_hostOut (s : State) (f : Thread → Thread) : (s.modTh f).hostOut = s.hostOut := rfl
@[simp] theorem State.modTh_mgmt (s : State) (f : Thread → Thread) : (s.modTh f).mgmt = s.mgmt := rfl
@[simp] theorem State.modTh_podOut (s : State) (f : Thread → Thread) : (s.modTh f).podOut = s.podOut := rfl
@[simp] theorem State.modTh_podGone (s : State) (f : Thread → Thread) : (s.modTh f).podGone = s.podGone := rfl
@[simp] theorem State.modTh_podHeard (s : State) (f : Thread → Thread) : (s.modTh f).podHeard = s.podHeard := rfl
@[simp] theorem State.modTh_progress (s : State) (f : Thread → Thread) : (s.modTh f).progress = s.progress := rfl
@[simp] theorem State.modTh_flights (s : State) (f : Thread → Thread) : (s.modTh f).flights = s.flights := rfl
@[simp] theorem State.modTh_report (s : State) (f : Thread → Thread) : (s.modTh f).report = s.report := rfl
@[simp] theorem State.modTh_sliceErr (s : State) (f : Thread → Thread) : (s.modTh f).sliceErr = s.sliceErr := rfl
@[simp] theorem State.modTh_hbmErr (s : State) (f : Thread → Thread) : (s.modTh f).hbmErr = s.hbmErr := rfl
@[simp] theorem State.modTh_sliceSheets (s : State) (f : Thread → Thread) : (s.modTh f).sliceSheets = s.sliceSheets := rfl
@[simp] theorem State.modTh_alarm (s : State) (f : Thread → Thread) : (s.modTh f).alarm = s.alarm := rfl
@[simp] theorem State.modTh_net (s : State) (f : Thread → Thread) : (s.modTh f).net = s.net := rfl
@[simp] theorem State.modTh_agenda (s : State) (f : Thread → Thread) : (s.modTh f).agenda = s.agenda := rfl
@[simp] theorem State.modTh_cur (s : State) (f : Thread → Thread) : (s.modTh f).cur = s.cur := rfl
@[simp] theorem State.modTh_focus (s : State) (f : Thread → Thread) : (s.modTh f).focus = s.focus := rfl
@[simp] theorem State.modTh_txn (s : State) (f : Thread → Thread) : (s.modTh f).txn = s.txn := rfl
@[simp] theorem State.modTh_stream (s : State) (f : Thread → Thread) : (s.modTh f).stream = s.stream := rfl
@[simp] theorem State.wg_devnum (s : State) (d : GReg) (w : Word) : (s.wg d w).devnum = s.devnum := rfl
@[simp] theorem State.wg_time (s : State) (d : GReg) (w : Word) : (s.wg d w).time = s.time := rfl
@[simp] theorem State.wg_frac (s : State) (d : GReg) (w : Word) : (s.wg d w).frac = s.frac := rfl
@[simp] theorem State.wg_ppm (s : State) (d : GReg) (w : Word) : (s.wg d w).ppm = s.ppm := rfl
@[simp] theorem State.wg_locked (s : State) (d : GReg) (w : Word) : (s.wg d w).locked = s.locked := rfl
@[simp] theorem State.wg_holdover (s : State) (d : GReg) (w : Word) : (s.wg d w).holdover = s.holdover := rfl
@[simp] theorem State.wg_bring (s : State) (d : GReg) (w : Word) : (s.wg d w).bring = s.bring := rfl
@[simp] theorem State.wg_bringFail (s : State) (d : GReg) (w : Word) : (s.wg d w).bringFail = s.bringFail := rfl
@[simp] theorem State.wg_rootKey (s : State) (d : GReg) (w : Word) : (s.wg d w).rootKey = s.rootKey := rfl
@[simp] theorem State.wg_boots (s : State) (d : GReg) (w : Word) : (s.wg d w).boots = s.boots := rfl
@[simp] theorem State.wg_speed (s : State) (d : GReg) (w : Word) : (s.wg d w).speed = s.speed := rfl
@[simp] theorem State.wg_bypass (s : State) (d : GReg) (w : Word) : (s.wg d w).bypass = s.bypass := rfl
@[simp] theorem State.wg_mem (s : State) (d : GReg) (w : Word) : (s.wg d w).mem = s.mem := rfl
@[simp] theorem State.wg_memAsid (s : State) (d : GReg) (w : Word) : (s.wg d w).memAsid = s.memAsid := rfl
@[simp] theorem State.wg_memBad (s : State) (d : GReg) (w : Word) : (s.wg d w).memBad = s.memBad := rfl
@[simp] theorem State.wg_dir (s : State) (d : GReg) (w : Word) : (s.wg d w).dir = s.dir := rfl
@[simp] theorem State.wg_pushes (s : State) (d : GReg) (w : Word) : (s.wg d w).pushes = s.pushes := rfl
@[simp] theorem State.wg_waiters (s : State) (d : GReg) (w : Word) : (s.wg d w).waiters = s.waiters := rfl
@[simp] theorem State.wg_ahead (s : State) (d : GReg) (w : Word) : (s.wg d w).ahead = s.ahead := rfl
@[simp] theorem State.wg_cancels (s : State) (d : GReg) (w : Word) : (s.wg d w).cancels = s.cancels := rfl
@[simp] theorem State.wg_groups (s : State) (d : GReg) (w : Word) : (s.wg d w).groups = s.groups := rfl
@[simp] theorem State.wg_launches (s : State) (d : GReg) (w : Word) : (s.wg d w).launches = s.launches := rfl
@[simp] theorem State.wg_binds (s : State) (d : GReg) (w : Word) : (s.wg d w).binds = s.binds := rfl
@[simp] theorem State.wg_tt (s : State) (d : GReg) (w : Word) : (s.wg d w).tt = s.tt := rfl
@[simp] theorem State.wg_sources (s : State) (d : GReg) (w : Word) : (s.wg d w).sources = s.sources := rfl
@[simp] theorem State.wg_notices (s : State) (d : GReg) (w : Word) : (s.wg d w).notices = s.notices := rfl
@[simp] theorem State.wg_hostOut (s : State) (d : GReg) (w : Word) : (s.wg d w).hostOut = s.hostOut := rfl
@[simp] theorem State.wg_mgmt (s : State) (d : GReg) (w : Word) : (s.wg d w).mgmt = s.mgmt := rfl
@[simp] theorem State.wg_podOut (s : State) (d : GReg) (w : Word) : (s.wg d w).podOut = s.podOut := rfl
@[simp] theorem State.wg_podGone (s : State) (d : GReg) (w : Word) : (s.wg d w).podGone = s.podGone := rfl
@[simp] theorem State.wg_podHeard (s : State) (d : GReg) (w : Word) : (s.wg d w).podHeard = s.podHeard := rfl
@[simp] theorem State.wg_progress (s : State) (d : GReg) (w : Word) : (s.wg d w).progress = s.progress := rfl
@[simp] theorem State.wg_flights (s : State) (d : GReg) (w : Word) : (s.wg d w).flights = s.flights := rfl
@[simp] theorem State.wg_report (s : State) (d : GReg) (w : Word) : (s.wg d w).report = s.report := rfl
@[simp] theorem State.wg_sliceErr (s : State) (d : GReg) (w : Word) : (s.wg d w).sliceErr = s.sliceErr := rfl
@[simp] theorem State.wg_hbmErr (s : State) (d : GReg) (w : Word) : (s.wg d w).hbmErr = s.hbmErr := rfl
@[simp] theorem State.wg_sliceSheets (s : State) (d : GReg) (w : Word) : (s.wg d w).sliceSheets = s.sliceSheets := rfl
@[simp] theorem State.wg_alarm (s : State) (d : GReg) (w : Word) : (s.wg d w).alarm = s.alarm := rfl
@[simp] theorem State.wg_net (s : State) (d : GReg) (w : Word) : (s.wg d w).net = s.net := rfl
@[simp] theorem State.wg_agenda (s : State) (d : GReg) (w : Word) : (s.wg d w).agenda = s.agenda := rfl
@[simp] theorem State.wg_cur (s : State) (d : GReg) (w : Word) : (s.wg d w).cur = s.cur := rfl
@[simp] theorem State.wg_focus (s : State) (d : GReg) (w : Word) : (s.wg d w).focus = s.focus := rfl
@[simp] theorem State.wg_txn (s : State) (d : GReg) (w : Word) : (s.wg d w).txn = s.txn := rfl
@[simp] theorem State.wg_stream (s : State) (d : GReg) (w : Word) : (s.wg d w).stream = s.stream := rfl
@[simp] theorem State.wv_devnum (s : State) (d : VReg) (l : Line) : (s.wv d l).devnum = s.devnum := rfl
@[simp] theorem State.wv_time (s : State) (d : VReg) (l : Line) : (s.wv d l).time = s.time := rfl
@[simp] theorem State.wv_frac (s : State) (d : VReg) (l : Line) : (s.wv d l).frac = s.frac := rfl
@[simp] theorem State.wv_ppm (s : State) (d : VReg) (l : Line) : (s.wv d l).ppm = s.ppm := rfl
@[simp] theorem State.wv_locked (s : State) (d : VReg) (l : Line) : (s.wv d l).locked = s.locked := rfl
@[simp] theorem State.wv_holdover (s : State) (d : VReg) (l : Line) : (s.wv d l).holdover = s.holdover := rfl
@[simp] theorem State.wv_bring (s : State) (d : VReg) (l : Line) : (s.wv d l).bring = s.bring := rfl
@[simp] theorem State.wv_bringFail (s : State) (d : VReg) (l : Line) : (s.wv d l).bringFail = s.bringFail := rfl
@[simp] theorem State.wv_rootKey (s : State) (d : VReg) (l : Line) : (s.wv d l).rootKey = s.rootKey := rfl
@[simp] theorem State.wv_boots (s : State) (d : VReg) (l : Line) : (s.wv d l).boots = s.boots := rfl
@[simp] theorem State.wv_speed (s : State) (d : VReg) (l : Line) : (s.wv d l).speed = s.speed := rfl
@[simp] theorem State.wv_bypass (s : State) (d : VReg) (l : Line) : (s.wv d l).bypass = s.bypass := rfl
@[simp] theorem State.wv_mem (s : State) (d : VReg) (l : Line) : (s.wv d l).mem = s.mem := rfl
@[simp] theorem State.wv_memAsid (s : State) (d : VReg) (l : Line) : (s.wv d l).memAsid = s.memAsid := rfl
@[simp] theorem State.wv_memBad (s : State) (d : VReg) (l : Line) : (s.wv d l).memBad = s.memBad := rfl
@[simp] theorem State.wv_dir (s : State) (d : VReg) (l : Line) : (s.wv d l).dir = s.dir := rfl
@[simp] theorem State.wv_pushes (s : State) (d : VReg) (l : Line) : (s.wv d l).pushes = s.pushes := rfl
@[simp] theorem State.wv_waiters (s : State) (d : VReg) (l : Line) : (s.wv d l).waiters = s.waiters := rfl
@[simp] theorem State.wv_ahead (s : State) (d : VReg) (l : Line) : (s.wv d l).ahead = s.ahead := rfl
@[simp] theorem State.wv_cancels (s : State) (d : VReg) (l : Line) : (s.wv d l).cancels = s.cancels := rfl
@[simp] theorem State.wv_groups (s : State) (d : VReg) (l : Line) : (s.wv d l).groups = s.groups := rfl
@[simp] theorem State.wv_launches (s : State) (d : VReg) (l : Line) : (s.wv d l).launches = s.launches := rfl
@[simp] theorem State.wv_binds (s : State) (d : VReg) (l : Line) : (s.wv d l).binds = s.binds := rfl
@[simp] theorem State.wv_tt (s : State) (d : VReg) (l : Line) : (s.wv d l).tt = s.tt := rfl
@[simp] theorem State.wv_sources (s : State) (d : VReg) (l : Line) : (s.wv d l).sources = s.sources := rfl
@[simp] theorem State.wv_notices (s : State) (d : VReg) (l : Line) : (s.wv d l).notices = s.notices := rfl
@[simp] theorem State.wv_hostOut (s : State) (d : VReg) (l : Line) : (s.wv d l).hostOut = s.hostOut := rfl
@[simp] theorem State.wv_mgmt (s : State) (d : VReg) (l : Line) : (s.wv d l).mgmt = s.mgmt := rfl
@[simp] theorem State.wv_podOut (s : State) (d : VReg) (l : Line) : (s.wv d l).podOut = s.podOut := rfl
@[simp] theorem State.wv_podGone (s : State) (d : VReg) (l : Line) : (s.wv d l).podGone = s.podGone := rfl
@[simp] theorem State.wv_podHeard (s : State) (d : VReg) (l : Line) : (s.wv d l).podHeard = s.podHeard := rfl
@[simp] theorem State.wv_progress (s : State) (d : VReg) (l : Line) : (s.wv d l).progress = s.progress := rfl
@[simp] theorem State.wv_flights (s : State) (d : VReg) (l : Line) : (s.wv d l).flights = s.flights := rfl
@[simp] theorem State.wv_report (s : State) (d : VReg) (l : Line) : (s.wv d l).report = s.report := rfl
@[simp] theorem State.wv_sliceErr (s : State) (d : VReg) (l : Line) : (s.wv d l).sliceErr = s.sliceErr := rfl
@[simp] theorem State.wv_hbmErr (s : State) (d : VReg) (l : Line) : (s.wv d l).hbmErr = s.hbmErr := rfl
@[simp] theorem State.wv_sliceSheets (s : State) (d : VReg) (l : Line) : (s.wv d l).sliceSheets = s.sliceSheets := rfl
@[simp] theorem State.wv_alarm (s : State) (d : VReg) (l : Line) : (s.wv d l).alarm = s.alarm := rfl
@[simp] theorem State.wv_net (s : State) (d : VReg) (l : Line) : (s.wv d l).net = s.net := rfl
@[simp] theorem State.wv_agenda (s : State) (d : VReg) (l : Line) : (s.wv d l).agenda = s.agenda := rfl
@[simp] theorem State.wv_cur (s : State) (d : VReg) (l : Line) : (s.wv d l).cur = s.cur := rfl
@[simp] theorem State.wv_focus (s : State) (d : VReg) (l : Line) : (s.wv d l).focus = s.focus := rfl
@[simp] theorem State.wv_txn (s : State) (d : VReg) (l : Line) : (s.wv d l).txn = s.txn := rfl
@[simp] theorem State.wv_stream (s : State) (d : VReg) (l : Line) : (s.wv d l).stream = s.stream := rfl
@[simp] theorem State.advance_devnum (s : State) (n : Nat) : (s.advance n).devnum = s.devnum := rfl
@[simp] theorem State.advance_time (s : State) (n : Nat) : (s.advance n).time = s.time := rfl
@[simp] theorem State.advance_frac (s : State) (n : Nat) : (s.advance n).frac = s.frac := rfl
@[simp] theorem State.advance_ppm (s : State) (n : Nat) : (s.advance n).ppm = s.ppm := rfl
@[simp] theorem State.advance_locked (s : State) (n : Nat) : (s.advance n).locked = s.locked := rfl
@[simp] theorem State.advance_holdover (s : State) (n : Nat) : (s.advance n).holdover = s.holdover := rfl
@[simp] theorem State.advance_bring (s : State) (n : Nat) : (s.advance n).bring = s.bring := rfl
@[simp] theorem State.advance_bringFail (s : State) (n : Nat) : (s.advance n).bringFail = s.bringFail := rfl
@[simp] theorem State.advance_rootKey (s : State) (n : Nat) : (s.advance n).rootKey = s.rootKey := rfl
@[simp] theorem State.advance_boots (s : State) (n : Nat) : (s.advance n).boots = s.boots := rfl
@[simp] theorem State.advance_speed (s : State) (n : Nat) : (s.advance n).speed = s.speed := rfl
@[simp] theorem State.advance_bypass (s : State) (n : Nat) : (s.advance n).bypass = s.bypass := rfl
@[simp] theorem State.advance_mem (s : State) (n : Nat) : (s.advance n).mem = s.mem := rfl
@[simp] theorem State.advance_memAsid (s : State) (n : Nat) : (s.advance n).memAsid = s.memAsid := rfl
@[simp] theorem State.advance_memBad (s : State) (n : Nat) : (s.advance n).memBad = s.memBad := rfl
@[simp] theorem State.advance_dir (s : State) (n : Nat) : (s.advance n).dir = s.dir := rfl
@[simp] theorem State.advance_pushes (s : State) (n : Nat) : (s.advance n).pushes = s.pushes := rfl
@[simp] theorem State.advance_waiters (s : State) (n : Nat) : (s.advance n).waiters = s.waiters := rfl
@[simp] theorem State.advance_ahead (s : State) (n : Nat) : (s.advance n).ahead = s.ahead := rfl
@[simp] theorem State.advance_cancels (s : State) (n : Nat) : (s.advance n).cancels = s.cancels := rfl
@[simp] theorem State.advance_groups (s : State) (n : Nat) : (s.advance n).groups = s.groups := rfl
@[simp] theorem State.advance_launches (s : State) (n : Nat) : (s.advance n).launches = s.launches := rfl
@[simp] theorem State.advance_binds (s : State) (n : Nat) : (s.advance n).binds = s.binds := rfl
@[simp] theorem State.advance_tt (s : State) (n : Nat) : (s.advance n).tt = s.tt := rfl
@[simp] theorem State.advance_sources (s : State) (n : Nat) : (s.advance n).sources = s.sources := rfl
@[simp] theorem State.advance_notices (s : State) (n : Nat) : (s.advance n).notices = s.notices := rfl
@[simp] theorem State.advance_hostOut (s : State) (n : Nat) : (s.advance n).hostOut = s.hostOut := rfl
@[simp] theorem State.advance_mgmt (s : State) (n : Nat) : (s.advance n).mgmt = s.mgmt := rfl
@[simp] theorem State.advance_podOut (s : State) (n : Nat) : (s.advance n).podOut = s.podOut := rfl
@[simp] theorem State.advance_podGone (s : State) (n : Nat) : (s.advance n).podGone = s.podGone := rfl
@[simp] theorem State.advance_podHeard (s : State) (n : Nat) : (s.advance n).podHeard = s.podHeard := rfl
@[simp] theorem State.advance_progress (s : State) (n : Nat) : (s.advance n).progress = s.progress := rfl
@[simp] theorem State.advance_flights (s : State) (n : Nat) : (s.advance n).flights = s.flights := rfl
@[simp] theorem State.advance_report (s : State) (n : Nat) : (s.advance n).report = s.report := rfl
@[simp] theorem State.advance_sliceErr (s : State) (n : Nat) : (s.advance n).sliceErr = s.sliceErr := rfl
@[simp] theorem State.advance_hbmErr (s : State) (n : Nat) : (s.advance n).hbmErr = s.hbmErr := rfl
@[simp] theorem State.advance_sliceSheets (s : State) (n : Nat) : (s.advance n).sliceSheets = s.sliceSheets := rfl
@[simp] theorem State.advance_alarm (s : State) (n : Nat) : (s.advance n).alarm = s.alarm := rfl
@[simp] theorem State.advance_net (s : State) (n : Nat) : (s.advance n).net = s.net := rfl
@[simp] theorem State.advance_agenda (s : State) (n : Nat) : (s.advance n).agenda = s.agenda := rfl
@[simp] theorem State.advance_cur (s : State) (n : Nat) : (s.advance n).cur = s.cur := rfl
@[simp] theorem State.advance_focus (s : State) (n : Nat) : (s.advance n).focus = s.focus := rfl
@[simp] theorem State.advance_txn (s : State) (n : Nat) : (s.advance n).txn = s.txn := rfl
@[simp] theorem State.advance_stream (s : State) (n : Nat) : (s.advance n).stream = s.stream := rfl
@[simp] theorem State.park_devnum (s : State) (w : Park) : (s.park w).devnum = s.devnum := rfl
@[simp] theorem State.park_time (s : State) (w : Park) : (s.park w).time = s.time := rfl
@[simp] theorem State.park_frac (s : State) (w : Park) : (s.park w).frac = s.frac := rfl
@[simp] theorem State.park_ppm (s : State) (w : Park) : (s.park w).ppm = s.ppm := rfl
@[simp] theorem State.park_locked (s : State) (w : Park) : (s.park w).locked = s.locked := rfl
@[simp] theorem State.park_holdover (s : State) (w : Park) : (s.park w).holdover = s.holdover := rfl
@[simp] theorem State.park_bring (s : State) (w : Park) : (s.park w).bring = s.bring := rfl
@[simp] theorem State.park_bringFail (s : State) (w : Park) : (s.park w).bringFail = s.bringFail := rfl
@[simp] theorem State.park_rootKey (s : State) (w : Park) : (s.park w).rootKey = s.rootKey := rfl
@[simp] theorem State.park_boots (s : State) (w : Park) : (s.park w).boots = s.boots := rfl
@[simp] theorem State.park_speed (s : State) (w : Park) : (s.park w).speed = s.speed := rfl
@[simp] theorem State.park_bypass (s : State) (w : Park) : (s.park w).bypass = s.bypass := rfl
@[simp] theorem State.park_mem (s : State) (w : Park) : (s.park w).mem = s.mem := rfl
@[simp] theorem State.park_memAsid (s : State) (w : Park) : (s.park w).memAsid = s.memAsid := rfl
@[simp] theorem State.park_memBad (s : State) (w : Park) : (s.park w).memBad = s.memBad := rfl
@[simp] theorem State.park_dir (s : State) (w : Park) : (s.park w).dir = s.dir := rfl
@[simp] theorem State.park_pushes (s : State) (w : Park) : (s.park w).pushes = s.pushes := rfl
@[simp] theorem State.park_waiters (s : State) (w : Park) : (s.park w).waiters = s.waiters := rfl
@[simp] theorem State.park_ahead (s : State) (w : Park) : (s.park w).ahead = s.ahead := rfl
@[simp] theorem State.park_cancels (s : State) (w : Park) : (s.park w).cancels = s.cancels := rfl
@[simp] theorem State.park_groups (s : State) (w : Park) : (s.park w).groups = s.groups := rfl
@[simp] theorem State.park_launches (s : State) (w : Park) : (s.park w).launches = s.launches := rfl
@[simp] theorem State.park_binds (s : State) (w : Park) : (s.park w).binds = s.binds := rfl
@[simp] theorem State.park_tt (s : State) (w : Park) : (s.park w).tt = s.tt := rfl
@[simp] theorem State.park_sources (s : State) (w : Park) : (s.park w).sources = s.sources := rfl
@[simp] theorem State.park_notices (s : State) (w : Park) : (s.park w).notices = s.notices := rfl
@[simp] theorem State.park_hostOut (s : State) (w : Park) : (s.park w).hostOut = s.hostOut := rfl
@[simp] theorem State.park_mgmt (s : State) (w : Park) : (s.park w).mgmt = s.mgmt := rfl
@[simp] theorem State.park_podOut (s : State) (w : Park) : (s.park w).podOut = s.podOut := rfl
@[simp] theorem State.park_podGone (s : State) (w : Park) : (s.park w).podGone = s.podGone := rfl
@[simp] theorem State.park_podHeard (s : State) (w : Park) : (s.park w).podHeard = s.podHeard := rfl
@[simp] theorem State.park_progress (s : State) (w : Park) : (s.park w).progress = s.progress := rfl
@[simp] theorem State.park_flights (s : State) (w : Park) : (s.park w).flights = s.flights := rfl
@[simp] theorem State.park_report (s : State) (w : Park) : (s.park w).report = s.report := rfl
@[simp] theorem State.park_sliceErr (s : State) (w : Park) : (s.park w).sliceErr = s.sliceErr := rfl
@[simp] theorem State.park_hbmErr (s : State) (w : Park) : (s.park w).hbmErr = s.hbmErr := rfl
@[simp] theorem State.park_sliceSheets (s : State) (w : Park) : (s.park w).sliceSheets = s.sliceSheets := rfl
@[simp] theorem State.park_alarm (s : State) (w : Park) : (s.park w).alarm = s.alarm := rfl
@[simp] theorem State.park_net (s : State) (w : Park) : (s.park w).net = s.net := rfl
@[simp] theorem State.park_agenda (s : State) (w : Park) : (s.park w).agenda = s.agenda := rfl
@[simp] theorem State.park_cur (s : State) (w : Park) : (s.park w).cur = s.cur := rfl
@[simp] theorem State.park_focus (s : State) (w : Park) : (s.park w).focus = s.focus := rfl
@[simp] theorem State.park_txn (s : State) (w : Park) : (s.park w).txn = s.txn := rfl
@[simp] theorem State.park_stream (s : State) (w : Park) : (s.park w).stream = s.stream := rfl
@[simp] theorem State.newId_devnum (s : State) : (s.newId).devnum = s.devnum := rfl
@[simp] theorem State.newId_time (s : State) : (s.newId).time = s.time := rfl
@[simp] theorem State.newId_frac (s : State) : (s.newId).frac = s.frac := rfl
@[simp] theorem State.newId_ppm (s : State) : (s.newId).ppm = s.ppm := rfl
@[simp] theorem State.newId_locked (s : State) : (s.newId).locked = s.locked := rfl
@[simp] theorem State.newId_holdover (s : State) : (s.newId).holdover = s.holdover := rfl
@[simp] theorem State.newId_bring (s : State) : (s.newId).bring = s.bring := rfl
@[simp] theorem State.newId_bringFail (s : State) : (s.newId).bringFail = s.bringFail := rfl
@[simp] theorem State.newId_rootKey (s : State) : (s.newId).rootKey = s.rootKey := rfl
@[simp] theorem State.newId_boots (s : State) : (s.newId).boots = s.boots := rfl
@[simp] theorem State.newId_speed (s : State) : (s.newId).speed = s.speed := rfl
@[simp] theorem State.newId_bypass (s : State) : (s.newId).bypass = s.bypass := rfl
@[simp] theorem State.newId_cores (s : State) : (s.newId).cores = s.cores := rfl
@[simp] theorem State.newId_mem (s : State) : (s.newId).mem = s.mem := rfl
@[simp] theorem State.newId_memAsid (s : State) : (s.newId).memAsid = s.memAsid := rfl
@[simp] theorem State.newId_memBad (s : State) : (s.newId).memBad = s.memBad := rfl
@[simp] theorem State.newId_dir (s : State) : (s.newId).dir = s.dir := rfl
@[simp] theorem State.newId_pushes (s : State) : (s.newId).pushes = s.pushes := rfl
@[simp] theorem State.newId_waiters (s : State) : (s.newId).waiters = s.waiters := rfl
@[simp] theorem State.newId_ahead (s : State) : (s.newId).ahead = s.ahead := rfl
@[simp] theorem State.newId_cancels (s : State) : (s.newId).cancels = s.cancels := rfl
@[simp] theorem State.newId_groups (s : State) : (s.newId).groups = s.groups := rfl
@[simp] theorem State.newId_launches (s : State) : (s.newId).launches = s.launches := rfl
@[simp] theorem State.newId_binds (s : State) : (s.newId).binds = s.binds := rfl
@[simp] theorem State.newId_tt (s : State) : (s.newId).tt = s.tt := rfl
@[simp] theorem State.newId_sources (s : State) : (s.newId).sources = s.sources := rfl
@[simp] theorem State.newId_notices (s : State) : (s.newId).notices = s.notices := rfl
@[simp] theorem State.newId_hostOut (s : State) : (s.newId).hostOut = s.hostOut := rfl
@[simp] theorem State.newId_mgmt (s : State) : (s.newId).mgmt = s.mgmt := rfl
@[simp] theorem State.newId_podOut (s : State) : (s.newId).podOut = s.podOut := rfl
@[simp] theorem State.newId_podGone (s : State) : (s.newId).podGone = s.podGone := rfl
@[simp] theorem State.newId_podHeard (s : State) : (s.newId).podHeard = s.podHeard := rfl
@[simp] theorem State.newId_progress (s : State) : (s.newId).progress = s.progress := rfl
@[simp] theorem State.newId_flights (s : State) : (s.newId).flights = s.flights := rfl
@[simp] theorem State.newId_report (s : State) : (s.newId).report = s.report := rfl
@[simp] theorem State.newId_sliceErr (s : State) : (s.newId).sliceErr = s.sliceErr := rfl
@[simp] theorem State.newId_hbmErr (s : State) : (s.newId).hbmErr = s.hbmErr := rfl
@[simp] theorem State.newId_sliceSheets (s : State) : (s.newId).sliceSheets = s.sliceSheets := rfl
@[simp] theorem State.newId_alarm (s : State) : (s.newId).alarm = s.alarm := rfl
@[simp] theorem State.newId_net (s : State) : (s.newId).net = s.net := rfl
@[simp] theorem State.newId_agenda (s : State) : (s.newId).agenda = s.agenda := rfl
@[simp] theorem State.newId_cur (s : State) : (s.newId).cur = s.cur := rfl
@[simp] theorem State.newId_focus (s : State) : (s.newId).focus = s.focus := rfl
@[simp] theorem State.newId_stream (s : State) : (s.newId).stream = s.stream := rfl
@[simp] theorem State.send_devnum (s : State) (a b : Node) (x : Body) : (s.send a b x).devnum = s.devnum := rfl
@[simp] theorem State.send_time (s : State) (a b : Node) (x : Body) : (s.send a b x).time = s.time := rfl
@[simp] theorem State.send_frac (s : State) (a b : Node) (x : Body) : (s.send a b x).frac = s.frac := rfl
@[simp] theorem State.send_ppm (s : State) (a b : Node) (x : Body) : (s.send a b x).ppm = s.ppm := rfl
@[simp] theorem State.send_locked (s : State) (a b : Node) (x : Body) : (s.send a b x).locked = s.locked := rfl
@[simp] theorem State.send_holdover (s : State) (a b : Node) (x : Body) : (s.send a b x).holdover = s.holdover := rfl
@[simp] theorem State.send_bring (s : State) (a b : Node) (x : Body) : (s.send a b x).bring = s.bring := rfl
@[simp] theorem State.send_bringFail (s : State) (a b : Node) (x : Body) : (s.send a b x).bringFail = s.bringFail := rfl
@[simp] theorem State.send_rootKey (s : State) (a b : Node) (x : Body) : (s.send a b x).rootKey = s.rootKey := rfl
@[simp] theorem State.send_boots (s : State) (a b : Node) (x : Body) : (s.send a b x).boots = s.boots := rfl
@[simp] theorem State.send_speed (s : State) (a b : Node) (x : Body) : (s.send a b x).speed = s.speed := rfl
@[simp] theorem State.send_bypass (s : State) (a b : Node) (x : Body) : (s.send a b x).bypass = s.bypass := rfl
@[simp] theorem State.send_cores (s : State) (a b : Node) (x : Body) : (s.send a b x).cores = s.cores := rfl
@[simp] theorem State.send_mem (s : State) (a b : Node) (x : Body) : (s.send a b x).mem = s.mem := rfl
@[simp] theorem State.send_memAsid (s : State) (a b : Node) (x : Body) : (s.send a b x).memAsid = s.memAsid := rfl
@[simp] theorem State.send_memBad (s : State) (a b : Node) (x : Body) : (s.send a b x).memBad = s.memBad := rfl
@[simp] theorem State.send_dir (s : State) (a b : Node) (x : Body) : (s.send a b x).dir = s.dir := rfl
@[simp] theorem State.send_pushes (s : State) (a b : Node) (x : Body) : (s.send a b x).pushes = s.pushes := rfl
@[simp] theorem State.send_waiters (s : State) (a b : Node) (x : Body) : (s.send a b x).waiters = s.waiters := rfl
@[simp] theorem State.send_ahead (s : State) (a b : Node) (x : Body) : (s.send a b x).ahead = s.ahead := rfl
@[simp] theorem State.send_cancels (s : State) (a b : Node) (x : Body) : (s.send a b x).cancels = s.cancels := rfl
@[simp] theorem State.send_groups (s : State) (a b : Node) (x : Body) : (s.send a b x).groups = s.groups := rfl
@[simp] theorem State.send_launches (s : State) (a b : Node) (x : Body) : (s.send a b x).launches = s.launches := rfl
@[simp] theorem State.send_binds (s : State) (a b : Node) (x : Body) : (s.send a b x).binds = s.binds := rfl
@[simp] theorem State.send_tt (s : State) (a b : Node) (x : Body) : (s.send a b x).tt = s.tt := rfl
@[simp] theorem State.send_sources (s : State) (a b : Node) (x : Body) : (s.send a b x).sources = s.sources := rfl
@[simp] theorem State.send_notices (s : State) (a b : Node) (x : Body) : (s.send a b x).notices = s.notices := rfl
@[simp] theorem State.send_hostOut (s : State) (a b : Node) (x : Body) : (s.send a b x).hostOut = s.hostOut := rfl
@[simp] theorem State.send_mgmt (s : State) (a b : Node) (x : Body) : (s.send a b x).mgmt = s.mgmt := rfl
@[simp] theorem State.send_podOut (s : State) (a b : Node) (x : Body) : (s.send a b x).podOut = s.podOut := rfl
@[simp] theorem State.send_podGone (s : State) (a b : Node) (x : Body) : (s.send a b x).podGone = s.podGone := rfl
@[simp] theorem State.send_podHeard (s : State) (a b : Node) (x : Body) : (s.send a b x).podHeard = s.podHeard := rfl
@[simp] theorem State.send_progress (s : State) (a b : Node) (x : Body) : (s.send a b x).progress = s.progress := rfl
@[simp] theorem State.send_flights (s : State) (a b : Node) (x : Body) : (s.send a b x).flights = s.flights := rfl
@[simp] theorem State.send_report (s : State) (a b : Node) (x : Body) : (s.send a b x).report = s.report := rfl
@[simp] theorem State.send_sliceErr (s : State) (a b : Node) (x : Body) : (s.send a b x).sliceErr = s.sliceErr := rfl
@[simp] theorem State.send_hbmErr (s : State) (a b : Node) (x : Body) : (s.send a b x).hbmErr = s.hbmErr := rfl
@[simp] theorem State.send_sliceSheets (s : State) (a b : Node) (x : Body) : (s.send a b x).sliceSheets = s.sliceSheets := rfl
@[simp] theorem State.send_alarm (s : State) (a b : Node) (x : Body) : (s.send a b x).alarm = s.alarm := rfl
@[simp] theorem State.send_agenda (s : State) (a b : Node) (x : Body) : (s.send a b x).agenda = s.agenda := rfl
@[simp] theorem State.send_cur (s : State) (a b : Node) (x : Body) : (s.send a b x).cur = s.cur := rfl
@[simp] theorem State.send_focus (s : State) (a b : Node) (x : Body) : (s.send a b x).focus = s.focus := rfl
@[simp] theorem State.send_txn (s : State) (a b : Node) (x : Body) : (s.send a b x).txn = s.txn := rfl
@[simp] theorem State.send_stream (s : State) (a b : Node) (x : Body) : (s.send a b x).stream = s.stream := rfl

/-! ### Fields that an update of a thread keeps -/

@[simp] theorem Thread.jump_life (t : Thread) (w : Word) : (t.jump w).life = t.life := rfl
@[simp] theorem Thread.jump_held (t : Thread) (w : Word) : (t.jump w).held = t.held := rfl
@[simp] theorem Thread.jump_g (t : Thread) (w : Word) : (t.jump w).g = t.g := rfl
@[simp] theorem Thread.jump_gst (t : Thread) (w : Word) : (t.jump w).gst = t.gst := rfl
@[simp] theorem Thread.jump_tag00 (t : Thread) (w : Word) : (t.jump w).tag00 = t.tag00 := rfl
@[simp] theorem Thread.jump_v (t : Thread) (w : Word) : (t.jump w).v = t.v := rfl
@[simp] theorem Thread.jump_vst (t : Thread) (w : Word) : (t.jump w).vst = t.vst := rfl
@[simp] theorem Thread.jump_p (t : Thread) (w : Word) : (t.jump w).p = t.p := rfl
@[simp] theorem Thread.jump_m (t : Thread) (w : Word) : (t.jump w).m = t.m := rfl
@[simp] theorem Thread.jump_x (t : Thread) (w : Word) : (t.jump w).x = t.x := rfl
@[simp] theorem Thread.jump_status (t : Thread) (w : Word) : (t.jump w).status = t.status := rfl
@[simp] theorem Thread.jump_asid (t : Thread) (w : Word) : (t.jump w).asid = t.asid := rfl
@[simp] theorem Thread.jump_ptbase (t : Thread) (w : Word) : (t.jump w).ptbase = t.ptbase := rfl
@[simp] theorem Thread.jump_meshwin (t : Thread) (w : Word) : (t.jump w).meshwin = t.meshwin := rfl
@[simp] theorem Thread.jump_trapvec (t : Thread) (w : Word) : (t.jump w).trapvec = t.trapvec := rfl
@[simp] theorem Thread.jump_trappc (t : Thread) (w : Word) : (t.jump w).trappc = t.trappc := rfl
@[simp] theorem Thread.jump_trapcause (t : Thread) (w : Word) : (t.jump w).trapcause = t.trapcause := rfl
@[simp] theorem Thread.jump_trapval (t : Thread) (w : Word) : (t.jump w).trapval = t.trapval := rfl
@[simp] theorem Thread.jump_trapval2 (t : Thread) (w : Word) : (t.jump w).trapval2 = t.trapval2 := rfl
@[simp] theorem Thread.jump_trapsave (t : Thread) (w : Word) : (t.jump w).trapsave = t.trapsave := rfl
@[simp] theorem Thread.jump_intpend (t : Thread) (w : Word) : (t.jump w).intpend = t.intpend := rfl
@[simp] theorem Thread.jump_intmask (t : Thread) (w : Word) : (t.jump w).intmask = t.intmask := rfl
@[simp] theorem Thread.jump_fpflags (t : Thread) (w : Word) : (t.jump w).fpflags = t.fpflags := rfl
@[simp] theorem Thread.jump_brk (t : Thread) (w : Word) : (t.jump w).brk = t.brk := rfl
@[simp] theorem Thread.jump_wch (t : Thread) (w : Word) : (t.jump w).wch = t.wch := rfl
@[simp] theorem Thread.jump_outs (t : Thread) (w : Word) : (t.jump w).outs = t.outs := rfl
@[simp] theorem Thread.jump_acq (t : Thread) (w : Word) : (t.jump w).acq = t.acq := rfl
@[simp] theorem Thread.jump_gathers (t : Thread) (w : Word) : (t.jump w).gathers = t.gathers := rfl
@[simp] theorem Thread.jump_deferred (t : Thread) (w : Word) : (t.jump w).deferred = t.deferred := rfl
@[simp] theorem Thread.jump_late (t : Thread) (w : Word) : (t.jump w).late = t.late := rfl
@[simp] theorem Thread.jump_owed (t : Thread) (w : Word) : (t.jump w).owed = t.owed := rfl
@[simp] theorem Thread.jump_walk (t : Thread) (w : Word) : (t.jump w).walk = t.walk := rfl
@[simp] theorem Thread.jump_dropped (t : Thread) (w : Word) : (t.jump w).dropped = t.dropped := rfl
@[simp] theorem Thread.jump_wait (t : Thread) (w : Word) : (t.jump w).wait = t.wait := rfl
@[simp] theorem Thread.jump_aside (t : Thread) (w : Word) : (t.jump w).aside = t.aside := rfl
@[simp] theorem Thread.jump_putBuf (t : Thread) (w : Word) : (t.jump w).putBuf = t.putBuf := rfl
@[simp] theorem Thread.jump_launch (t : Thread) (w : Word) : (t.jump w).launch = t.launch := rfl
@[simp] theorem Thread.jump_rank (t : Thread) (w : Word) : (t.jump w).rank = t.rank := rfl
@[simp] theorem Thread.jump_count (t : Thread) (w : Word) : (t.jump w).count = t.count := rfl
@[simp] theorem Thread.jump_arm (t : Thread) (w : Word) : (t.jump w).arm = t.arm := rfl
@[simp] theorem Thread.jump_stepping (t : Thread) (w : Word) : (t.jump w).stepping = t.stepping := rfl
@[simp] theorem Thread.jump_stepped (t : Thread) (w : Word) : (t.jump w).stepped = t.stepped := rfl
@[simp] theorem Thread.jump_fresh (t : Thread) (w : Word) : (t.jump w).fresh = t.fresh := rfl
@[simp] theorem Thread.jump_stopInfo (t : Thread) (w : Word) : (t.jump w).stopInfo = t.stopInfo := rfl
@[simp] theorem Thread.jump_yielded (t : Thread) (w : Word) : (t.jump w).yielded = t.yielded := rfl
@[simp] theorem Thread.jump_reissue (t : Thread) (w : Word) : (t.jump w).reissue = t.reissue := rfl
@[simp] theorem Thread.putG_life (t : Thread) (n : Nat) (w : Word) : (t.putG n w).life = t.life := by unfold Thread.putG; split <;> rfl
@[simp] theorem Thread.putG_held (t : Thread) (n : Nat) (w : Word) : (t.putG n w).held = t.held := by unfold Thread.putG; split <;> rfl
@[simp] theorem Thread.putG_pc (t : Thread) (n : Nat) (w : Word) : (t.putG n w).pc = t.pc := by unfold Thread.putG; split <;> rfl
@[simp] theorem Thread.putG_v (t : Thread) (n : Nat) (w : Word) : (t.putG n w).v = t.v := by unfold Thread.putG; split <;> rfl
@[simp] theorem Thread.putG_vst (t : Thread) (n : Nat) (w : Word) : (t.putG n w).vst = t.vst := by unfold Thread.putG; split <;> rfl
@[simp] theorem Thread.putG_p (t : Thread) (n : Nat) (w : Word) : (t.putG n w).p = t.p := by unfold Thread.putG; split <;> rfl
@[simp] theorem Thread.putG_m (t : Thread) (n : Nat) (w : Word) : (t.putG n w).m = t.m := by unfold Thread.putG; split <;> rfl
@[simp] theorem Thread.putG_x (t : Thread) (n : Nat) (w : Word) : (t.putG n w).x = t.x := by unfold Thread.putG; split <;> rfl
@[simp] theorem Thread.putG_status (t : Thread) (n : Nat) (w : Word) : (t.putG n w).status = t.status := by unfold Thread.putG; split <;> rfl
@[simp] theorem Thread.putG_asid (t : Thread) (n : Nat) (w : Word) : (t.putG n w).asid = t.asid := by unfold Thread.putG; split <;> rfl
@[simp] theorem Thread.putG_ptbase (t : Thread) (n : Nat) (w : Word) : (t.putG n w).ptbase = t.ptbase := by unfold Thread.putG; split <;> rfl
@[simp] theorem Thread.putG_meshwin (t : Thread) (n : Nat) (w : Word) : (t.putG n w).meshwin = t.meshwin := by unfold Thread.putG; split <;> rfl
@[simp] theorem Thread.putG_trapvec (t : Thread) (n : Nat) (w : Word) : (t.putG n w).trapvec = t.trapvec := by unfold Thread.putG; split <;> rfl
@[simp] theorem Thread.putG_trappc (t : Thread) (n : Nat) (w : Word) : (t.putG n w).trappc = t.trappc := by unfold Thread.putG; split <;> rfl
@[simp] theorem Thread.putG_trapcause (t : Thread) (n : Nat) (w : Word) : (t.putG n w).trapcause = t.trapcause := by unfold Thread.putG; split <;> rfl
@[simp] theorem Thread.putG_trapval (t : Thread) (n : Nat) (w : Word) : (t.putG n w).trapval = t.trapval := by unfold Thread.putG; split <;> rfl
@[simp] theorem Thread.putG_trapval2 (t : Thread) (n : Nat) (w : Word) : (t.putG n w).trapval2 = t.trapval2 := by unfold Thread.putG; split <;> rfl
@[simp] theorem Thread.putG_trapsave (t : Thread) (n : Nat) (w : Word) : (t.putG n w).trapsave = t.trapsave := by unfold Thread.putG; split <;> rfl
@[simp] theorem Thread.putG_intpend (t : Thread) (n : Nat) (w : Word) : (t.putG n w).intpend = t.intpend := by unfold Thread.putG; split <;> rfl
@[simp] theorem Thread.putG_intmask (t : Thread) (n : Nat) (w : Word) : (t.putG n w).intmask = t.intmask := by unfold Thread.putG; split <;> rfl
@[simp] theorem Thread.putG_fpflags (t : Thread) (n : Nat) (w : Word) : (t.putG n w).fpflags = t.fpflags := by unfold Thread.putG; split <;> rfl
@[simp] theorem Thread.putG_brk (t : Thread) (n : Nat) (w : Word) : (t.putG n w).brk = t.brk := by unfold Thread.putG; split <;> rfl
@[simp] theorem Thread.putG_wch (t : Thread) (n : Nat) (w : Word) : (t.putG n w).wch = t.wch := by unfold Thread.putG; split <;> rfl
@[simp] theorem Thread.putG_outs (t : Thread) (n : Nat) (w : Word) : (t.putG n w).outs = t.outs := by unfold Thread.putG; split <;> rfl
@[simp] theorem Thread.putG_acq (t : Thread) (n : Nat) (w : Word) : (t.putG n w).acq = t.acq := by unfold Thread.putG; split <;> rfl
@[simp] theorem Thread.putG_gathers (t : Thread) (n : Nat) (w : Word) : (t.putG n w).gathers = t.gathers := by unfold Thread.putG; split <;> rfl
@[simp] theorem Thread.putG_deferred (t : Thread) (n : Nat) (w : Word) : (t.putG n w).deferred = t.deferred := by unfold Thread.putG; split <;> rfl
@[simp] theorem Thread.putG_late (t : Thread) (n : Nat) (w : Word) : (t.putG n w).late = t.late := by unfold Thread.putG; split <;> rfl
@[simp] theorem Thread.putG_owed (t : Thread) (n : Nat) (w : Word) : (t.putG n w).owed = t.owed := by unfold Thread.putG; split <;> rfl
@[simp] theorem Thread.putG_fb (t : Thread) (n : Nat) (w : Word) : (t.putG n w).fb = t.fb := by unfold Thread.putG; split <;> rfl
@[simp] theorem Thread.putG_half (t : Thread) (n : Nat) (w : Word) : (t.putG n w).half = t.half := by unfold Thread.putG; split <;> rfl
@[simp] theorem Thread.putG_fetched (t : Thread) (n : Nat) (w : Word) : (t.putG n w).fetched = t.fetched := by unfold Thread.putG; split <;> rfl
@[simp] theorem Thread.putG_walk (t : Thread) (n : Nat) (w : Word) : (t.putG n w).walk = t.walk := by unfold Thread.putG; split <;> rfl
@[simp] theorem Thread.putG_dropped (t : Thread) (n : Nat) (w : Word) : (t.putG n w).dropped = t.dropped := by unfold Thread.putG; split <;> rfl
@[simp] theorem Thread.putG_wait (t : Thread) (n : Nat) (w : Word) : (t.putG n w).wait = t.wait := by unfold Thread.putG; split <;> rfl
@[simp] theorem Thread.putG_aside (t : Thread) (n : Nat) (w : Word) : (t.putG n w).aside = t.aside := by unfold Thread.putG; split <;> rfl
@[simp] theorem Thread.putG_putBuf (t : Thread) (n : Nat) (w : Word) : (t.putG n w).putBuf = t.putBuf := by unfold Thread.putG; split <;> rfl
@[simp] theorem Thread.putG_launch (t : Thread) (n : Nat) (w : Word) : (t.putG n w).launch = t.launch := by unfold Thread.putG; split <;> rfl
@[simp] theorem Thread.putG_rank (t : Thread) (n : Nat) (w : Word) : (t.putG n w).rank = t.rank := by unfold Thread.putG; split <;> rfl
@[simp] theorem Thread.putG_count (t : Thread) (n : Nat) (w : Word) : (t.putG n w).count = t.count := by unfold Thread.putG; split <;> rfl
@[simp] theorem Thread.putG_arm (t : Thread) (n : Nat) (w : Word) : (t.putG n w).arm = t.arm := by unfold Thread.putG; split <;> rfl
@[simp] theorem Thread.putG_stepping (t : Thread) (n : Nat) (w : Word) : (t.putG n w).stepping = t.stepping := by unfold Thread.putG; split <;> rfl
@[simp] theorem Thread.putG_stepped (t : Thread) (n : Nat) (w : Word) : (t.putG n w).stepped = t.stepped := by unfold Thread.putG; split <;> rfl
@[simp] theorem Thread.putG_fresh (t : Thread) (n : Nat) (w : Word) : (t.putG n w).fresh = t.fresh := by unfold Thread.putG; split <;> rfl
@[simp] theorem Thread.putG_stopInfo (t : Thread) (n : Nat) (w : Word) : (t.putG n w).stopInfo = t.stopInfo := by unfold Thread.putG; split <;> rfl
@[simp] theorem Thread.putG_yielded (t : Thread) (n : Nat) (w : Word) : (t.putG n w).yielded = t.yielded := by unfold Thread.putG; split <;> rfl
@[simp] theorem Thread.putG_reissue (t : Thread) (n : Nat) (w : Word) : (t.putG n w).reissue = t.reissue := by unfold Thread.putG; split <;> rfl
@[simp] theorem Thread.markG_life (t : Thread) (n : Nat) (r : RegSt) : (t.markG n r).life = t.life := by unfold Thread.markG; split <;> rfl
@[simp] theorem Thread.markG_held (t : Thread) (n : Nat) (r : RegSt) : (t.markG n r).held = t.held := by unfold Thread.markG; split <;> rfl
@[simp] theorem Thread.markG_pc (t : Thread) (n : Nat) (r : RegSt) : (t.markG n r).pc = t.pc := by unfold Thread.markG; split <;> rfl
@[simp] theorem Thread.markG_g (t : Thread) (n : Nat) (r : RegSt) : (t.markG n r).g = t.g := by unfold Thread.markG; split <;> rfl
@[simp] theorem Thread.markG_tag00 (t : Thread) (n : Nat) (r : RegSt) : (t.markG n r).tag00 = t.tag00 := by unfold Thread.markG; split <;> rfl
@[simp] theorem Thread.markG_v (t : Thread) (n : Nat) (r : RegSt) : (t.markG n r).v = t.v := by unfold Thread.markG; split <;> rfl
@[simp] theorem Thread.markG_vst (t : Thread) (n : Nat) (r : RegSt) : (t.markG n r).vst = t.vst := by unfold Thread.markG; split <;> rfl
@[simp] theorem Thread.markG_p (t : Thread) (n : Nat) (r : RegSt) : (t.markG n r).p = t.p := by unfold Thread.markG; split <;> rfl
@[simp] theorem Thread.markG_m (t : Thread) (n : Nat) (r : RegSt) : (t.markG n r).m = t.m := by unfold Thread.markG; split <;> rfl
@[simp] theorem Thread.markG_x (t : Thread) (n : Nat) (r : RegSt) : (t.markG n r).x = t.x := by unfold Thread.markG; split <;> rfl
@[simp] theorem Thread.markG_status (t : Thread) (n : Nat) (r : RegSt) : (t.markG n r).status = t.status := by unfold Thread.markG; split <;> rfl
@[simp] theorem Thread.markG_asid (t : Thread) (n : Nat) (r : RegSt) : (t.markG n r).asid = t.asid := by unfold Thread.markG; split <;> rfl
@[simp] theorem Thread.markG_ptbase (t : Thread) (n : Nat) (r : RegSt) : (t.markG n r).ptbase = t.ptbase := by unfold Thread.markG; split <;> rfl
@[simp] theorem Thread.markG_meshwin (t : Thread) (n : Nat) (r : RegSt) : (t.markG n r).meshwin = t.meshwin := by unfold Thread.markG; split <;> rfl
@[simp] theorem Thread.markG_trapvec (t : Thread) (n : Nat) (r : RegSt) : (t.markG n r).trapvec = t.trapvec := by unfold Thread.markG; split <;> rfl
@[simp] theorem Thread.markG_trappc (t : Thread) (n : Nat) (r : RegSt) : (t.markG n r).trappc = t.trappc := by unfold Thread.markG; split <;> rfl
@[simp] theorem Thread.markG_trapcause (t : Thread) (n : Nat) (r : RegSt) : (t.markG n r).trapcause = t.trapcause := by unfold Thread.markG; split <;> rfl
@[simp] theorem Thread.markG_trapval (t : Thread) (n : Nat) (r : RegSt) : (t.markG n r).trapval = t.trapval := by unfold Thread.markG; split <;> rfl
@[simp] theorem Thread.markG_trapval2 (t : Thread) (n : Nat) (r : RegSt) : (t.markG n r).trapval2 = t.trapval2 := by unfold Thread.markG; split <;> rfl
@[simp] theorem Thread.markG_trapsave (t : Thread) (n : Nat) (r : RegSt) : (t.markG n r).trapsave = t.trapsave := by unfold Thread.markG; split <;> rfl
@[simp] theorem Thread.markG_intpend (t : Thread) (n : Nat) (r : RegSt) : (t.markG n r).intpend = t.intpend := by unfold Thread.markG; split <;> rfl
@[simp] theorem Thread.markG_intmask (t : Thread) (n : Nat) (r : RegSt) : (t.markG n r).intmask = t.intmask := by unfold Thread.markG; split <;> rfl
@[simp] theorem Thread.markG_fpflags (t : Thread) (n : Nat) (r : RegSt) : (t.markG n r).fpflags = t.fpflags := by unfold Thread.markG; split <;> rfl
@[simp] theorem Thread.markG_brk (t : Thread) (n : Nat) (r : RegSt) : (t.markG n r).brk = t.brk := by unfold Thread.markG; split <;> rfl
@[simp] theorem Thread.markG_wch (t : Thread) (n : Nat) (r : RegSt) : (t.markG n r).wch = t.wch := by unfold Thread.markG; split <;> rfl
@[simp] theorem Thread.markG_outs (t : Thread) (n : Nat) (r : RegSt) : (t.markG n r).outs = t.outs := by unfold Thread.markG; split <;> rfl
@[simp] theorem Thread.markG_acq (t : Thread) (n : Nat) (r : RegSt) : (t.markG n r).acq = t.acq := by unfold Thread.markG; split <;> rfl
@[simp] theorem Thread.markG_gathers (t : Thread) (n : Nat) (r : RegSt) : (t.markG n r).gathers = t.gathers := by unfold Thread.markG; split <;> rfl
@[simp] theorem Thread.markG_deferred (t : Thread) (n : Nat) (r : RegSt) : (t.markG n r).deferred = t.deferred := by unfold Thread.markG; split <;> rfl
@[simp] theorem Thread.markG_late (t : Thread) (n : Nat) (r : RegSt) : (t.markG n r).late = t.late := by unfold Thread.markG; split <;> rfl
@[simp] theorem Thread.markG_owed (t : Thread) (n : Nat) (r : RegSt) : (t.markG n r).owed = t.owed := by unfold Thread.markG; split <;> rfl
@[simp] theorem Thread.markG_fb (t : Thread) (n : Nat) (r : RegSt) : (t.markG n r).fb = t.fb := by unfold Thread.markG; split <;> rfl
@[simp] theorem Thread.markG_half (t : Thread) (n : Nat) (r : RegSt) : (t.markG n r).half = t.half := by unfold Thread.markG; split <;> rfl
@[simp] theorem Thread.markG_fetched (t : Thread) (n : Nat) (r : RegSt) : (t.markG n r).fetched = t.fetched := by unfold Thread.markG; split <;> rfl
@[simp] theorem Thread.markG_walk (t : Thread) (n : Nat) (r : RegSt) : (t.markG n r).walk = t.walk := by unfold Thread.markG; split <;> rfl
@[simp] theorem Thread.markG_dropped (t : Thread) (n : Nat) (r : RegSt) : (t.markG n r).dropped = t.dropped := by unfold Thread.markG; split <;> rfl
@[simp] theorem Thread.markG_wait (t : Thread) (n : Nat) (r : RegSt) : (t.markG n r).wait = t.wait := by unfold Thread.markG; split <;> rfl
@[simp] theorem Thread.markG_aside (t : Thread) (n : Nat) (r : RegSt) : (t.markG n r).aside = t.aside := by unfold Thread.markG; split <;> rfl
@[simp] theorem Thread.markG_putBuf (t : Thread) (n : Nat) (r : RegSt) : (t.markG n r).putBuf = t.putBuf := by unfold Thread.markG; split <;> rfl
@[simp] theorem Thread.markG_launch (t : Thread) (n : Nat) (r : RegSt) : (t.markG n r).launch = t.launch := by unfold Thread.markG; split <;> rfl
@[simp] theorem Thread.markG_rank (t : Thread) (n : Nat) (r : RegSt) : (t.markG n r).rank = t.rank := by unfold Thread.markG; split <;> rfl
@[simp] theorem Thread.markG_count (t : Thread) (n : Nat) (r : RegSt) : (t.markG n r).count = t.count := by unfold Thread.markG; split <;> rfl
@[simp] theorem Thread.markG_arm (t : Thread) (n : Nat) (r : RegSt) : (t.markG n r).arm = t.arm := by unfold Thread.markG; split <;> rfl
@[simp] theorem Thread.markG_stepping (t : Thread) (n : Nat) (r : RegSt) : (t.markG n r).stepping = t.stepping := by unfold Thread.markG; split <;> rfl
@[simp] theorem Thread.markG_stepped (t : Thread) (n : Nat) (r : RegSt) : (t.markG n r).stepped = t.stepped := by unfold Thread.markG; split <;> rfl
@[simp] theorem Thread.markG_fresh (t : Thread) (n : Nat) (r : RegSt) : (t.markG n r).fresh = t.fresh := by unfold Thread.markG; split <;> rfl
@[simp] theorem Thread.markG_stopInfo (t : Thread) (n : Nat) (r : RegSt) : (t.markG n r).stopInfo = t.stopInfo := by unfold Thread.markG; split <;> rfl
@[simp] theorem Thread.markG_yielded (t : Thread) (n : Nat) (r : RegSt) : (t.markG n r).yielded = t.yielded := by unfold Thread.markG; split <;> rfl
@[simp] theorem Thread.markG_reissue (t : Thread) (n : Nat) (r : RegSt) : (t.markG n r).reissue = t.reissue := by unfold Thread.markG; split <;> rfl
@[simp] theorem Thread.putV_life (t : Thread) (n : Nat) (l : Line) : (t.putV n l).life = t.life := rfl
@[simp] theorem Thread.putV_held (t : Thread) (n : Nat) (l : Line) : (t.putV n l).held = t.held := rfl
@[simp] theorem Thread.putV_pc (t : Thread) (n : Nat) (l : Line) : (t.putV n l).pc = t.pc := rfl
@[simp] theorem Thread.putV_g (t : Thread) (n : Nat) (l : Line) : (t.putV n l).g = t.g := rfl
@[simp] theorem Thread.putV_gst (t : Thread) (n : Nat) (l : Line) : (t.putV n l).gst = t.gst := rfl
@[simp] theorem Thread.putV_tag00 (t : Thread) (n : Nat) (l : Line) : (t.putV n l).tag00 = t.tag00 := rfl
@[simp] theorem Thread.putV_p (t : Thread) (n : Nat) (l : Line) : (t.putV n l).p = t.p := rfl
@[simp] theorem Thread.putV_m (t : Thread) (n : Nat) (l : Line) : (t.putV n l).m = t.m := rfl
@[simp] theorem Thread.putV_x (t : Thread) (n : Nat) (l : Line) : (t.putV n l).x = t.x := rfl
@[simp] theorem Thread.putV_status (t : Thread) (n : Nat) (l : Line) : (t.putV n l).status = t.status := rfl
@[simp] theorem Thread.putV_asid (t : Thread) (n : Nat) (l : Line) : (t.putV n l).asid = t.asid := rfl
@[simp] theorem Thread.putV_ptbase (t : Thread) (n : Nat) (l : Line) : (t.putV n l).ptbase = t.ptbase := rfl
@[simp] theorem Thread.putV_meshwin (t : Thread) (n : Nat) (l : Line) : (t.putV n l).meshwin = t.meshwin := rfl
@[simp] theorem Thread.putV_trapvec (t : Thread) (n : Nat) (l : Line) : (t.putV n l).trapvec = t.trapvec := rfl
@[simp] theorem Thread.putV_trappc (t : Thread) (n : Nat) (l : Line) : (t.putV n l).trappc = t.trappc := rfl
@[simp] theorem Thread.putV_trapcause (t : Thread) (n : Nat) (l : Line) : (t.putV n l).trapcause = t.trapcause := rfl
@[simp] theorem Thread.putV_trapval (t : Thread) (n : Nat) (l : Line) : (t.putV n l).trapval = t.trapval := rfl
@[simp] theorem Thread.putV_trapval2 (t : Thread) (n : Nat) (l : Line) : (t.putV n l).trapval2 = t.trapval2 := rfl
@[simp] theorem Thread.putV_trapsave (t : Thread) (n : Nat) (l : Line) : (t.putV n l).trapsave = t.trapsave := rfl
@[simp] theorem Thread.putV_intpend (t : Thread) (n : Nat) (l : Line) : (t.putV n l).intpend = t.intpend := rfl
@[simp] theorem Thread.putV_intmask (t : Thread) (n : Nat) (l : Line) : (t.putV n l).intmask = t.intmask := rfl
@[simp] theorem Thread.putV_fpflags (t : Thread) (n : Nat) (l : Line) : (t.putV n l).fpflags = t.fpflags := rfl
@[simp] theorem Thread.putV_brk (t : Thread) (n : Nat) (l : Line) : (t.putV n l).brk = t.brk := rfl
@[simp] theorem Thread.putV_wch (t : Thread) (n : Nat) (l : Line) : (t.putV n l).wch = t.wch := rfl
@[simp] theorem Thread.putV_outs (t : Thread) (n : Nat) (l : Line) : (t.putV n l).outs = t.outs := rfl
@[simp] theorem Thread.putV_acq (t : Thread) (n : Nat) (l : Line) : (t.putV n l).acq = t.acq := rfl
@[simp] theorem Thread.putV_gathers (t : Thread) (n : Nat) (l : Line) : (t.putV n l).gathers = t.gathers := rfl
@[simp] theorem Thread.putV_deferred (t : Thread) (n : Nat) (l : Line) : (t.putV n l).deferred = t.deferred := rfl
@[simp] theorem Thread.putV_late (t : Thread) (n : Nat) (l : Line) : (t.putV n l).late = t.late := rfl
@[simp] theorem Thread.putV_owed (t : Thread) (n : Nat) (l : Line) : (t.putV n l).owed = t.owed := rfl
@[simp] theorem Thread.putV_fb (t : Thread) (n : Nat) (l : Line) : (t.putV n l).fb = t.fb := rfl
@[simp] theorem Thread.putV_half (t : Thread) (n : Nat) (l : Line) : (t.putV n l).half = t.half := rfl
@[simp] theorem Thread.putV_fetched (t : Thread) (n : Nat) (l : Line) : (t.putV n l).fetched = t.fetched := rfl
@[simp] theorem Thread.putV_walk (t : Thread) (n : Nat) (l : Line) : (t.putV n l).walk = t.walk := rfl
@[simp] theorem Thread.putV_dropped (t : Thread) (n : Nat) (l : Line) : (t.putV n l).dropped = t.dropped := rfl
@[simp] theorem Thread.putV_wait (t : Thread) (n : Nat) (l : Line) : (t.putV n l).wait = t.wait := rfl
@[simp] theorem Thread.putV_aside (t : Thread) (n : Nat) (l : Line) : (t.putV n l).aside = t.aside := rfl
@[simp] theorem Thread.putV_putBuf (t : Thread) (n : Nat) (l : Line) : (t.putV n l).putBuf = t.putBuf := rfl
@[simp] theorem Thread.putV_launch (t : Thread) (n : Nat) (l : Line) : (t.putV n l).launch = t.launch := rfl
@[simp] theorem Thread.putV_rank (t : Thread) (n : Nat) (l : Line) : (t.putV n l).rank = t.rank := rfl
@[simp] theorem Thread.putV_count (t : Thread) (n : Nat) (l : Line) : (t.putV n l).count = t.count := rfl
@[simp] theorem Thread.putV_arm (t : Thread) (n : Nat) (l : Line) : (t.putV n l).arm = t.arm := rfl
@[simp] theorem Thread.putV_stepping (t : Thread) (n : Nat) (l : Line) : (t.putV n l).stepping = t.stepping := rfl
@[simp] theorem Thread.putV_stepped (t : Thread) (n : Nat) (l : Line) : (t.putV n l).stepped = t.stepped := rfl
@[simp] theorem Thread.putV_fresh (t : Thread) (n : Nat) (l : Line) : (t.putV n l).fresh = t.fresh := rfl
@[simp] theorem Thread.putV_stopInfo (t : Thread) (n : Nat) (l : Line) : (t.putV n l).stopInfo = t.stopInfo := rfl
@[simp] theorem Thread.putV_yielded (t : Thread) (n : Nat) (l : Line) : (t.putV n l).yielded = t.yielded := rfl
@[simp] theorem Thread.putV_reissue (t : Thread) (n : Nat) (l : Line) : (t.putV n l).reissue = t.reissue := rfl
@[simp] theorem Thread.markV_life (t : Thread) (n : Nat) (r : RegSt) : (t.markV n r).life = t.life := rfl
@[simp] theorem Thread.markV_held (t : Thread) (n : Nat) (r : RegSt) : (t.markV n r).held = t.held := rfl
@[simp] theorem Thread.markV_pc (t : Thread) (n : Nat) (r : RegSt) : (t.markV n r).pc = t.pc := rfl
@[simp] theorem Thread.markV_g (t : Thread) (n : Nat) (r : RegSt) : (t.markV n r).g = t.g := rfl
@[simp] theorem Thread.markV_gst (t : Thread) (n : Nat) (r : RegSt) : (t.markV n r).gst = t.gst := rfl
@[simp] theorem Thread.markV_tag00 (t : Thread) (n : Nat) (r : RegSt) : (t.markV n r).tag00 = t.tag00 := rfl
@[simp] theorem Thread.markV_v (t : Thread) (n : Nat) (r : RegSt) : (t.markV n r).v = t.v := rfl
@[simp] theorem Thread.markV_p (t : Thread) (n : Nat) (r : RegSt) : (t.markV n r).p = t.p := rfl
@[simp] theorem Thread.markV_m (t : Thread) (n : Nat) (r : RegSt) : (t.markV n r).m = t.m := rfl
@[simp] theorem Thread.markV_x (t : Thread) (n : Nat) (r : RegSt) : (t.markV n r).x = t.x := rfl
@[simp] theorem Thread.markV_status (t : Thread) (n : Nat) (r : RegSt) : (t.markV n r).status = t.status := rfl
@[simp] theorem Thread.markV_asid (t : Thread) (n : Nat) (r : RegSt) : (t.markV n r).asid = t.asid := rfl
@[simp] theorem Thread.markV_ptbase (t : Thread) (n : Nat) (r : RegSt) : (t.markV n r).ptbase = t.ptbase := rfl
@[simp] theorem Thread.markV_meshwin (t : Thread) (n : Nat) (r : RegSt) : (t.markV n r).meshwin = t.meshwin := rfl
@[simp] theorem Thread.markV_trapvec (t : Thread) (n : Nat) (r : RegSt) : (t.markV n r).trapvec = t.trapvec := rfl
@[simp] theorem Thread.markV_trappc (t : Thread) (n : Nat) (r : RegSt) : (t.markV n r).trappc = t.trappc := rfl
@[simp] theorem Thread.markV_trapcause (t : Thread) (n : Nat) (r : RegSt) : (t.markV n r).trapcause = t.trapcause := rfl
@[simp] theorem Thread.markV_trapval (t : Thread) (n : Nat) (r : RegSt) : (t.markV n r).trapval = t.trapval := rfl
@[simp] theorem Thread.markV_trapval2 (t : Thread) (n : Nat) (r : RegSt) : (t.markV n r).trapval2 = t.trapval2 := rfl
@[simp] theorem Thread.markV_trapsave (t : Thread) (n : Nat) (r : RegSt) : (t.markV n r).trapsave = t.trapsave := rfl
@[simp] theorem Thread.markV_intpend (t : Thread) (n : Nat) (r : RegSt) : (t.markV n r).intpend = t.intpend := rfl
@[simp] theorem Thread.markV_intmask (t : Thread) (n : Nat) (r : RegSt) : (t.markV n r).intmask = t.intmask := rfl
@[simp] theorem Thread.markV_fpflags (t : Thread) (n : Nat) (r : RegSt) : (t.markV n r).fpflags = t.fpflags := rfl
@[simp] theorem Thread.markV_brk (t : Thread) (n : Nat) (r : RegSt) : (t.markV n r).brk = t.brk := rfl
@[simp] theorem Thread.markV_wch (t : Thread) (n : Nat) (r : RegSt) : (t.markV n r).wch = t.wch := rfl
@[simp] theorem Thread.markV_outs (t : Thread) (n : Nat) (r : RegSt) : (t.markV n r).outs = t.outs := rfl
@[simp] theorem Thread.markV_acq (t : Thread) (n : Nat) (r : RegSt) : (t.markV n r).acq = t.acq := rfl
@[simp] theorem Thread.markV_gathers (t : Thread) (n : Nat) (r : RegSt) : (t.markV n r).gathers = t.gathers := rfl
@[simp] theorem Thread.markV_deferred (t : Thread) (n : Nat) (r : RegSt) : (t.markV n r).deferred = t.deferred := rfl
@[simp] theorem Thread.markV_late (t : Thread) (n : Nat) (r : RegSt) : (t.markV n r).late = t.late := rfl
@[simp] theorem Thread.markV_owed (t : Thread) (n : Nat) (r : RegSt) : (t.markV n r).owed = t.owed := rfl
@[simp] theorem Thread.markV_fb (t : Thread) (n : Nat) (r : RegSt) : (t.markV n r).fb = t.fb := rfl
@[simp] theorem Thread.markV_half (t : Thread) (n : Nat) (r : RegSt) : (t.markV n r).half = t.half := rfl
@[simp] theorem Thread.markV_fetched (t : Thread) (n : Nat) (r : RegSt) : (t.markV n r).fetched = t.fetched := rfl
@[simp] theorem Thread.markV_walk (t : Thread) (n : Nat) (r : RegSt) : (t.markV n r).walk = t.walk := rfl
@[simp] theorem Thread.markV_dropped (t : Thread) (n : Nat) (r : RegSt) : (t.markV n r).dropped = t.dropped := rfl
@[simp] theorem Thread.markV_wait (t : Thread) (n : Nat) (r : RegSt) : (t.markV n r).wait = t.wait := rfl
@[simp] theorem Thread.markV_aside (t : Thread) (n : Nat) (r : RegSt) : (t.markV n r).aside = t.aside := rfl
@[simp] theorem Thread.markV_putBuf (t : Thread) (n : Nat) (r : RegSt) : (t.markV n r).putBuf = t.putBuf := rfl
@[simp] theorem Thread.markV_launch (t : Thread) (n : Nat) (r : RegSt) : (t.markV n r).launch = t.launch := rfl
@[simp] theorem Thread.markV_rank (t : Thread) (n : Nat) (r : RegSt) : (t.markV n r).rank = t.rank := rfl
@[simp] theorem Thread.markV_count (t : Thread) (n : Nat) (r : RegSt) : (t.markV n r).count = t.count := rfl
@[simp] theorem Thread.markV_arm (t : Thread) (n : Nat) (r : RegSt) : (t.markV n r).arm = t.arm := rfl
@[simp] theorem Thread.markV_stepping (t : Thread) (n : Nat) (r : RegSt) : (t.markV n r).stepping = t.stepping := rfl
@[simp] theorem Thread.markV_stepped (t : Thread) (n : Nat) (r : RegSt) : (t.markV n r).stepped = t.stepped := rfl
@[simp] theorem Thread.markV_fresh (t : Thread) (n : Nat) (r : RegSt) : (t.markV n r).fresh = t.fresh := rfl
@[simp] theorem Thread.markV_stopInfo (t : Thread) (n : Nat) (r : RegSt) : (t.markV n r).stopInfo = t.stopInfo := rfl
@[simp] theorem Thread.markV_yielded (t : Thread) (n : Nat) (r : RegSt) : (t.markV n r).yielded = t.yielded := rfl
@[simp] theorem Thread.markV_reissue (t : Thread) (n : Nat) (r : RegSt) : (t.markV n r).reissue = t.reissue := rfl
@[simp] theorem Thread.putP_life (t : Thread) (n : Nat) (b : Bool) : (t.putP n b).life = t.life := by unfold Thread.putP; split <;> rfl
@[simp] theorem Thread.putP_held (t : Thread) (n : Nat) (b : Bool) : (t.putP n b).held = t.held := by unfold Thread.putP; split <;> rfl
@[simp] theorem Thread.putP_pc (t : Thread) (n : Nat) (b : Bool) : (t.putP n b).pc = t.pc := by unfold Thread.putP; split <;> rfl
@[simp] theorem Thread.putP_g (t : Thread) (n : Nat) (b : Bool) : (t.putP n b).g = t.g := by unfold Thread.putP; split <;> rfl
@[simp] theorem Thread.putP_gst (t : Thread) (n : Nat) (b : Bool) : (t.putP n b).gst = t.gst := by unfold Thread.putP; split <;> rfl
@[simp] theorem Thread.putP_tag00 (t : Thread) (n : Nat) (b : Bool) : (t.putP n b).tag00 = t.tag00 := by unfold Thread.putP; split <;> rfl
@[simp] theorem Thread.putP_v (t : Thread) (n : Nat) (b : Bool) : (t.putP n b).v = t.v := by unfold Thread.putP; split <;> rfl
@[simp] theorem Thread.putP_vst (t : Thread) (n : Nat) (b : Bool) : (t.putP n b).vst = t.vst := by unfold Thread.putP; split <;> rfl
@[simp] theorem Thread.putP_m (t : Thread) (n : Nat) (b : Bool) : (t.putP n b).m = t.m := by unfold Thread.putP; split <;> rfl
@[simp] theorem Thread.putP_x (t : Thread) (n : Nat) (b : Bool) : (t.putP n b).x = t.x := by unfold Thread.putP; split <;> rfl
@[simp] theorem Thread.putP_status (t : Thread) (n : Nat) (b : Bool) : (t.putP n b).status = t.status := by unfold Thread.putP; split <;> rfl
@[simp] theorem Thread.putP_asid (t : Thread) (n : Nat) (b : Bool) : (t.putP n b).asid = t.asid := by unfold Thread.putP; split <;> rfl
@[simp] theorem Thread.putP_ptbase (t : Thread) (n : Nat) (b : Bool) : (t.putP n b).ptbase = t.ptbase := by unfold Thread.putP; split <;> rfl
@[simp] theorem Thread.putP_meshwin (t : Thread) (n : Nat) (b : Bool) : (t.putP n b).meshwin = t.meshwin := by unfold Thread.putP; split <;> rfl
@[simp] theorem Thread.putP_trapvec (t : Thread) (n : Nat) (b : Bool) : (t.putP n b).trapvec = t.trapvec := by unfold Thread.putP; split <;> rfl
@[simp] theorem Thread.putP_trappc (t : Thread) (n : Nat) (b : Bool) : (t.putP n b).trappc = t.trappc := by unfold Thread.putP; split <;> rfl
@[simp] theorem Thread.putP_trapcause (t : Thread) (n : Nat) (b : Bool) : (t.putP n b).trapcause = t.trapcause := by unfold Thread.putP; split <;> rfl
@[simp] theorem Thread.putP_trapval (t : Thread) (n : Nat) (b : Bool) : (t.putP n b).trapval = t.trapval := by unfold Thread.putP; split <;> rfl
@[simp] theorem Thread.putP_trapval2 (t : Thread) (n : Nat) (b : Bool) : (t.putP n b).trapval2 = t.trapval2 := by unfold Thread.putP; split <;> rfl
@[simp] theorem Thread.putP_trapsave (t : Thread) (n : Nat) (b : Bool) : (t.putP n b).trapsave = t.trapsave := by unfold Thread.putP; split <;> rfl
@[simp] theorem Thread.putP_intpend (t : Thread) (n : Nat) (b : Bool) : (t.putP n b).intpend = t.intpend := by unfold Thread.putP; split <;> rfl
@[simp] theorem Thread.putP_intmask (t : Thread) (n : Nat) (b : Bool) : (t.putP n b).intmask = t.intmask := by unfold Thread.putP; split <;> rfl
@[simp] theorem Thread.putP_fpflags (t : Thread) (n : Nat) (b : Bool) : (t.putP n b).fpflags = t.fpflags := by unfold Thread.putP; split <;> rfl
@[simp] theorem Thread.putP_brk (t : Thread) (n : Nat) (b : Bool) : (t.putP n b).brk = t.brk := by unfold Thread.putP; split <;> rfl
@[simp] theorem Thread.putP_wch (t : Thread) (n : Nat) (b : Bool) : (t.putP n b).wch = t.wch := by unfold Thread.putP; split <;> rfl
@[simp] theorem Thread.putP_outs (t : Thread) (n : Nat) (b : Bool) : (t.putP n b).outs = t.outs := by unfold Thread.putP; split <;> rfl
@[simp] theorem Thread.putP_acq (t : Thread) (n : Nat) (b : Bool) : (t.putP n b).acq = t.acq := by unfold Thread.putP; split <;> rfl
@[simp] theorem Thread.putP_gathers (t : Thread) (n : Nat) (b : Bool) : (t.putP n b).gathers = t.gathers := by unfold Thread.putP; split <;> rfl
@[simp] theorem Thread.putP_deferred (t : Thread) (n : Nat) (b : Bool) : (t.putP n b).deferred = t.deferred := by unfold Thread.putP; split <;> rfl
@[simp] theorem Thread.putP_late (t : Thread) (n : Nat) (b : Bool) : (t.putP n b).late = t.late := by unfold Thread.putP; split <;> rfl
@[simp] theorem Thread.putP_owed (t : Thread) (n : Nat) (b : Bool) : (t.putP n b).owed = t.owed := by unfold Thread.putP; split <;> rfl
@[simp] theorem Thread.putP_fb (t : Thread) (n : Nat) (b : Bool) : (t.putP n b).fb = t.fb := by unfold Thread.putP; split <;> rfl
@[simp] theorem Thread.putP_half (t : Thread) (n : Nat) (b : Bool) : (t.putP n b).half = t.half := by unfold Thread.putP; split <;> rfl
@[simp] theorem Thread.putP_fetched (t : Thread) (n : Nat) (b : Bool) : (t.putP n b).fetched = t.fetched := by unfold Thread.putP; split <;> rfl
@[simp] theorem Thread.putP_walk (t : Thread) (n : Nat) (b : Bool) : (t.putP n b).walk = t.walk := by unfold Thread.putP; split <;> rfl
@[simp] theorem Thread.putP_dropped (t : Thread) (n : Nat) (b : Bool) : (t.putP n b).dropped = t.dropped := by unfold Thread.putP; split <;> rfl
@[simp] theorem Thread.putP_wait (t : Thread) (n : Nat) (b : Bool) : (t.putP n b).wait = t.wait := by unfold Thread.putP; split <;> rfl
@[simp] theorem Thread.putP_aside (t : Thread) (n : Nat) (b : Bool) : (t.putP n b).aside = t.aside := by unfold Thread.putP; split <;> rfl
@[simp] theorem Thread.putP_putBuf (t : Thread) (n : Nat) (b : Bool) : (t.putP n b).putBuf = t.putBuf := by unfold Thread.putP; split <;> rfl
@[simp] theorem Thread.putP_launch (t : Thread) (n : Nat) (b : Bool) : (t.putP n b).launch = t.launch := by unfold Thread.putP; split <;> rfl
@[simp] theorem Thread.putP_rank (t : Thread) (n : Nat) (b : Bool) : (t.putP n b).rank = t.rank := by unfold Thread.putP; split <;> rfl
@[simp] theorem Thread.putP_count (t : Thread) (n : Nat) (b : Bool) : (t.putP n b).count = t.count := by unfold Thread.putP; split <;> rfl
@[simp] theorem Thread.putP_arm (t : Thread) (n : Nat) (b : Bool) : (t.putP n b).arm = t.arm := by unfold Thread.putP; split <;> rfl
@[simp] theorem Thread.putP_stepping (t : Thread) (n : Nat) (b : Bool) : (t.putP n b).stepping = t.stepping := by unfold Thread.putP; split <;> rfl
@[simp] theorem Thread.putP_stepped (t : Thread) (n : Nat) (b : Bool) : (t.putP n b).stepped = t.stepped := by unfold Thread.putP; split <;> rfl
@[simp] theorem Thread.putP_fresh (t : Thread) (n : Nat) (b : Bool) : (t.putP n b).fresh = t.fresh := by unfold Thread.putP; split <;> rfl
@[simp] theorem Thread.putP_stopInfo (t : Thread) (n : Nat) (b : Bool) : (t.putP n b).stopInfo = t.stopInfo := by unfold Thread.putP; split <;> rfl
@[simp] theorem Thread.putP_yielded (t : Thread) (n : Nat) (b : Bool) : (t.putP n b).yielded = t.yielded := by unfold Thread.putP; split <;> rfl
@[simp] theorem Thread.putP_reissue (t : Thread) (n : Nat) (b : Bool) : (t.putP n b).reissue = t.reissue := by unfold Thread.putP; split <;> rfl
@[simp] theorem Thread.putM_life (t : Thread) (n : Nat) (w : Word) : (t.putM n w).life = t.life := by unfold Thread.putM; split <;> rfl
@[simp] theorem Thread.putM_held (t : Thread) (n : Nat) (w : Word) : (t.putM n w).held = t.held := by unfold Thread.putM; split <;> rfl
@[simp] theorem Thread.putM_pc (t : Thread) (n : Nat) (w : Word) : (t.putM n w).pc = t.pc := by unfold Thread.putM; split <;> rfl
@[simp] theorem Thread.putM_g (t : Thread) (n : Nat) (w : Word) : (t.putM n w).g = t.g := by unfold Thread.putM; split <;> rfl
@[simp] theorem Thread.putM_gst (t : Thread) (n : Nat) (w : Word) : (t.putM n w).gst = t.gst := by unfold Thread.putM; split <;> rfl
@[simp] theorem Thread.putM_tag00 (t : Thread) (n : Nat) (w : Word) : (t.putM n w).tag00 = t.tag00 := by unfold Thread.putM; split <;> rfl
@[simp] theorem Thread.putM_v (t : Thread) (n : Nat) (w : Word) : (t.putM n w).v = t.v := by unfold Thread.putM; split <;> rfl
@[simp] theorem Thread.putM_vst (t : Thread) (n : Nat) (w : Word) : (t.putM n w).vst = t.vst := by unfold Thread.putM; split <;> rfl
@[simp] theorem Thread.putM_p (t : Thread) (n : Nat) (w : Word) : (t.putM n w).p = t.p := by unfold Thread.putM; split <;> rfl
@[simp] theorem Thread.putM_x (t : Thread) (n : Nat) (w : Word) : (t.putM n w).x = t.x := by unfold Thread.putM; split <;> rfl
@[simp] theorem Thread.putM_status (t : Thread) (n : Nat) (w : Word) : (t.putM n w).status = t.status := by unfold Thread.putM; split <;> rfl
@[simp] theorem Thread.putM_asid (t : Thread) (n : Nat) (w : Word) : (t.putM n w).asid = t.asid := by unfold Thread.putM; split <;> rfl
@[simp] theorem Thread.putM_ptbase (t : Thread) (n : Nat) (w : Word) : (t.putM n w).ptbase = t.ptbase := by unfold Thread.putM; split <;> rfl
@[simp] theorem Thread.putM_meshwin (t : Thread) (n : Nat) (w : Word) : (t.putM n w).meshwin = t.meshwin := by unfold Thread.putM; split <;> rfl
@[simp] theorem Thread.putM_trapvec (t : Thread) (n : Nat) (w : Word) : (t.putM n w).trapvec = t.trapvec := by unfold Thread.putM; split <;> rfl
@[simp] theorem Thread.putM_trappc (t : Thread) (n : Nat) (w : Word) : (t.putM n w).trappc = t.trappc := by unfold Thread.putM; split <;> rfl
@[simp] theorem Thread.putM_trapcause (t : Thread) (n : Nat) (w : Word) : (t.putM n w).trapcause = t.trapcause := by unfold Thread.putM; split <;> rfl
@[simp] theorem Thread.putM_trapval (t : Thread) (n : Nat) (w : Word) : (t.putM n w).trapval = t.trapval := by unfold Thread.putM; split <;> rfl
@[simp] theorem Thread.putM_trapval2 (t : Thread) (n : Nat) (w : Word) : (t.putM n w).trapval2 = t.trapval2 := by unfold Thread.putM; split <;> rfl
@[simp] theorem Thread.putM_trapsave (t : Thread) (n : Nat) (w : Word) : (t.putM n w).trapsave = t.trapsave := by unfold Thread.putM; split <;> rfl
@[simp] theorem Thread.putM_intpend (t : Thread) (n : Nat) (w : Word) : (t.putM n w).intpend = t.intpend := by unfold Thread.putM; split <;> rfl
@[simp] theorem Thread.putM_intmask (t : Thread) (n : Nat) (w : Word) : (t.putM n w).intmask = t.intmask := by unfold Thread.putM; split <;> rfl
@[simp] theorem Thread.putM_fpflags (t : Thread) (n : Nat) (w : Word) : (t.putM n w).fpflags = t.fpflags := by unfold Thread.putM; split <;> rfl
@[simp] theorem Thread.putM_brk (t : Thread) (n : Nat) (w : Word) : (t.putM n w).brk = t.brk := by unfold Thread.putM; split <;> rfl
@[simp] theorem Thread.putM_wch (t : Thread) (n : Nat) (w : Word) : (t.putM n w).wch = t.wch := by unfold Thread.putM; split <;> rfl
@[simp] theorem Thread.putM_outs (t : Thread) (n : Nat) (w : Word) : (t.putM n w).outs = t.outs := by unfold Thread.putM; split <;> rfl
@[simp] theorem Thread.putM_acq (t : Thread) (n : Nat) (w : Word) : (t.putM n w).acq = t.acq := by unfold Thread.putM; split <;> rfl
@[simp] theorem Thread.putM_gathers (t : Thread) (n : Nat) (w : Word) : (t.putM n w).gathers = t.gathers := by unfold Thread.putM; split <;> rfl
@[simp] theorem Thread.putM_deferred (t : Thread) (n : Nat) (w : Word) : (t.putM n w).deferred = t.deferred := by unfold Thread.putM; split <;> rfl
@[simp] theorem Thread.putM_late (t : Thread) (n : Nat) (w : Word) : (t.putM n w).late = t.late := by unfold Thread.putM; split <;> rfl
@[simp] theorem Thread.putM_owed (t : Thread) (n : Nat) (w : Word) : (t.putM n w).owed = t.owed := by unfold Thread.putM; split <;> rfl
@[simp] theorem Thread.putM_fb (t : Thread) (n : Nat) (w : Word) : (t.putM n w).fb = t.fb := by unfold Thread.putM; split <;> rfl
@[simp] theorem Thread.putM_half (t : Thread) (n : Nat) (w : Word) : (t.putM n w).half = t.half := by unfold Thread.putM; split <;> rfl
@[simp] theorem Thread.putM_fetched (t : Thread) (n : Nat) (w : Word) : (t.putM n w).fetched = t.fetched := by unfold Thread.putM; split <;> rfl
@[simp] theorem Thread.putM_walk (t : Thread) (n : Nat) (w : Word) : (t.putM n w).walk = t.walk := by unfold Thread.putM; split <;> rfl
@[simp] theorem Thread.putM_dropped (t : Thread) (n : Nat) (w : Word) : (t.putM n w).dropped = t.dropped := by unfold Thread.putM; split <;> rfl
@[simp] theorem Thread.putM_wait (t : Thread) (n : Nat) (w : Word) : (t.putM n w).wait = t.wait := by unfold Thread.putM; split <;> rfl
@[simp] theorem Thread.putM_aside (t : Thread) (n : Nat) (w : Word) : (t.putM n w).aside = t.aside := by unfold Thread.putM; split <;> rfl
@[simp] theorem Thread.putM_putBuf (t : Thread) (n : Nat) (w : Word) : (t.putM n w).putBuf = t.putBuf := by unfold Thread.putM; split <;> rfl
@[simp] theorem Thread.putM_launch (t : Thread) (n : Nat) (w : Word) : (t.putM n w).launch = t.launch := by unfold Thread.putM; split <;> rfl
@[simp] theorem Thread.putM_rank (t : Thread) (n : Nat) (w : Word) : (t.putM n w).rank = t.rank := by unfold Thread.putM; split <;> rfl
@[simp] theorem Thread.putM_count (t : Thread) (n : Nat) (w : Word) : (t.putM n w).count = t.count := by unfold Thread.putM; split <;> rfl
@[simp] theorem Thread.putM_arm (t : Thread) (n : Nat) (w : Word) : (t.putM n w).arm = t.arm := by unfold Thread.putM; split <;> rfl
@[simp] theorem Thread.putM_stepping (t : Thread) (n : Nat) (w : Word) : (t.putM n w).stepping = t.stepping := by unfold Thread.putM; split <;> rfl
@[simp] theorem Thread.putM_stepped (t : Thread) (n : Nat) (w : Word) : (t.putM n w).stepped = t.stepped := by unfold Thread.putM; split <;> rfl
@[simp] theorem Thread.putM_fresh (t : Thread) (n : Nat) (w : Word) : (t.putM n w).fresh = t.fresh := by unfold Thread.putM; split <;> rfl
@[simp] theorem Thread.putM_stopInfo (t : Thread) (n : Nat) (w : Word) : (t.putM n w).stopInfo = t.stopInfo := by unfold Thread.putM; split <;> rfl
@[simp] theorem Thread.putM_yielded (t : Thread) (n : Nat) (w : Word) : (t.putM n w).yielded = t.yielded := by unfold Thread.putM; split <;> rfl
@[simp] theorem Thread.putM_reissue (t : Thread) (n : Nat) (w : Word) : (t.putM n w).reissue = t.reissue := by unfold Thread.putM; split <;> rfl
@[simp] theorem Thread.putX_life (t : Thread) (n : Nat) (w : Word) : (t.putX n w).life = t.life := rfl
@[simp] theorem Thread.putX_held (t : Thread) (n : Nat) (w : Word) : (t.putX n w).held = t.held := rfl
@[simp] theorem Thread.putX_pc (t : Thread) (n : Nat) (w : Word) : (t.putX n w).pc = t.pc := rfl
@[simp] theorem Thread.putX_g (t : Thread) (n : Nat) (w : Word) : (t.putX n w).g = t.g := rfl
@[simp] theorem Thread.putX_gst (t : Thread) (n : Nat) (w : Word) : (t.putX n w).gst = t.gst := rfl
@[simp] theorem Thread.putX_tag00 (t : Thread) (n : Nat) (w : Word) : (t.putX n w).tag00 = t.tag00 := rfl
@[simp] theorem Thread.putX_v (t : Thread) (n : Nat) (w : Word) : (t.putX n w).v = t.v := rfl
@[simp] theorem Thread.putX_vst (t : Thread) (n : Nat) (w : Word) : (t.putX n w).vst = t.vst := rfl
@[simp] theorem Thread.putX_p (t : Thread) (n : Nat) (w : Word) : (t.putX n w).p = t.p := rfl
@[simp] theorem Thread.putX_m (t : Thread) (n : Nat) (w : Word) : (t.putX n w).m = t.m := rfl
@[simp] theorem Thread.putX_status (t : Thread) (n : Nat) (w : Word) : (t.putX n w).status = t.status := rfl
@[simp] theorem Thread.putX_asid (t : Thread) (n : Nat) (w : Word) : (t.putX n w).asid = t.asid := rfl
@[simp] theorem Thread.putX_ptbase (t : Thread) (n : Nat) (w : Word) : (t.putX n w).ptbase = t.ptbase := rfl
@[simp] theorem Thread.putX_meshwin (t : Thread) (n : Nat) (w : Word) : (t.putX n w).meshwin = t.meshwin := rfl
@[simp] theorem Thread.putX_trapvec (t : Thread) (n : Nat) (w : Word) : (t.putX n w).trapvec = t.trapvec := rfl
@[simp] theorem Thread.putX_trappc (t : Thread) (n : Nat) (w : Word) : (t.putX n w).trappc = t.trappc := rfl
@[simp] theorem Thread.putX_trapcause (t : Thread) (n : Nat) (w : Word) : (t.putX n w).trapcause = t.trapcause := rfl
@[simp] theorem Thread.putX_trapval (t : Thread) (n : Nat) (w : Word) : (t.putX n w).trapval = t.trapval := rfl
@[simp] theorem Thread.putX_trapval2 (t : Thread) (n : Nat) (w : Word) : (t.putX n w).trapval2 = t.trapval2 := rfl
@[simp] theorem Thread.putX_trapsave (t : Thread) (n : Nat) (w : Word) : (t.putX n w).trapsave = t.trapsave := rfl
@[simp] theorem Thread.putX_intpend (t : Thread) (n : Nat) (w : Word) : (t.putX n w).intpend = t.intpend := rfl
@[simp] theorem Thread.putX_intmask (t : Thread) (n : Nat) (w : Word) : (t.putX n w).intmask = t.intmask := rfl
@[simp] theorem Thread.putX_fpflags (t : Thread) (n : Nat) (w : Word) : (t.putX n w).fpflags = t.fpflags := rfl
@[simp] theorem Thread.putX_brk (t : Thread) (n : Nat) (w : Word) : (t.putX n w).brk = t.brk := rfl
@[simp] theorem Thread.putX_wch (t : Thread) (n : Nat) (w : Word) : (t.putX n w).wch = t.wch := rfl
@[simp] theorem Thread.putX_outs (t : Thread) (n : Nat) (w : Word) : (t.putX n w).outs = t.outs := rfl
@[simp] theorem Thread.putX_acq (t : Thread) (n : Nat) (w : Word) : (t.putX n w).acq = t.acq := rfl
@[simp] theorem Thread.putX_gathers (t : Thread) (n : Nat) (w : Word) : (t.putX n w).gathers = t.gathers := rfl
@[simp] theorem Thread.putX_deferred (t : Thread) (n : Nat) (w : Word) : (t.putX n w).deferred = t.deferred := rfl
@[simp] theorem Thread.putX_late (t : Thread) (n : Nat) (w : Word) : (t.putX n w).late = t.late := rfl
@[simp] theorem Thread.putX_owed (t : Thread) (n : Nat) (w : Word) : (t.putX n w).owed = t.owed := rfl
@[simp] theorem Thread.putX_fb (t : Thread) (n : Nat) (w : Word) : (t.putX n w).fb = t.fb := rfl
@[simp] theorem Thread.putX_half (t : Thread) (n : Nat) (w : Word) : (t.putX n w).half = t.half := rfl
@[simp] theorem Thread.putX_fetched (t : Thread) (n : Nat) (w : Word) : (t.putX n w).fetched = t.fetched := rfl
@[simp] theorem Thread.putX_walk (t : Thread) (n : Nat) (w : Word) : (t.putX n w).walk = t.walk := rfl
@[simp] theorem Thread.putX_dropped (t : Thread) (n : Nat) (w : Word) : (t.putX n w).dropped = t.dropped := rfl
@[simp] theorem Thread.putX_wait (t : Thread) (n : Nat) (w : Word) : (t.putX n w).wait = t.wait := rfl
@[simp] theorem Thread.putX_aside (t : Thread) (n : Nat) (w : Word) : (t.putX n w).aside = t.aside := rfl
@[simp] theorem Thread.putX_putBuf (t : Thread) (n : Nat) (w : Word) : (t.putX n w).putBuf = t.putBuf := rfl
@[simp] theorem Thread.putX_launch (t : Thread) (n : Nat) (w : Word) : (t.putX n w).launch = t.launch := rfl
@[simp] theorem Thread.putX_rank (t : Thread) (n : Nat) (w : Word) : (t.putX n w).rank = t.rank := rfl
@[simp] theorem Thread.putX_count (t : Thread) (n : Nat) (w : Word) : (t.putX n w).count = t.count := rfl
@[simp] theorem Thread.putX_arm (t : Thread) (n : Nat) (w : Word) : (t.putX n w).arm = t.arm := rfl
@[simp] theorem Thread.putX_stepping (t : Thread) (n : Nat) (w : Word) : (t.putX n w).stepping = t.stepping := rfl
@[simp] theorem Thread.putX_stepped (t : Thread) (n : Nat) (w : Word) : (t.putX n w).stepped = t.stepped := rfl
@[simp] theorem Thread.putX_fresh (t : Thread) (n : Nat) (w : Word) : (t.putX n w).fresh = t.fresh := rfl
@[simp] theorem Thread.putX_stopInfo (t : Thread) (n : Nat) (w : Word) : (t.putX n w).stopInfo = t.stopInfo := rfl
@[simp] theorem Thread.putX_yielded (t : Thread) (n : Nat) (w : Word) : (t.putX n w).yielded = t.yielded := rfl
@[simp] theorem Thread.putX_reissue (t : Thread) (n : Nat) (w : Word) : (t.putX n w).reissue = t.reissue := rfl
@[simp] theorem Thread.transition_life (t : Thread) (c : RegClass) (n maj : Nat) (a b : RegSt) : (t.transition c n maj a b).life = t.life := by unfold Thread.transition; split <;> rfl
@[simp] theorem Thread.transition_held (t : Thread) (c : RegClass) (n maj : Nat) (a b : RegSt) : (t.transition c n maj a b).held = t.held := by unfold Thread.transition; split <;> rfl
@[simp] theorem Thread.transition_pc (t : Thread) (c : RegClass) (n maj : Nat) (a b : RegSt) : (t.transition c n maj a b).pc = t.pc := by unfold Thread.transition; split <;> rfl
@[simp] theorem Thread.transition_g (t : Thread) (c : RegClass) (n maj : Nat) (a b : RegSt) : (t.transition c n maj a b).g = t.g := by unfold Thread.transition; split <;> rfl
@[simp] theorem Thread.transition_gst (t : Thread) (c : RegClass) (n maj : Nat) (a b : RegSt) : (t.transition c n maj a b).gst = t.gst := by unfold Thread.transition; split <;> rfl
@[simp] theorem Thread.transition_tag00 (t : Thread) (c : RegClass) (n maj : Nat) (a b : RegSt) : (t.transition c n maj a b).tag00 = t.tag00 := by unfold Thread.transition; split <;> rfl
@[simp] theorem Thread.transition_v (t : Thread) (c : RegClass) (n maj : Nat) (a b : RegSt) : (t.transition c n maj a b).v = t.v := by unfold Thread.transition; split <;> rfl
@[simp] theorem Thread.transition_vst (t : Thread) (c : RegClass) (n maj : Nat) (a b : RegSt) : (t.transition c n maj a b).vst = t.vst := by unfold Thread.transition; split <;> rfl
@[simp] theorem Thread.transition_p (t : Thread) (c : RegClass) (n maj : Nat) (a b : RegSt) : (t.transition c n maj a b).p = t.p := by unfold Thread.transition; split <;> rfl
@[simp] theorem Thread.transition_m (t : Thread) (c : RegClass) (n maj : Nat) (a b : RegSt) : (t.transition c n maj a b).m = t.m := by unfold Thread.transition; split <;> rfl
@[simp] theorem Thread.transition_x (t : Thread) (c : RegClass) (n maj : Nat) (a b : RegSt) : (t.transition c n maj a b).x = t.x := by unfold Thread.transition; split <;> rfl
@[simp] theorem Thread.transition_status (t : Thread) (c : RegClass) (n maj : Nat) (a b : RegSt) : (t.transition c n maj a b).status = t.status := by unfold Thread.transition; split <;> rfl
@[simp] theorem Thread.transition_asid (t : Thread) (c : RegClass) (n maj : Nat) (a b : RegSt) : (t.transition c n maj a b).asid = t.asid := by unfold Thread.transition; split <;> rfl
@[simp] theorem Thread.transition_ptbase (t : Thread) (c : RegClass) (n maj : Nat) (a b : RegSt) : (t.transition c n maj a b).ptbase = t.ptbase := by unfold Thread.transition; split <;> rfl
@[simp] theorem Thread.transition_meshwin (t : Thread) (c : RegClass) (n maj : Nat) (a b : RegSt) : (t.transition c n maj a b).meshwin = t.meshwin := by unfold Thread.transition; split <;> rfl
@[simp] theorem Thread.transition_trapvec (t : Thread) (c : RegClass) (n maj : Nat) (a b : RegSt) : (t.transition c n maj a b).trapvec = t.trapvec := by unfold Thread.transition; split <;> rfl
@[simp] theorem Thread.transition_trappc (t : Thread) (c : RegClass) (n maj : Nat) (a b : RegSt) : (t.transition c n maj a b).trappc = t.trappc := by unfold Thread.transition; split <;> rfl
@[simp] theorem Thread.transition_trapcause (t : Thread) (c : RegClass) (n maj : Nat) (a b : RegSt) : (t.transition c n maj a b).trapcause = t.trapcause := by unfold Thread.transition; split <;> rfl
@[simp] theorem Thread.transition_trapval (t : Thread) (c : RegClass) (n maj : Nat) (a b : RegSt) : (t.transition c n maj a b).trapval = t.trapval := by unfold Thread.transition; split <;> rfl
@[simp] theorem Thread.transition_trapval2 (t : Thread) (c : RegClass) (n maj : Nat) (a b : RegSt) : (t.transition c n maj a b).trapval2 = t.trapval2 := by unfold Thread.transition; split <;> rfl
@[simp] theorem Thread.transition_trapsave (t : Thread) (c : RegClass) (n maj : Nat) (a b : RegSt) : (t.transition c n maj a b).trapsave = t.trapsave := by unfold Thread.transition; split <;> rfl
@[simp] theorem Thread.transition_intpend (t : Thread) (c : RegClass) (n maj : Nat) (a b : RegSt) : (t.transition c n maj a b).intpend = t.intpend := by unfold Thread.transition; split <;> rfl
@[simp] theorem Thread.transition_intmask (t : Thread) (c : RegClass) (n maj : Nat) (a b : RegSt) : (t.transition c n maj a b).intmask = t.intmask := by unfold Thread.transition; split <;> rfl
@[simp] theorem Thread.transition_fpflags (t : Thread) (c : RegClass) (n maj : Nat) (a b : RegSt) : (t.transition c n maj a b).fpflags = t.fpflags := by unfold Thread.transition; split <;> rfl
@[simp] theorem Thread.transition_brk (t : Thread) (c : RegClass) (n maj : Nat) (a b : RegSt) : (t.transition c n maj a b).brk = t.brk := by unfold Thread.transition; split <;> rfl
@[simp] theorem Thread.transition_wch (t : Thread) (c : RegClass) (n maj : Nat) (a b : RegSt) : (t.transition c n maj a b).wch = t.wch := by unfold Thread.transition; split <;> rfl
@[simp] theorem Thread.transition_outs (t : Thread) (c : RegClass) (n maj : Nat) (a b : RegSt) : (t.transition c n maj a b).outs = t.outs := by unfold Thread.transition; split <;> rfl
@[simp] theorem Thread.transition_acq (t : Thread) (c : RegClass) (n maj : Nat) (a b : RegSt) : (t.transition c n maj a b).acq = t.acq := by unfold Thread.transition; split <;> rfl
@[simp] theorem Thread.transition_gathers (t : Thread) (c : RegClass) (n maj : Nat) (a b : RegSt) : (t.transition c n maj a b).gathers = t.gathers := by unfold Thread.transition; split <;> rfl
@[simp] theorem Thread.transition_late (t : Thread) (c : RegClass) (n maj : Nat) (a b : RegSt) : (t.transition c n maj a b).late = t.late := by unfold Thread.transition; split <;> rfl
@[simp] theorem Thread.transition_owed (t : Thread) (c : RegClass) (n maj : Nat) (a b : RegSt) : (t.transition c n maj a b).owed = t.owed := by unfold Thread.transition; split <;> rfl
@[simp] theorem Thread.transition_fb (t : Thread) (c : RegClass) (n maj : Nat) (a b : RegSt) : (t.transition c n maj a b).fb = t.fb := by unfold Thread.transition; split <;> rfl
@[simp] theorem Thread.transition_half (t : Thread) (c : RegClass) (n maj : Nat) (a b : RegSt) : (t.transition c n maj a b).half = t.half := by unfold Thread.transition; split <;> rfl
@[simp] theorem Thread.transition_fetched (t : Thread) (c : RegClass) (n maj : Nat) (a b : RegSt) : (t.transition c n maj a b).fetched = t.fetched := by unfold Thread.transition; split <;> rfl
@[simp] theorem Thread.transition_walk (t : Thread) (c : RegClass) (n maj : Nat) (a b : RegSt) : (t.transition c n maj a b).walk = t.walk := by unfold Thread.transition; split <;> rfl
@[simp] theorem Thread.transition_dropped (t : Thread) (c : RegClass) (n maj : Nat) (a b : RegSt) : (t.transition c n maj a b).dropped = t.dropped := by unfold Thread.transition; split <;> rfl
@[simp] theorem Thread.transition_wait (t : Thread) (c : RegClass) (n maj : Nat) (a b : RegSt) : (t.transition c n maj a b).wait = t.wait := by unfold Thread.transition; split <;> rfl
@[simp] theorem Thread.transition_aside (t : Thread) (c : RegClass) (n maj : Nat) (a b : RegSt) : (t.transition c n maj a b).aside = t.aside := by unfold Thread.transition; split <;> rfl
@[simp] theorem Thread.transition_putBuf (t : Thread) (c : RegClass) (n maj : Nat) (a b : RegSt) : (t.transition c n maj a b).putBuf = t.putBuf := by unfold Thread.transition; split <;> rfl
@[simp] theorem Thread.transition_launch (t : Thread) (c : RegClass) (n maj : Nat) (a b : RegSt) : (t.transition c n maj a b).launch = t.launch := by unfold Thread.transition; split <;> rfl
@[simp] theorem Thread.transition_rank (t : Thread) (c : RegClass) (n maj : Nat) (a b : RegSt) : (t.transition c n maj a b).rank = t.rank := by unfold Thread.transition; split <;> rfl
@[simp] theorem Thread.transition_count (t : Thread) (c : RegClass) (n maj : Nat) (a b : RegSt) : (t.transition c n maj a b).count = t.count := by unfold Thread.transition; split <;> rfl
@[simp] theorem Thread.transition_arm (t : Thread) (c : RegClass) (n maj : Nat) (a b : RegSt) : (t.transition c n maj a b).arm = t.arm := by unfold Thread.transition; split <;> rfl
@[simp] theorem Thread.transition_stepping (t : Thread) (c : RegClass) (n maj : Nat) (a b : RegSt) : (t.transition c n maj a b).stepping = t.stepping := by unfold Thread.transition; split <;> rfl
@[simp] theorem Thread.transition_stepped (t : Thread) (c : RegClass) (n maj : Nat) (a b : RegSt) : (t.transition c n maj a b).stepped = t.stepped := by unfold Thread.transition; split <;> rfl
@[simp] theorem Thread.transition_fresh (t : Thread) (c : RegClass) (n maj : Nat) (a b : RegSt) : (t.transition c n maj a b).fresh = t.fresh := by unfold Thread.transition; split <;> rfl
@[simp] theorem Thread.transition_stopInfo (t : Thread) (c : RegClass) (n maj : Nat) (a b : RegSt) : (t.transition c n maj a b).stopInfo = t.stopInfo := by unfold Thread.transition; split <;> rfl
@[simp] theorem Thread.transition_yielded (t : Thread) (c : RegClass) (n maj : Nat) (a b : RegSt) : (t.transition c n maj a b).yielded = t.yielded := by unfold Thread.transition; split <;> rfl
@[simp] theorem Thread.transition_reissue (t : Thread) (c : RegClass) (n maj : Nat) (a b : RegSt) : (t.transition c n maj a b).reissue = t.reissue := by unfold Thread.transition; split <;> rfl

end Sys2Proof.Machine
end

