-- ==== Sys2Proof/Laws/Events.lean ====
section
/-! SUPPORT. What an event does with the oldest message of its channel (R21), what a message that passes another changes (R26, R201),
when the counts hold no access back (R210), and how a host request whose turn it is reaches its
operation and its reply (R328). -/

open Sys2Proof Sys2Proof.Machine

namespace Sys2Proof.Machine

/-! ### Messages -/

theorem popFrom_append {src dst : Node} {b : Body} {pre post : List Msg} (h : ∀ m ∈ pre, ¬ (m.src = src ∧ m.dst = dst)) :
    popFrom src dst (pre ++ ⟨src, dst, b⟩ :: post) = some (b, pre ++ post) := by
  induction pre with
  | nil => simp [popFrom]
  | cons m r ih =>
    have hm : ¬ (m.src = src ∧ m.dst = dst) := h m List.mem_cons_self
    simp only [List.cons_append, popFrom, hm, if_false, ih fun x hx => h x (List.mem_cons_of_mem _ hx), Option.map_some]

/-- The oldest message of a channel is the one that an event of it takes. -/
theorem popFrom_heads {s : State} {src dst : Node} {b : Body} {rest : List Msg} (h : heads s src dst b rest) :
    popFrom src dst s.net = some (b, rest) := by
  obtain ⟨_, _, pre, post, hn, rfl, hp⟩ := h
  rw [hn, popFrom_append hp]

/-- An event whose message is the oldest of its channel has its effect on the state without that message. -/
theorem onMsg_heads {α : Type} {s : State} {src dst : Node} {b : Body} {rest : List Msg} (h : heads s src dst b rest)
    {sel : Body → Option α} {a : α} (hs : sel b = some a) (f : α → State → State) :
    onMsg src dst sel f s = .next (f a { s with net := rest }) := by
  simp [onMsg, h.1, State.pop, h.2.1, popFrom_heads h, hs]

/-- An event that names another message than the oldest of its channel changes nothing. -/
theorem onMsg_other {α : Type} {s : State} {src dst : Node} {b : Body} {rest : List Msg} (h : heads s src dst b rest)
    {sel : Body → Option α} (hs : sel b = none) (f : α → State → State) : onMsg src dst sel f s = .next s := by
  simp [onMsg, h.1, State.pop, h.2.1, popFrom_heads h, hs]

/-- A request that passes another changes the order of the messages and nothing else (R26, R201). -/
theorem overtake_perm (s : State) (c sl n : Nat) :
    ∃ l, s.overtake c sl n = { s with net := l } ∧ l.Perm s.net := by
  unfold State.overtake
  dsimp only
  split
  · split
    · rename_i i j _ _ x y hx hy
      split
      · obtain ⟨hi, rfl⟩ := List.getElem?_eq_some_iff.1 hx
        obtain ⟨hj, rfl⟩ := List.getElem?_eq_some_iff.1 hy
        exact ⟨_, rfl, List.set_set_perm hi hj⟩
      · exact ⟨s.net, rfl, .refl _⟩
    · exact ⟨s.net, rfl, .refl _⟩
  · exact ⟨s.net, rfl, .refl _⟩

/-! ### Counts -/

/-- An instruction of several accesses that keeps the counts within their bound is performed (R210). -/
theorem orCount_room {a b : State} (h : ∀ c ∈ [1, 2, 3], a.th.wcnt c ≤ 4095) : a.orCount b = a := by
  unfold State.orCount
  rw [List.find?_eq_none.2 fun c hc => by simp; have := h c hc; omega]

/-! ### Host requests -/

/-- A request whose turn it is is accepted. -/
theorem inTurn_accepts {s : State} {f : Frame} {typ : Nat} (h : inTurn s f typ) : s.accepts f = true := by
  obtain ⟨_, ht, _, ha, hb, _, _⟩ := h
  rcases hb with hb | hb <;> simp [State.accepts, ha, hb, ht]

/-- A request that is answered at once, from a source that is kept, has its reply stored and sent. -/
theorem take_answered {s t : State} {f : Frame} {a : Ans} {h : HostSrc} (hp : s.perform_ f = (t, some a)) (hl : t.alarm = none)
    (hk : tget? t.sources f.src = some h) : s.take f 1 =
      let o := replyTo f.src f.typ f.seq a
      { t with
        sources := tset f.src { h with
          h := f.seq, active := [],
          replies := (h.replies ++ [(f.seq, o)]).filter fun r => decide (seqAbove f.seq r.1 < 1024) } t.sources,
        hostOut := t.hostOut ++ [o] } := by
  simp [State.take, hp, State.silent, hl, State.done_, hk, State.setSource, State.sendCopies, State.sendHost, List.range_succ]

/-- With nothing held, no further request is performed. -/
theorem takeHeld_none {s : State} {src : Nat} {h : HostSrc} (hk : tget? s.sources src = some h) (hh : h.held = []) :
    ∀ n, s.takeHeld src n = s
  | 0 => rfl
  | n + 1 => by simp [State.takeHeld, hk, hh]

/-- The request that follows the last one answered is performed. -/
theorem bySeq_next {s : State} {f : Frame} {h : HostSrc} (ha : h.active = []) (hh : h.held = []) (hs : f.seq < 2 ^ 32)
    (hn : f.seq = (h.h + 1) % 2 ^ 32) : s.bySeq f h = (s.take f 1).takeHeld f.src 64 := by
  have hb : ¬ seqAbove h.h f.seq < 1024 := by unfold seqAbove; omega
  have hu : seqAbove f.seq h.h = 1 := by unfold seqAbove; omega
  simp [State.bySeq, ha, hh, hb, hu]

theorem seqAbove_self (n : Nat) : seqAbove n n = 0 := by unfold seqAbove; omega

/-- A request whose turn it is is performed in a state that differs at most in its source. When it is answered at once and its
source is kept, its reply is stored and leaves, and nothing else changes (R328). -/
theorem frameEvent_reply {s : State} {f : Frame} {typ : Nat} (h : inTurn s f typ) (h7 : typ < 128) :
    ∃ (s0 : State) (h0 : HostSrc), { s0 with sources := s.sources } = s ∧ tget? s0.sources f.src = some h0 ∧ h0.active = [] ∧
      h0.held = [] ∧ ∀ t a, s0.perform_ f = (t, some a) → tget? t.sources f.src = some h0 → t.hostOut = s.hostOut →
        t.alarm = none → ∃ u, frameEvent true f s = .next u ∧ answered s u f a.status a.reason a.payload ∧
          { u with sources := t.sources, hostOut := t.hostOut } = t := by
  have hacc := inTurn_accepts h
  obtain ⟨hh, ht, hs, ha, hb, hperf, hsrc⟩ := h
  have hf : { f with seq := f.seq % 2 ^ 32 } = f := by rw [Nat.mod_eq_of_lt hs]
  have hm : f.seq % 2 ^ 32 = f.seq := Nat.mod_eq_of_lt hs
  have ev : frameEvent true f s = .next (s.request f) := by simp [frameEvent, hh, hacc, hperf]
  have key (s0 t : State) (h0 : HostSrc) (a : Ans) (hp : s0.perform_ f = (t, some a)) (hk : tget? t.sources f.src = some h0)
      (ho : t.hostOut = s.hostOut) (hl : t.alarm = none) : answered s (s0.take f 1) f a.status a.reason a.payload ∧
        { s0.take f 1 with sources := t.sources, hostOut := t.hostOut } = t := by
    rw [take_answered hp hl hk]
    refine ⟨⟨by simp [replyTo, ho, ht, Nat.mod_eq_of_lt h7], _, tget?_tset_same .., rfl, ?_⟩, rfl⟩
    simp [replyTo, ht, Nat.mod_eq_of_lt h7, seqAbove_self]
  rcases hsrc with ⟨hn, hl⟩ | ⟨h0, hk0, h0a, h0h, hseq⟩
  · refine ⟨{ s with sources := tset f.src ⟨(f.seq + 2 ^ 32 - 1) % 2 ^ 32, f.seq, [], [], []⟩ s.sources }, _, rfl,
      tget?_tset_same .., rfl, rfl, fun t a hp hk ho hal => ⟨_, ev, ?_⟩⟩
    have hr : s.request f = State.take { s with sources := tset f.src ⟨(f.seq + 2 ^ 32 - 1) % 2 ^ 32, f.seq, [], [], []⟩ s.sources } f 1 := by
      rw [State.request, hf]
      simp only [ha, Option.isSome_none, Bool.false_eq_true, if_false, hn, ge_iff_le, Nat.not_le.mpr hl]
    rw [hr]
    exact key _ t _ a hp hk ho hal
  · refine ⟨s, h0, rfl, hk0, h0a, h0h, fun t a hp hk ho hal => ⟨_, ev, ?_⟩⟩
    have hr : s.request f = (s.take f 1).takeHeld f.src 64 := by
      rw [State.request, hf]
      simp only [ha, Option.isSome_none, Bool.false_eq_true, if_false, hk0]
      exact bySeq_next h0a h0h hs hseq
    have hheld : (s.take f 1).takeHeld f.src 64 = s.take f 1 := by
      rw [take_answered hp hal hk]
      exact takeHeld_none (h := { h0 with
        h := f.seq, active := [], replies := _ }) (tget?_tset_same ..) h0h _
    rw [hr, hheld]
    exact key s t h0 a hp hk ho hal

end Sys2Proof.Machine
end

