-- ==== Sys2Proof/Laws/Issue.lean ====
section
/-! SUPPORT. The order of checks at issue (R88): what `issue` answers in each case, and that the meaning of every encoded
instruction is such an issue with the sources, destinations and privilege of Safety.lean. -/

namespace Sys2Proof.Machine

open Sys2Proof

/-- What an instruction shows at issue. -/
def issueOf (i : Instr) : Issue :=
  { instr := i, srcs := srcsOf i, dsts := dstsOf i, reads := readDstOf i, names := namesOf i, priv := privileged i }

/-- The legality of `issueOf` is that of Safety.lean. -/
theorem issueOf_legal (i : Instr) (s : State) : (issueOf i).legal s.co.part = legal i s := rfl

/-- An illegal instruction traps (R86, R87). -/
theorem issue_illegal {i : Instr} {s : State} (h : legal i s = false) (body : State → State) :
    issue (issueOf i) body s = .next (s.illegal (wordOf i) (lengthOf i)) := by
  simp only [issue, issueOf_legal, h]; rfl

/-- A privileged instruction traps in U mode (R80). -/
theorem issue_privileged {i : Instr} {s : State} (h : legal i s = true) (hp : allowed i s = false) (body : State → State) :
    issue (issueOf i) body s = .next (s.privileged (wordOf i) (lengthOf i)) := by
  have hp' : (privileged i && !s.th.smode) = true := by
    simp only [allowed, Bool.or_eq_false_iff, Bool.not_eq_false'] at hp; simp [hp.1, hp.2]
  have h1 : ((issueOf i).priv && !s.th.smode) = true := hp'
  simp only [issue, issueOf_legal, h, h1]; rfl

/-- The first empty source decides (R55). -/
theorem issue_source {i : Instr} {s : State} {x : Src} (h : legal i s = true) (hp : allowed i s = true)
    (hx : s.emptySrc (srcsOf i) = some x) (body : State → State) :
    issue (issueOf i) body s = if x.test then .next (s.emptyReg x i) else .next (s.park (.source x.cls x.n)) := by
  have hp' : ((issueOf i).priv && !s.th.smode) = false := by
    have : (privileged i && !s.th.smode) = false := by
      simp only [allowed, Bool.or_eq_true, Bool.not_eq_true'] at hp; rcases hp with hp | hp <;> simp [hp]
    exact this
  have hx' : s.emptySrc (issueOf i).srcs = some x := hx
  simp only [issue, issueOf_legal, h, hp', hx']; rfl

/-- A destination that a producer has still to fill parks the thread (R56). -/
theorem issue_dest {i : Instr} {s : State} {d : RegClass × Nat} (h : legal i s = true) (hp : allowed i s = true)
    (hx : s.emptySrc (srcsOf i) = none) (hd : s.pendingDst (dstsOf i) = some d) (body : State → State) :
    issue (issueOf i) body s = .next (s.park (.dest d.1 d.2)) := by
  have hp' : ((issueOf i).priv && !s.th.smode) = false := by
    have : (privileged i && !s.th.smode) = false := by
      simp only [allowed, Bool.or_eq_true, Bool.not_eq_true'] at hp; rcases hp with hp | hp <;> simp [hp]
    exact this
  have hx' : s.emptySrc (issueOf i).srcs = none := hx
  have hd' : s.pendingDst (issueOf i).dsts = some d := hd
  simp only [issue, issueOf_legal, h, hp', hx', hd']; rfl

/-- No empty source is found among full ones. -/
theorem emptySrc_none {i : Instr} {s : State} (h : sourcesFull i s = true) : s.emptySrc (srcsOf i) = none := by
  simp only [sourcesFull, List.all_eq_true] at h
  simp only [State.emptySrc, List.find?_eq_none]
  intro x hx; simp [bne, h x hx]

/-- An instruction that may issue has its own effect (R88 step 6), with the WATCH traps of its destinations (R399). -/
theorem issue_ready {i : Instr} {s : State} (h : canIssue i s = true) (body : State → State) :
    issue (issueOf i) body s = .next (State.watchDsts s (body s) (dstsOf i) (majOf i)) := by
  simp only [canIssue, Bool.and_eq_true] at h
  obtain ⟨⟨⟨hl, hp⟩, hs⟩, hd⟩ := h
  have hp' : ((issueOf i).priv && !s.th.smode) = false := by
    have : (privileged i && !s.th.smode) = false := by
      simp only [allowed, Bool.or_eq_true, Bool.not_eq_true'] at hp; rcases hp with hp | hp <;> simp [hp]
    exact this
  have hx : s.emptySrc (issueOf i).srcs = none := emptySrc_none hs
  simp only [destsReady, Bool.and_eq_true, List.all_eq_true] at hd
  have h1 : s.pendingDst (issueOf i).dsts = none := by
    simp only [State.pendingDst, List.find?_eq_none]; intro d hm; simpa using hd.1 d hm
  have h2 : s.emptyDst (issueOf i).reads = none := by
    simp only [State.emptyDst, List.find?_eq_none]; intro d hm; simpa [bne] using hd.2 d hm
  simp only [issue, issueOf_legal, hl, hp', hx, h1, h2]; rfl

/-! ### Every encoded instruction is an issue -/

/-- The destination reads of a masked instruction. -/
theorem readDst_false (m : Reg8) (d : VReg) : readDst m d false = if m = 0 then [] else [vdst d] := by
  unfold readDst; by_cases h : m = 0 <;> simp [h]
/-- The destination reads of an instruction with an addend. -/
theorem readDst_true (m : Reg8) (d : VReg) : readDst m d true = [vdst d] := by
  unfold readDst; simp


theorem exec_add_issue (q0) (q1) (q2) (q3) (q4) (s : State) :
    ∃ body, exec (.add q0 q1 q2 q3 q4) s = issue (issueOf (.add q0 q1 q2 q3 q4)) body s := by
  unfold exec execAdd ialu; exact ⟨_, rfl⟩
theorem exec_sub_issue (q0) (q1) (q2) (q3) (q4) (s : State) :
    ∃ body, exec (.sub q0 q1 q2 q3 q4) s = issue (issueOf (.sub q0 q1 q2 q3 q4)) body s := by
  unfold exec execSub ialu; exact ⟨_, rfl⟩
theorem exec_and_issue (q0) (q1) (q2) (q3) (q4) (s : State) :
    ∃ body, exec (.and q0 q1 q2 q3 q4) s = issue (issueOf (.and q0 q1 q2 q3 q4)) body s := by
  unfold exec execAnd ialu; exact ⟨_, rfl⟩
theorem exec_or_issue (q0) (q1) (q2) (q3) (q4) (s : State) :
    ∃ body, exec (.or q0 q1 q2 q3 q4) s = issue (issueOf (.or q0 q1 q2 q3 q4)) body s := by
  unfold exec execOr ialu; exact ⟨_, rfl⟩
theorem exec_xor_issue (q0) (q1) (q2) (q3) (q4) (s : State) :
    ∃ body, exec (.xor q0 q1 q2 q3 q4) s = issue (issueOf (.xor q0 q1 q2 q3 q4)) body s := by
  unfold exec execXor ialu; exact ⟨_, rfl⟩
theorem exec_andn_issue (q0) (q1) (q2) (q3) (q4) (s : State) :
    ∃ body, exec (.andn q0 q1 q2 q3 q4) s = issue (issueOf (.andn q0 q1 q2 q3 q4)) body s := by
  unfold exec execAndn ialu; exact ⟨_, rfl⟩
theorem exec_shl_issue (q0) (q1) (q2) (q3) (q4) (s : State) :
    ∃ body, exec (.shl q0 q1 q2 q3 q4) s = issue (issueOf (.shl q0 q1 q2 q3 q4)) body s := by
  unfold exec execShl ialu; exact ⟨_, rfl⟩
theorem exec_shr_issue (q0) (q1) (q2) (q3) (q4) (s : State) :
    ∃ body, exec (.shr q0 q1 q2 q3 q4) s = issue (issueOf (.shr q0 q1 q2 q3 q4)) body s := by
  unfold exec execShr ialu; exact ⟨_, rfl⟩
theorem exec_sha_issue (q0) (q1) (q2) (q3) (q4) (s : State) :
    ∃ body, exec (.sha q0 q1 q2 q3 q4) s = issue (issueOf (.sha q0 q1 q2 q3 q4)) body s := by
  unfold exec execSha ialu; exact ⟨_, rfl⟩
theorem exec_rot_issue (q0) (q1) (q2) (q3) (q4) (s : State) :
    ∃ body, exec (.rot q0 q1 q2 q3 q4) s = issue (issueOf (.rot q0 q1 q2 q3 q4)) body s := by
  unfold exec execRot ialu; exact ⟨_, rfl⟩
theorem exec_min_issue (q0) (q1) (q2) (q3) (q4) (s : State) :
    ∃ body, exec (.min q0 q1 q2 q3 q4) s = issue (issueOf (.min q0 q1 q2 q3 q4)) body s := by
  unfold exec execMin ialu; exact ⟨_, rfl⟩
theorem exec_max_issue (q0) (q1) (q2) (q3) (q4) (s : State) :
    ∃ body, exec (.max q0 q1 q2 q3 q4) s = issue (issueOf (.max q0 q1 q2 q3 q4)) body s := by
  unfold exec execMax ialu; exact ⟨_, rfl⟩
theorem exec_minn_issue (q0) (q1) (q2) (q3) (q4) (s : State) :
    ∃ body, exec (.minn q0 q1 q2 q3 q4) s = issue (issueOf (.minn q0 q1 q2 q3 q4)) body s := by
  unfold exec execMinn ialu; exact ⟨_, rfl⟩
theorem exec_maxn_issue (q0) (q1) (q2) (q3) (q4) (s : State) :
    ∃ body, exec (.maxn q0 q1 q2 q3 q4) s = issue (issueOf (.maxn q0 q1 q2 q3 q4)) body s := by
  unfold exec execMaxn ialu; exact ⟨_, rfl⟩
theorem exec_mul_issue (q0) (q1) (q2) (q3) (q4) (s : State) :
    ∃ body, exec (.mul q0 q1 q2 q3 q4) s = issue (issueOf (.mul q0 q1 q2 q3 q4)) body s := by
  unfold exec execMul ialu; exact ⟨_, rfl⟩
theorem exec_mulh_issue (q0) (q1) (q2) (q3) (q4) (s : State) :
    ∃ body, exec (.mulh q0 q1 q2 q3 q4) s = issue (issueOf (.mulh q0 q1 q2 q3 q4)) body s := by
  unfold exec execMulh ialu; exact ⟨_, rfl⟩
theorem exec_mulhn_issue (q0) (q1) (q2) (q3) (q4) (s : State) :
    ∃ body, exec (.mulhn q0 q1 q2 q3 q4) s = issue (issueOf (.mulhn q0 q1 q2 q3 q4)) body s := by
  unfold exec execMulhn ialu; exact ⟨_, rfl⟩
theorem exec_div_issue (q0) (q1) (q2) (q3) (q4) (s : State) :
    ∃ body, exec (.div q0 q1 q2 q3 q4) s = issue (issueOf (.div q0 q1 q2 q3 q4)) body s := by
  unfold exec execDiv ialu; exact ⟨_, rfl⟩
theorem exec_divn_issue (q0) (q1) (q2) (q3) (q4) (s : State) :
    ∃ body, exec (.divn q0 q1 q2 q3 q4) s = issue (issueOf (.divn q0 q1 q2 q3 q4)) body s := by
  unfold exec execDivn ialu; exact ⟨_, rfl⟩
theorem exec_rem_issue (q0) (q1) (q2) (q3) (q4) (s : State) :
    ∃ body, exec (.rem q0 q1 q2 q3 q4) s = issue (issueOf (.rem q0 q1 q2 q3 q4)) body s := by
  unfold exec execRem ialu; exact ⟨_, rfl⟩
theorem exec_remn_issue (q0) (q1) (q2) (q3) (q4) (s : State) :
    ∃ body, exec (.remn q0 q1 q2 q3 q4) s = issue (issueOf (.remn q0 q1 q2 q3 q4)) body s := by
  unfold exec execRemn ialu; exact ⟨_, rfl⟩
theorem exec_clz_issue (q0) (q1) (q2) (s : State) :
    ∃ body, exec (.clz q0 q1 q2) s = issue (issueOf (.clz q0 q1 q2)) body s := by
  unfold exec execClz unary; exact ⟨_, rfl⟩
theorem exec_popc_issue (q0) (q1) (q2) (s : State) :
    ∃ body, exec (.popc q0 q1 q2) s = issue (issueOf (.popc q0 q1 q2)) body s := by
  unfold exec execPopc unary; exact ⟨_, rfl⟩
theorem exec_sext_issue (q0) (q1) (q2) (q3) (q4) (s : State) :
    ∃ body, exec (.sext q0 q1 q2 q3 q4) s = issue (issueOf (.sext q0 q1 q2 q3 q4)) body s := by
  unfold exec execSext ialu; exact ⟨_, rfl⟩
theorem exec_addw_issue (q0) (q1) (q2) (q3) (q4) (s : State) :
    ∃ body, exec (.addw q0 q1 q2 q3 q4) s = issue (issueOf (.addw q0 q1 q2 q3 q4)) body s := by
  unfold exec execAddw ialu; exact ⟨_, rfl⟩
theorem exec_subw_issue (q0) (q1) (q2) (q3) (q4) (s : State) :
    ∃ body, exec (.subw q0 q1 q2 q3 q4) s = issue (issueOf (.subw q0 q1 q2 q3 q4)) body s := by
  unfold exec execSubw ialu; exact ⟨_, rfl⟩
theorem exec_addi_issue (q0) (q1) (q2) (q3) (s : State) :
    ∃ body, exec (.addi q0 q1 q2 q3) s = issue (issueOf (.addi q0 q1 q2 q3)) body s := by
  unfold exec execAddi unary; exact ⟨_, rfl⟩
theorem exec_andi_issue (q0) (q1) (q2) (q3) (s : State) :
    ∃ body, exec (.andi q0 q1 q2 q3) s = issue (issueOf (.andi q0 q1 q2 q3)) body s := by
  unfold exec execAndi unary; exact ⟨_, rfl⟩
theorem exec_ori_issue (q0) (q1) (q2) (q3) (s : State) :
    ∃ body, exec (.ori q0 q1 q2 q3) s = issue (issueOf (.ori q0 q1 q2 q3)) body s := by
  unfold exec execOri unary; exact ⟨_, rfl⟩
theorem exec_xori_issue (q0) (q1) (q2) (q3) (s : State) :
    ∃ body, exec (.xori q0 q1 q2 q3) s = issue (issueOf (.xori q0 q1 q2 q3)) body s := by
  unfold exec execXori unary; exact ⟨_, rfl⟩
theorem exec_shli_issue (q0) (q1) (q2) (q3) (s : State) :
    ∃ body, exec (.shli q0 q1 q2 q3) s = issue (issueOf (.shli q0 q1 q2 q3)) body s := by
  unfold exec execShli unary; exact ⟨_, rfl⟩
theorem exec_shri_issue (q0) (q1) (q2) (q3) (s : State) :
    ∃ body, exec (.shri q0 q1 q2 q3) s = issue (issueOf (.shri q0 q1 q2 q3)) body s := by
  unfold exec execShri unary; exact ⟨_, rfl⟩
theorem exec_shai_issue (q0) (q1) (q2) (q3) (s : State) :
    ∃ body, exec (.shai q0 q1 q2 q3) s = issue (issueOf (.shai q0 q1 q2 q3)) body s := by
  unfold exec execShai unary; exact ⟨_, rfl⟩
theorem exec_roti_issue (q0) (q1) (q2) (q3) (s : State) :
    ∃ body, exec (.roti q0 q1 q2 q3) s = issue (issueOf (.roti q0 q1 q2 q3)) body s := by
  unfold exec execRoti unary; exact ⟨_, rfl⟩
theorem exec_lui_issue (q0) (q1) (s : State) :
    ∃ body, exec (.lui q0 q1) s = issue (issueOf (.lui q0 q1)) body s := by
  unfold exec execLui; exact ⟨_, rfl⟩
theorem exec_addpc_issue (q0) (q1) (s : State) :
    ∃ body, exec (.addpc q0 q1) s = issue (issueOf (.addpc q0 q1)) body s := by
  unfold exec execAddpc; exact ⟨_, rfl⟩
theorem exec_cmp_issue (q0) (q1) (q2) (q3) (q4) (q5) (s : State) :
    ∃ body, exec (.cmp q0 q1 q2 q3 q4 q5) s = issue (issueOf (.cmp q0 q1 q2 q3 q4 q5)) body s := by
  unfold exec execCmp; exact ⟨_, rfl⟩
theorem exec_cmpW_issue (q0) (q1) (q2) (q3) (q4) (q5) (s : State) :
    ∃ body, exec (.cmpW q0 q1 q2 q3 q4 q5) s = issue (issueOf (.cmpW q0 q1 q2 q3 q4 q5)) body s := by
  unfold exec execCmpW; exact ⟨_, rfl⟩
theorem exec_cmpi_issue (q0) (q1) (q2) (q3) (q4) (s : State) :
    ∃ body, exec (.cmpi q0 q1 q2 q3 q4) s = issue (issueOf (.cmpi q0 q1 q2 q3 q4)) body s := by
  unfold exec execCmpi; exact ⟨_, rfl⟩
theorem exec_sel_issue (q0) (q1) (q2) (q3) (q4) (q5) (q6) (s : State) :
    ∃ body, exec (.sel q0 q1 q2 q3 q4 q5 q6) s = issue (issueOf (.sel q0 q1 q2 q3 q4 q5 q6)) body s := by
  unfold exec execSel; exact ⟨_, rfl⟩
theorem exec_pand_issue (q0) (q1) (q2) (s : State) :
    ∃ body, exec (.pand q0 q1 q2) s = issue (issueOf (.pand q0 q1 q2)) body s := by
  unfold exec execPand plog; exact ⟨_, rfl⟩
theorem exec_por_issue (q0) (q1) (q2) (s : State) :
    ∃ body, exec (.por q0 q1 q2) s = issue (issueOf (.por q0 q1 q2)) body s := by
  unfold exec execPor plog; exact ⟨_, rfl⟩
theorem exec_pxor_issue (q0) (q1) (q2) (s : State) :
    ∃ body, exec (.pxor q0 q1 q2) s = issue (issueOf (.pxor q0 q1 q2)) body s := by
  unfold exec execPxor plog; exact ⟨_, rfl⟩
theorem exec_pandn_issue (q0) (q1) (q2) (s : State) :
    ∃ body, exec (.pandn q0 q1 q2) s = issue (issueOf (.pandn q0 q1 q2)) body s := by
  unfold exec execPandn plog; exact ⟨_, rfl⟩
theorem exec_pfromg_issue (q0) (q1) (q2) (s : State) :
    ∃ body, exec (.pfromg q0 q1 q2) s = issue (issueOf (.pfromg q0 q1 q2)) body s := by
  unfold exec execPfromg; exact ⟨_, rfl⟩
theorem exec_ptog_issue (q0) (q1) (s : State) :
    ∃ body, exec (.ptog q0 q1) s = issue (issueOf (.ptog q0 q1)) body s := by
  unfold exec execPtog; exact ⟨_, rfl⟩
theorem exec_xset_issue (q0) (q1) (q2) (s : State) :
    ∃ body, exec (.xset q0 q1 q2) s = issue (issueOf (.xset q0 q1 q2)) body s := by
  unfold exec execXset; exact ⟨_, rfl⟩
theorem exec_xget_issue (q0) (q1) (s : State) :
    ∃ body, exec (.xget q0 q1) s = issue (issueOf (.xget q0 q1)) body s := by
  unfold exec execXget; exact ⟨_, rfl⟩
theorem exec_xld_issue (q0) (q1) (s : State) :
    ∃ body, exec (.xld q0 q1) s = issue (issueOf (.xld q0 q1)) body s := by
  unfold exec execXld; exact ⟨_, rfl⟩
theorem exec_madr_issue (q0) (q1) (q2) (q3) (q4) (s : State) :
    ∃ body, exec (.madr q0 q1 q2 q3 q4) s = issue (issueOf (.madr q0 q1 q2 q3 q4)) body s := by
  unfold exec execMadr unary; exact ⟨_, rfl⟩
theorem exec_br_issue (q0) (s : State) :
    ∃ body, exec (.br q0) s = issue (issueOf (.br q0)) body s := by
  unfold exec execBr; exact ⟨_, rfl⟩
theorem exec_jal_issue (q0) (s : State) :
    ∃ body, exec (.jal q0) s = issue (issueOf (.jal q0)) body s := by
  unfold exec execJal; exact ⟨_, rfl⟩
theorem exec_brp_issue (q0) (q1) (q2) (s : State) :
    ∃ body, exec (.brp q0 q1 q2) s = issue (issueOf (.brp q0 q1 q2)) body s := by
  unfold exec execBrp; exact ⟨_, rfl⟩
theorem exec_jalr_issue (q0) (q1) (q2) (q3) (s : State) :
    ∃ body, exec (.jalr q0 q1 q2 q3) s = issue (issueOf (.jalr q0 q1 q2 q3)) body s := by
  unfold exec execJalr; exact ⟨_, rfl⟩
theorem exec_yield_issue (s : State) :
    ∃ body, exec (.yield) s = issue (issueOf (.yield)) body s := by
  unfold exec execYield; exact ⟨_, rfl⟩
theorem exec_waitg_issue (q0) (s : State) :
    ∃ body, exec (.waitg q0) s = issue (issueOf (.waitg q0)) body s := by
  unfold exec execWaitg waitReg; exact ⟨_, rfl⟩
theorem exec_waitv_issue (q0) (s : State) :
    ∃ body, exec (.waitv q0) s = issue (issueOf (.waitv q0)) body s := by
  unfold exec execWaitv waitReg; exact ⟨_, rfl⟩
theorem exec_texit_issue (s : State) :
    ∃ body, exec (.texit) s = issue (issueOf (.texit)) body s := by
  unfold exec execTexit; exact ⟨_, rfl⟩
theorem exec_tspawn_issue (q0) (q1) (q2) (q3) (q4) (s : State) :
    ∃ body, exec (.tspawn q0 q1 q2 q3 q4) s = issue (issueOf (.tspawn q0 q1 q2 q3 q4)) body s := by
  unfold exec execTspawn; exact ⟨_, rfl⟩
theorem exec_tnext_issue (q0) (s : State) :
    ∃ body, exec (.tnext q0) s = issue (issueOf (.tnext q0)) body s := by
  unfold exec execTnext; exact ⟨_, rfl⟩
theorem exec_repart_issue (q0) (s : State) :
    ∃ body, exec (.repart q0) s = issue (issueOf (.repart q0)) body s := by
  unfold exec execRepart; exact ⟨_, rfl⟩
theorem exec_waitk_issue (q0) (s : State) :
    ∃ body, exec (.waitk q0) s = issue (issueOf (.waitk q0)) body s := by
  unfold exec execWaitk waitReg; exact ⟨_, rfl⟩
theorem exec_kput_issue (q0) (q1) (q2) (s : State) :
    ∃ body, exec (.kput q0 q1 q2) s = issue (issueOf (.kput q0 q1 q2)) body s := by
  unfold exec execKput; exact ⟨_, rfl⟩
theorem exec_kget_issue (q0) (q1) (q2) (s : State) :
    ∃ body, exec (.kget q0 q1 q2) s = issue (issueOf (.kget q0 q1 q2)) body s := by
  unfold exec execKget; exact ⟨_, rfl⟩
theorem exec_strmLead_issue (q0) (q1) (s : State) :
    ∃ body, exec (.strmLead q0 q1) s = issue (issueOf (.strmLead q0 q1)) body s := by
  unfold exec execStrmLead; exact ⟨_, rfl⟩
theorem exec_strmJoin_issue (s : State) :
    ∃ body, exec (.strmJoin) s = issue (issueOf (.strmJoin)) body s := by
  unfold exec execStrmJoin; exact ⟨_, rfl⟩
theorem exec_strmEnd_issue (s : State) :
    ∃ body, exec (.strmEnd) s = issue (issueOf (.strmEnd)) body s := by
  unfold exec execStrmEnd; exact ⟨_, rfl⟩
theorem exec_strmPos_issue (q0) (s : State) :
    ∃ body, exec (.strmPos q0) s = issue (issueOf (.strmPos q0)) body s := by
  unfold exec execStrmPos; exact ⟨_, rfl⟩
theorem exec_rput_issue (q0) (q1) (q2) (q3) (q4) (s : State) :
    ∃ body, exec (.rput q0 q1 q2 q3 q4) s = issue (issueOf (.rput q0 q1 q2 q3 q4)) body s := by
  unfold exec execRput; exact ⟨_, rfl⟩
theorem exec_rputM_issue (q0) (q1) (q2) (q3) (q4) (q5) (s : State) :
    ∃ body, exec (.rputM q0 q1 q2 q3 q4 q5) s = issue (issueOf (.rputM q0 q1 q2 q3 q4 q5)) body s := by
  unfold exec execRputM; exact ⟨_, rfl⟩
theorem exec_rputArm_issue (q0) (q1) (s : State) :
    ∃ body, exec (.rputArm q0 q1) s = issue (issueOf (.rputArm q0 q1)) body s := by
  unfold exec execRputArm; exact ⟨_, rfl⟩
theorem exec_ld_issue (q0) (q1) (q2) (q3) (q4) (q5) (q6) (s : State) :
    ∃ body, exec (.ld q0 q1 q2 q3 q4 q5 q6) s = issue (issueOf (.ld q0 q1 q2 q3 q4 q5 q6)) body s := by
  unfold exec execLd; exact ⟨_, rfl⟩
theorem exec_ldn_issue (q0) (q1) (q2) (q3) (q4) (q5) (q6) (s : State) :
    ∃ body, exec (.ldn q0 q1 q2 q3 q4 q5 q6) s = issue (issueOf (.ldn q0 q1 q2 q3 q4 q5 q6)) body s := by
  unfold exec execLdn; exact ⟨_, rfl⟩
theorem exec_st_issue (q0) (q1) (q2) (q3) (q4) (q5) (q6) (s : State) :
    ∃ body, exec (.st q0 q1 q2 q3 q4 q5 q6) s = issue (issueOf (.st q0 q1 q2 q3 q4 q5 q6)) body s := by
  unfold exec execSt; exact ⟨_, rfl⟩
theorem exec_vld_issue (q0) (q1) (q2) (q3) (q4) (q5) (s : State) :
    ∃ body, exec (.vld q0 q1 q2 q3 q4 q5) s = issue (issueOf (.vld q0 q1 q2 q3 q4 q5)) body s := by
  unfold exec execVld; exact ⟨_, rfl⟩
theorem exec_vst_issue (q0) (q1) (q2) (q3) (q4) (q5) (s : State) :
    ∃ body, exec (.vst q0 q1 q2 q3 q4 q5) s = issue (issueOf (.vst q0 q1 q2 q3 q4 q5)) body s := by
  unfold exec execVst; exact ⟨_, rfl⟩
theorem exec_vlds_issue (q0) (q1) (q2) (q3) (q4) (q5) (s : State) :
    ∃ body, exec (.vlds q0 q1 q2 q3 q4 q5) s = issue (issueOf (.vlds q0 q1 q2 q3 q4 q5)) body s := by
  unfold exec execVlds; exact ⟨_, rfl⟩
theorem exec_vsts_issue (q0) (q1) (q2) (q3) (q4) (q5) (s : State) :
    ∃ body, exec (.vsts q0 q1 q2 q3 q4 q5) s = issue (issueOf (.vsts q0 q1 q2 q3 q4 q5)) body s := by
  unfold exec execVsts; exact ⟨_, rfl⟩
theorem exec_vgath_issue (q0) (q1) (q2) (q3) (q4) (s : State) :
    ∃ body, exec (.vgath q0 q1 q2 q3 q4) s = issue (issueOf (.vgath q0 q1 q2 q3 q4)) body s := by
  unfold exec execVgath; exact ⟨_, rfl⟩
theorem exec_vscat_issue (q0) (q1) (q2) (q3) (q4) (s : State) :
    ∃ body, exec (.vscat q0 q1 q2 q3 q4) s = issue (issueOf (.vscat q0 q1 q2 q3 q4)) body s := by
  unfold exec execVscat; exact ⟨_, rfl⟩
theorem exec_aadd_issue (q0) (q1) (q2) (q3) (q4) (q5) (s : State) :
    ∃ body, exec (.aadd q0 q1 q2 q3 q4 q5) s = issue (issueOf (.aadd q0 q1 q2 q3 q4 q5)) body s := by
  unfold exec execAadd; exact ⟨_, rfl⟩
theorem exec_aand_issue (q0) (q1) (q2) (q3) (q4) (q5) (s : State) :
    ∃ body, exec (.aand q0 q1 q2 q3 q4 q5) s = issue (issueOf (.aand q0 q1 q2 q3 q4 q5)) body s := by
  unfold exec execAand; exact ⟨_, rfl⟩
theorem exec_aor_issue (q0) (q1) (q2) (q3) (q4) (q5) (s : State) :
    ∃ body, exec (.aor q0 q1 q2 q3 q4 q5) s = issue (issueOf (.aor q0 q1 q2 q3 q4 q5)) body s := by
  unfold exec execAor; exact ⟨_, rfl⟩
theorem exec_axor_issue (q0) (q1) (q2) (q3) (q4) (q5) (s : State) :
    ∃ body, exec (.axor q0 q1 q2 q3 q4 q5) s = issue (issueOf (.axor q0 q1 q2 q3 q4 q5)) body s := by
  unfold exec execAxor; exact ⟨_, rfl⟩
theorem exec_amin_issue (q0) (q1) (q2) (q3) (q4) (q5) (s : State) :
    ∃ body, exec (.amin q0 q1 q2 q3 q4 q5) s = issue (issueOf (.amin q0 q1 q2 q3 q4 q5)) body s := by
  unfold exec execAmin; exact ⟨_, rfl⟩
theorem exec_amax_issue (q0) (q1) (q2) (q3) (q4) (q5) (s : State) :
    ∃ body, exec (.amax q0 q1 q2 q3 q4 q5) s = issue (issueOf (.amax q0 q1 q2 q3 q4 q5)) body s := by
  unfold exec execAmax; exact ⟨_, rfl⟩
theorem exec_aswap_issue (q0) (q1) (q2) (q3) (q4) (q5) (s : State) :
    ∃ body, exec (.aswap q0 q1 q2 q3 q4 q5) s = issue (issueOf (.aswap q0 q1 q2 q3 q4 q5)) body s := by
  unfold exec execAswap; exact ⟨_, rfl⟩
theorem exec_acas_issue (q0) (q1) (q2) (q3) (q4) (q5) (s : State) :
    ∃ body, exec (.acas q0 q1 q2 q3 q4 q5) s = issue (issueOf (.acas q0 q1 q2 q3 q4 q5)) body s := by
  unfold exec execAcas; exact ⟨_, rfl⟩
theorem exec_fence_issue (q0) (q1) (s : State) :
    ∃ body, exec (.fence q0 q1) s = issue (issueOf (.fence q0 q1)) body s := by
  unfold exec execFence; exact ⟨_, rfl⟩
theorem exec_waitc_issue (q0) (s : State) :
    ∃ body, exec (.waitc q0) s = issue (issueOf (.waitc q0)) body s := by
  unfold exec execWaitc; exact ⟨_, rfl⟩
theorem exec_cflush_issue (q0) (q1) (s : State) :
    ∃ body, exec (.cflush q0 q1) s = issue (issueOf (.cflush q0 q1)) body s := by
  unfold exec execCflush; exact ⟨_, rfl⟩
theorem exec_cinv_issue (q0) (q1) (s : State) :
    ∃ body, exec (.cinv q0 q1) s = issue (issueOf (.cinv q0 q1)) body s := by
  unfold exec execCinv; exact ⟨_, rfl⟩
theorem exec_pref_issue (q0) (q1) (q2) (s : State) :
    ∃ body, exec (.pref q0 q1 q2) s = issue (issueOf (.pref q0 q1 q2)) body s := by
  unfold exec execPref; exact ⟨_, rfl⟩
theorem exec_spcfg_issue (q0) (q1) (s : State) :
    ∃ body, exec (.spcfg q0 q1) s = issue (issueOf (.spcfg q0 q1)) body s := by
  unfold exec execSpcfg; exact ⟨_, rfl⟩
theorem exec_czero_issue (q0) (q1) (s : State) :
    ∃ body, exec (.czero q0 q1) s = issue (issueOf (.czero q0 q1)) body s := by
  unfold exec execCzero; exact ⟨_, rfl⟩
theorem exec_pst_issue (q0) (q1) (q2) (q3) (q4) (q5) (q6) (s : State) :
    ∃ body, exec (.pst q0 q1 q2 q3 q4 q5 q6) s = issue (issueOf (.pst q0 q1 q2 q3 q4 q5 q6)) body s := by
  unfold exec execPst; exact ⟨_, rfl⟩
theorem exec_ldsy_issue (q0) (q1) (q2) (q3) (s : State) :
    ∃ body, exec (.ldsy q0 q1 q2 q3) s = issue (issueOf (.ldsy q0 q1 q2 q3)) body s := by
  unfold exec execLdsy; exact ⟨_, rfl⟩
theorem exec_stsy_issue (q0) (q1) (q2) (q3) (s : State) :
    ∃ body, exec (.stsy q0 q1 q2 q3) s = issue (issueOf (.stsy q0 q1 q2 q3)) body s := by
  unfold exec execStsy; exact ⟨_, rfl⟩
theorem exec_cntAdd_issue (q0) (q1) (q2) (s : State) :
    ∃ body, exec (.cntAdd q0 q1 q2) s = issue (issueOf (.cntAdd q0 q1 q2)) body s := by
  unfold exec execCntAdd; exact ⟨_, rfl⟩
theorem exec_cntFadd_issue (q0) (q1) (q2) (q3) (s : State) :
    ∃ body, exec (.cntFadd q0 q1 q2 q3) s = issue (issueOf (.cntFadd q0 q1 q2 q3)) body s := by
  unfold exec execCntFadd; exact ⟨_, rfl⟩
theorem exec_cntWait_issue (q0) (q1) (q2) (q3) (q4) (s : State) :
    ∃ body, exec (.cntWait q0 q1 q2 q3 q4) s = issue (issueOf (.cntWait q0 q1 q2 q3 q4)) body s := by
  unfold exec execCntWait; exact ⟨_, rfl⟩
theorem exec_barArr_issue (q0) (q1) (q2) (s : State) :
    ∃ body, exec (.barArr q0 q1 q2) s = issue (issueOf (.barArr q0 q1 q2)) body s := by
  unfold exec execBarArr; exact ⟨_, rfl⟩
theorem exec_barWait_issue (q0) (q1) (q2) (q3) (q4) (s : State) :
    ∃ body, exec (.barWait q0 q1 q2 q3 q4) s = issue (issueOf (.barWait q0 q1 q2 q3 q4)) body s := by
  unfold exec execBarWait; exact ⟨_, rfl⟩
theorem exec_barArw_issue (q0) (q1) (q2) (q3) (s : State) :
    ∃ body, exec (.barArw q0 q1 q2 q3) s = issue (issueOf (.barArw q0 q1 q2 q3)) body s := by
  unfold exec execBarArw; exact ⟨_, rfl⟩
theorem exec_lckAcq_issue (q0) (q1) (q2) (s : State) :
    ∃ body, exec (.lckAcq q0 q1 q2) s = issue (issueOf (.lckAcq q0 q1 q2)) body s := by
  unfold exec execLckAcq; exact ⟨_, rfl⟩
theorem exec_lckRel_issue (q0) (q1) (s : State) :
    ∃ body, exec (.lckRel q0 q1) s = issue (issueOf (.lckRel q0 q1)) body s := by
  unfold exec execLckRel; exact ⟨_, rfl⟩
theorem exec_qPut_issue (q0) (q1) (q2) (q3) (s : State) :
    ∃ body, exec (.qPut q0 q1 q2 q3) s = issue (issueOf (.qPut q0 q1 q2 q3)) body s := by
  unfold exec execQPut; exact ⟨_, rfl⟩
theorem exec_qGet_issue (q0) (q1) (q2) (q3) (s : State) :
    ∃ body, exec (.qGet q0 q1 q2 q3) s = issue (issueOf (.qGet q0 q1 q2 q3)) body s := by
  unfold exec execQGet; exact ⟨_, rfl⟩
theorem exec_cndWait_issue (q0) (q1) (q2) (q3) (s : State) :
    ∃ body, exec (.cndWait q0 q1 q2 q3) s = issue (issueOf (.cndWait q0 q1 q2 q3)) body s := by
  unfold exec execCndWait; exact ⟨_, rfl⟩
theorem exec_cndSig_issue (q0) (q1) (q2) (s : State) :
    ∃ body, exec (.cndSig q0 q1 q2) s = issue (issueOf (.cndSig q0 q1 q2)) body s := by
  unfold exec execCndSig; exact ⟨_, rfl⟩
theorem exec_tinit_issue (q0) (q1) (q2) (q3) (q4) (s : State) :
    ∃ body, exec (.tinit q0 q1 q2 q3 q4) s = issue (issueOf (.tinit q0 q1 q2 q3 q4)) body s := by
  unfold exec execTinit; exact ⟨_, rfl⟩
theorem exec_traw_issue (q0) (q1) (q2) (q3) (q4) (s : State) :
    ∃ body, exec (.traw q0 q1 q2 q3 q4) s = issue (issueOf (.traw q0 q1 q2 q3 q4)) body s := by
  unfold exec execTraw; exact ⟨_, rfl⟩
theorem exec_tclr_issue (q0) (q1) (s : State) :
    ∃ body, exec (.tclr q0 q1) s = issue (issueOf (.tclr q0 q1)) body s := by
  unfold exec execTclr; exact ⟨_, rfl⟩
theorem exec_nbar_issue (q0) (q1) (q2) (q3) (s : State) :
    ∃ body, exec (.nbar q0 q1 q2 q3) s = issue (issueOf (.nbar q0 q1 q2 q3)) body s := by
  unfold exec execNbar; exact ⟨_, rfl⟩
theorem exec_cpy_issue (q0) (q1) (q2) (q3) (q4) (s : State) :
    ∃ body, exec (.cpy q0 q1 q2 q3 q4) s = issue (issueOf (.cpy q0 q1 q2 q3 q4)) body s := by
  unfold exec execCpy; exact ⟨_, rfl⟩
theorem exec_cpym_issue (q0) (q1) (q2) (q3) (q4) (s : State) :
    ∃ body, exec (.cpym q0 q1 q2 q3 q4) s = issue (issueOf (.cpym q0 q1 q2 q3 q4)) body s := by
  unfold exec execCpym; exact ⟨_, rfl⟩
theorem exec_mwl_issue (q0) (q1) (q2) (q3) (q4) (q5) (q6) (s : State) :
    ∃ body, exec (.mwl q0 q1 q2 q3 q4 q5 q6) s = issue (issueOf (.mwl q0 q1 q2 q3 q4 q5 q6)) body s := by
  unfold exec execMwl; exact ⟨_, rfl⟩
theorem exec_mma_issue (q0) (q1) (q2) (q3) (q4) (q5) (q6) (q7) (q8) (s : State) :
    ∃ body, exec (.mma q0 q1 q2 q3 q4 q5 q6 q7 q8) s = issue (issueOf (.mma q0 q1 q2 q3 q4 q5 q6 q7 q8)) body s := by
  unfold exec execMma; exact ⟨_, rfl⟩
theorem exec_acccfg_issue (q0) (q1) (q2) (q3) (s : State) :
    ∃ body, exec (.acccfg q0 q1 q2 q3) s = issue (issueOf (.acccfg q0 q1 q2 q3)) body s := by
  unfold exec execAcccfg; exact ⟨_, rfl⟩
theorem exec_acczero_issue (q0) (s : State) :
    ∃ body, exec (.acczero q0) s = issue (issueOf (.acczero q0)) body s := by
  unfold exec execAcczero; exact ⟨_, rfl⟩
theorem exec_accrd_issue (q0) (q1) (q2) (q3) (q4) (q5) (s : State) :
    ∃ body, exec (.accrd q0 q1 q2 q3 q4 q5) s = issue (issueOf (.accrd q0 q1 q2 q3 q4 q5)) body s := by
  unfold exec execAccrd; exact ⟨_, rfl⟩
theorem exec_accadd_issue (q0) (q1) (s : State) :
    ∃ body, exec (.accadd q0 q1) s = issue (issueOf (.accadd q0 q1)) body s := by
  unfold exec execAccadd; exact ⟨_, rfl⟩
theorem exec_accsave_issue (q0) (q1) (q2) (s : State) :
    ∃ body, exec (.accsave q0 q1 q2) s = issue (issueOf (.accsave q0 q1 q2)) body s := by
  unfold exec execAccsave; exact ⟨_, rfl⟩
theorem exec_accload_issue (q0) (q1) (q2) (s : State) :
    ∃ body, exec (.accload q0 q1 q2) s = issue (issueOf (.accload q0 q1 q2)) body s := by
  unfold exec execAccload; exact ⟨_, rfl⟩
theorem exec_mstat_issue (q0) (q1) (q2) (s : State) :
    ∃ body, exec (.mstat q0 q1 q2) s = issue (issueOf (.mstat q0 q1 q2)) body s := by
  unfold exec execMstat; exact ⟨_, rfl⟩
theorem exec_vaddFp_issue (q0) (q1) (q2) (q3) (q4) (s : State) :
    ∃ body, exec (.vaddFp q0 q1 q2 q3 q4) s = issue (issueOf (.vaddFp q0 q1 q2 q3 q4)) body s := by
  have e : readDstOf (.vaddFp q0 q1 q2 q3 q4) = readDst q0 q3 false := by rw [readDst_false]; rfl
  unfold issueOf exec execVaddFp vfArith vfOp; rw [e]; exact ⟨_, rfl⟩
theorem exec_vsubFp_issue (q0) (q1) (q2) (q3) (q4) (s : State) :
    ∃ body, exec (.vsubFp q0 q1 q2 q3 q4) s = issue (issueOf (.vsubFp q0 q1 q2 q3 q4)) body s := by
  have e : readDstOf (.vsubFp q0 q1 q2 q3 q4) = readDst q0 q3 false := by rw [readDst_false]; rfl
  unfold issueOf exec execVsubFp vfArith vfOp; rw [e]; exact ⟨_, rfl⟩
theorem exec_vmulFp_issue (q0) (q1) (q2) (q3) (q4) (s : State) :
    ∃ body, exec (.vmulFp q0 q1 q2 q3 q4) s = issue (issueOf (.vmulFp q0 q1 q2 q3 q4)) body s := by
  have e : readDstOf (.vmulFp q0 q1 q2 q3 q4) = readDst q0 q3 false := by rw [readDst_false]; rfl
  unfold issueOf exec execVmulFp vfArith vfOp; rw [e]; exact ⟨_, rfl⟩
theorem exec_vfmaFp_issue (q0) (q1) (q2) (q3) (q4) (s : State) :
    ∃ body, exec (.vfmaFp q0 q1 q2 q3 q4) s = issue (issueOf (.vfmaFp q0 q1 q2 q3 q4)) body s := by
  have e : readDstOf (.vfmaFp q0 q1 q2 q3 q4) = readDst q0 q3 true := by rw [readDst_true]; rfl
  unfold issueOf exec execVfmaFp vfArith vfOp; rw [e]; exact ⟨_, rfl⟩
theorem exec_vminFp_issue (q0) (q1) (q2) (q3) (q4) (s : State) :
    ∃ body, exec (.vminFp q0 q1 q2 q3 q4) s = issue (issueOf (.vminFp q0 q1 q2 q3 q4)) body s := by
  have e : readDstOf (.vminFp q0 q1 q2 q3 q4) = readDst q0 q3 false := by rw [readDst_false]; rfl
  unfold issueOf exec execVminFp vfOp; rw [e]; exact ⟨_, rfl⟩
theorem exec_vmaxFp_issue (q0) (q1) (q2) (q3) (q4) (s : State) :
    ∃ body, exec (.vmaxFp q0 q1 q2 q3 q4) s = issue (issueOf (.vmaxFp q0 q1 q2 q3 q4)) body s := by
  have e : readDstOf (.vmaxFp q0 q1 q2 q3 q4) = readDst q0 q3 false := by rw [readDst_false]; rfl
  unfold issueOf exec execVmaxFp vfOp; rw [e]; exact ⟨_, rfl⟩
theorem exec_vun_issue (q0) (q1) (q2) (q3) (q4) (s : State) :
    ∃ body, exec (.vun q0 q1 q2 q3 q4) s = issue (issueOf (.vun q0 q1 q2 q3 q4)) body s := by
  have e : readDstOf (.vun q0 q1 q2 q3 q4) = readDst q0 q3 false := by rw [readDst_false]; rfl
  unfold issueOf exec execVun vfOp; rw [e]; exact ⟨_, rfl⟩
theorem exec_vcmpFp_issue (q0) (q1) (q2) (q3) (q4) (q5) (s : State) :
    ∃ body, exec (.vcmpFp q0 q1 q2 q3 q4 q5) s = issue (issueOf (.vcmpFp q0 q1 q2 q3 q4 q5)) body s := by
  unfold exec execVcmpFp; exact ⟨_, rfl⟩
theorem exec_vselFp_issue (q0) (q1) (q2) (q3) (q4) (s : State) :
    ∃ body, exec (.vselFp q0 q1 q2 q3 q4) s = issue (issueOf (.vselFp q0 q1 q2 q3 q4)) body s := by
  unfold exec execVselFp vsel; exact ⟨_, rfl⟩
theorem exec_vred_issue (q0) (q1) (q2) (q3) (s : State) :
    ∃ body, exec (.vred q0 q1 q2 q3) s = issue (issueOf (.vred q0 q1 q2 q3)) body s := by
  unfold exec execVred; exact ⟨_, rfl⟩
theorem exec_vcvt_issue (q0) (q1) (q2) (q3) (q4) (q5) (s : State) :
    ∃ body, exec (.vcvt q0 q1 q2 q3 q4 q5) s = issue (issueOf (.vcvt q0 q1 q2 q3 q4 q5)) body s := by
  have e : readDstOf (.vcvt q0 q1 q2 q3 q4 q5) = readDst q0 q4 false := by rw [readDst_false]; rfl
  unfold issueOf exec execVcvt; rw [e]; exact ⟨_, rfl⟩
theorem exec_vfnmaFp_issue (q0) (q1) (q2) (q3) (q4) (s : State) :
    ∃ body, exec (.vfnmaFp q0 q1 q2 q3 q4) s = issue (issueOf (.vfnmaFp q0 q1 q2 q3 q4)) body s := by
  have e : readDstOf (.vfnmaFp q0 q1 q2 q3 q4) = readDst q0 q3 true := by rw [readDst_true]; rfl
  unfold issueOf exec execVfnmaFp vfArith vfOp; rw [e]; exact ⟨_, rfl⟩
theorem exec_vaddInt_issue (q0) (q1) (q2) (q3) (q4) (s : State) :
    ∃ body, exec (.vaddInt q0 q1 q2 q3 q4) s = issue (issueOf (.vaddInt q0 q1 q2 q3 q4)) body s := by
  have e : readDstOf (.vaddInt q0 q1 q2 q3 q4) = readDst q0 q3 false := by rw [readDst_false]; rfl
  unfold issueOf exec execVaddInt viOp; rw [e]; exact ⟨_, rfl⟩
theorem exec_vsubInt_issue (q0) (q1) (q2) (q3) (q4) (s : State) :
    ∃ body, exec (.vsubInt q0 q1 q2 q3 q4) s = issue (issueOf (.vsubInt q0 q1 q2 q3 q4)) body s := by
  have e : readDstOf (.vsubInt q0 q1 q2 q3 q4) = readDst q0 q3 false := by rw [readDst_false]; rfl
  unfold issueOf exec execVsubInt viOp; rw [e]; exact ⟨_, rfl⟩
theorem exec_vmulInt_issue (q0) (q1) (q2) (q3) (q4) (s : State) :
    ∃ body, exec (.vmulInt q0 q1 q2 q3 q4) s = issue (issueOf (.vmulInt q0 q1 q2 q3 q4)) body s := by
  have e : readDstOf (.vmulInt q0 q1 q2 q3 q4) = readDst q0 q3 false := by rw [readDst_false]; rfl
  unfold issueOf exec execVmulInt viOp; rw [e]; exact ⟨_, rfl⟩
theorem exec_vmac_issue (q0) (q1) (q2) (q3) (q4) (s : State) :
    ∃ body, exec (.vmac q0 q1 q2 q3 q4) s = issue (issueOf (.vmac q0 q1 q2 q3 q4)) body s := by
  have e : readDstOf (.vmac q0 q1 q2 q3 q4) = readDst q0 q3 true := by rw [readDst_true]; rfl
  unfold issueOf exec execVmac viOp; rw [e]; exact ⟨_, rfl⟩
theorem exec_vminInt_issue (q0) (q1) (q2) (q3) (q4) (s : State) :
    ∃ body, exec (.vminInt q0 q1 q2 q3 q4) s = issue (issueOf (.vminInt q0 q1 q2 q3 q4)) body s := by
  have e : readDstOf (.vminInt q0 q1 q2 q3 q4) = readDst q0 q3 false := by rw [readDst_false]; rfl
  unfold issueOf exec execVminInt viOp; rw [e]; exact ⟨_, rfl⟩
theorem exec_vmaxInt_issue (q0) (q1) (q2) (q3) (q4) (s : State) :
    ∃ body, exec (.vmaxInt q0 q1 q2 q3 q4) s = issue (issueOf (.vmaxInt q0 q1 q2 q3 q4)) body s := by
  have e : readDstOf (.vmaxInt q0 q1 q2 q3 q4) = readDst q0 q3 false := by rw [readDst_false]; rfl
  unfold issueOf exec execVmaxInt viOp; rw [e]; exact ⟨_, rfl⟩
theorem exec_vminn_issue (q0) (q1) (q2) (q3) (q4) (s : State) :
    ∃ body, exec (.vminn q0 q1 q2 q3 q4) s = issue (issueOf (.vminn q0 q1 q2 q3 q4)) body s := by
  have e : readDstOf (.vminn q0 q1 q2 q3 q4) = readDst q0 q3 false := by rw [readDst_false]; rfl
  unfold issueOf exec execVminn viOp; rw [e]; exact ⟨_, rfl⟩
theorem exec_vmaxn_issue (q0) (q1) (q2) (q3) (q4) (s : State) :
    ∃ body, exec (.vmaxn q0 q1 q2 q3 q4) s = issue (issueOf (.vmaxn q0 q1 q2 q3 q4)) body s := by
  have e : readDstOf (.vmaxn q0 q1 q2 q3 q4) = readDst q0 q3 false := by rw [readDst_false]; rfl
  unfold issueOf exec execVmaxn viOp; rw [e]; exact ⟨_, rfl⟩
theorem exec_vand_issue (q0) (q1) (q2) (q3) (q4) (s : State) :
    ∃ body, exec (.vand q0 q1 q2 q3 q4) s = issue (issueOf (.vand q0 q1 q2 q3 q4)) body s := by
  have e : readDstOf (.vand q0 q1 q2 q3 q4) = readDst q0 q3 false := by rw [readDst_false]; rfl
  unfold issueOf exec execVand viOp; rw [e]; exact ⟨_, rfl⟩
theorem exec_vor_issue (q0) (q1) (q2) (q3) (q4) (s : State) :
    ∃ body, exec (.vor q0 q1 q2 q3 q4) s = issue (issueOf (.vor q0 q1 q2 q3 q4)) body s := by
  have e : readDstOf (.vor q0 q1 q2 q3 q4) = readDst q0 q3 false := by rw [readDst_false]; rfl
  unfold issueOf exec execVor viOp; rw [e]; exact ⟨_, rfl⟩
theorem exec_vxor_issue (q0) (q1) (q2) (q3) (q4) (s : State) :
    ∃ body, exec (.vxor q0 q1 q2 q3 q4) s = issue (issueOf (.vxor q0 q1 q2 q3 q4)) body s := by
  have e : readDstOf (.vxor q0 q1 q2 q3 q4) = readDst q0 q3 false := by rw [readDst_false]; rfl
  unfold issueOf exec execVxor viOp; rw [e]; exact ⟨_, rfl⟩
theorem exec_vshl_issue (q0) (q1) (q2) (q3) (q4) (s : State) :
    ∃ body, exec (.vshl q0 q1 q2 q3 q4) s = issue (issueOf (.vshl q0 q1 q2 q3 q4)) body s := by
  have e : readDstOf (.vshl q0 q1 q2 q3 q4) = readDst q0 q3 false := by rw [readDst_false]; rfl
  unfold issueOf exec execVshl viOp; rw [e]; exact ⟨_, rfl⟩
theorem exec_vshr_issue (q0) (q1) (q2) (q3) (q4) (s : State) :
    ∃ body, exec (.vshr q0 q1 q2 q3 q4) s = issue (issueOf (.vshr q0 q1 q2 q3 q4)) body s := by
  have e : readDstOf (.vshr q0 q1 q2 q3 q4) = readDst q0 q3 false := by rw [readDst_false]; rfl
  unfold issueOf exec execVshr viOp; rw [e]; exact ⟨_, rfl⟩
theorem exec_vsha_issue (q0) (q1) (q2) (q3) (q4) (s : State) :
    ∃ body, exec (.vsha q0 q1 q2 q3 q4) s = issue (issueOf (.vsha q0 q1 q2 q3 q4)) body s := by
  have e : readDstOf (.vsha q0 q1 q2 q3 q4) = readDst q0 q3 false := by rw [readDst_false]; rfl
  unfold issueOf exec execVsha viOp; rw [e]; exact ⟨_, rfl⟩
theorem exec_vcmpInt_issue (q0) (q1) (q2) (q3) (q4) (q5) (s : State) :
    ∃ body, exec (.vcmpInt q0 q1 q2 q3 q4 q5) s = issue (issueOf (.vcmpInt q0 q1 q2 q3 q4 q5)) body s := by
  unfold exec execVcmpInt; exact ⟨_, rfl⟩
theorem exec_vselInt_issue (q0) (q1) (q2) (q3) (q4) (s : State) :
    ∃ body, exec (.vselInt q0 q1 q2 q3 q4) s = issue (issueOf (.vselInt q0 q1 q2 q3 q4)) body s := by
  unfold exec execVselInt vsel; exact ⟨_, rfl⟩
theorem exec_vbc_issue (q0) (q1) (q2) (q3) (s : State) :
    ∃ body, exec (.vbc q0 q1 q2 q3) s = issue (issueOf (.vbc q0 q1 q2 q3)) body s := by
  unfold exec execVbc; exact ⟨_, rfl⟩
theorem exec_vget_issue (q0) (q1) (q2) (q3) (q4) (s : State) :
    ∃ body, exec (.vget q0 q1 q2 q3 q4) s = issue (issueOf (.vget q0 q1 q2 q3 q4)) body s := by
  unfold exec execVget; exact ⟨_, rfl⟩
theorem exec_vset_issue (q0) (q1) (q2) (q3) (q4) (q5) (s : State) :
    ∃ body, exec (.vset q0 q1 q2 q3 q4 q5) s = issue (issueOf (.vset q0 q1 q2 q3 q4 q5)) body s := by
  unfold exec execVset; exact ⟨_, rfl⟩
theorem exec_vperm_issue (q0) (q1) (q2) (q3) (s : State) :
    ∃ body, exec (.vperm q0 q1 q2 q3) s = issue (issueOf (.vperm q0 q1 q2 q3)) body s := by
  unfold exec execVperm; exact ⟨_, rfl⟩
theorem exec_vcopy_issue (q0) (q1) (s : State) :
    ∃ body, exec (.vcopy q0 q1) s = issue (issueOf (.vcopy q0 q1)) body s := by
  unfold exec execVcopy; exact ⟨_, rfl⟩
theorem exec_srd_issue (q0) (q1) (q2) (s : State) :
    ∃ body, exec (.srd q0 q1 q2) s = issue (issueOf (.srd q0 q1 q2)) body s := by
  unfold exec execSrd; exact ⟨_, rfl⟩
theorem exec_swr_issue (q0) (q1) (q2) (s : State) :
    ∃ body, exec (.swr q0 q1 q2) s = issue (issueOf (.swr q0 q1 q2)) body s := by
  unfold exec execSwr swr; exact ⟨_, rfl⟩
theorem exec_swrIntpend_issue (q0) (s : State) :
    ∃ body, exec (.swrIntpend q0) s = issue (issueOf (.swrIntpend q0)) body s := by
  unfold exec execSwrIntpend swr; exact ⟨_, rfl⟩
theorem exec_swrMerrlog_issue (q0) (s : State) :
    ∃ body, exec (.swrMerrlog q0) s = issue (issueOf (.swrMerrlog q0)) body s := by
  unfold exec execSwrMerrlog swr; exact ⟨_, rfl⟩
theorem exec_swrPshq_issue (q0) (s : State) :
    ∃ body, exec (.swrPshq q0) s = issue (issueOf (.swrPshq q0)) body s := by
  unfold exec execSwrPshq swr; exact ⟨_, rfl⟩
theorem exec_swrPshcnt_issue (q0) (s : State) :
    ∃ body, exec (.swrPshcnt q0) s = issue (issueOf (.swrPshcnt q0)) body s := by
  unfold exec execSwrPshcnt swr; exact ⟨_, rfl⟩
theorem exec_ecall_issue (s : State) :
    ∃ body, exec (.ecall) s = issue (issueOf (.ecall)) body s := by
  unfold exec execEcall; exact ⟨_, rfl⟩
theorem exec_eret_issue (s : State) :
    ∃ body, exec (.eret) s = issue (issueOf (.eret)) body s := by
  unfold exec execEret; exact ⟨_, rfl⟩
theorem exec_trapi_issue (q0) (q1) (s : State) :
    ∃ body, exec (.trapi q0 q1) s = issue (issueOf (.trapi q0 q1)) body s := by
  unfold exec execTrapi; exact ⟨_, rfl⟩
theorem exec_tlbinv_issue (q0) (q1) (q2) (q3) (q4) (s : State) :
    ∃ body, exec (.tlbinv q0 q1 q2 q3 q4) s = issue (issueOf (.tlbinv q0 q1 q2 q3 q4)) body s := by
  unfold exec execTlbinv; exact ⟨_, rfl⟩
theorem exec_grpset_issue (q0) (q1) (q2) (q3) (s : State) :
    ∃ body, exec (.grpset q0 q1 q2 q3) s = issue (issueOf (.grpset q0 q1 q2 q3)) body s := by
  unfold exec execGrpset; exact ⟨_, rfl⟩
theorem exec_brk_issue (q0) (q1) (s : State) :
    ∃ body, exec (.brk q0 q1) s = issue (issueOf (.brk q0 q1)) body s := by
  unfold exec execBrk; exact ⟨_, rfl⟩
theorem exec_wfi_issue (s : State) :
    ∃ body, exec (.wfi) s = issue (issueOf (.wfi)) body s := by
  unfold exec execWfi; exact ⟨_, rfl⟩
theorem exec_speedrd_issue (q0) (q1) (q2) (s : State) :
    ∃ body, exec (.speedrd q0 q1 q2) s = issue (issueOf (.speedrd q0 q1 q2)) body s := by
  unfold exec execSpeedrd; exact ⟨_, rfl⟩
theorem exec_cMov_issue (q0) (q1) (s : State) :
    ∃ body, exec (.cMov q0 q1) s = issue (issueOf (.cMov q0 q1)) body s := by
  unfold exec execCMov; exact ⟨_, rfl⟩
theorem exec_cAdd_issue (q0) (q1) (s : State) :
    ∃ body, exec (.cAdd q0 q1) s = issue (issueOf (.cAdd q0 q1)) body s := by
  unfold exec execCAdd compact2; exact ⟨_, rfl⟩
theorem exec_cSub_issue (q0) (q1) (s : State) :
    ∃ body, exec (.cSub q0 q1) s = issue (issueOf (.cSub q0 q1)) body s := by
  unfold exec execCSub compact2; exact ⟨_, rfl⟩
theorem exec_cAnd_issue (q0) (q1) (s : State) :
    ∃ body, exec (.cAnd q0 q1) s = issue (issueOf (.cAnd q0 q1)) body s := by
  unfold exec execCAnd compact2; exact ⟨_, rfl⟩
theorem exec_cOr_issue (q0) (q1) (s : State) :
    ∃ body, exec (.cOr q0 q1) s = issue (issueOf (.cOr q0 q1)) body s := by
  unfold exec execCOr compact2; exact ⟨_, rfl⟩
theorem exec_cXor_issue (q0) (q1) (s : State) :
    ∃ body, exec (.cXor q0 q1) s = issue (issueOf (.cXor q0 q1)) body s := by
  unfold exec execCXor compact2; exact ⟨_, rfl⟩
theorem exec_cAddi_issue (q0) (q1) (s : State) :
    ∃ body, exec (.cAddi q0 q1) s = issue (issueOf (.cAddi q0 q1)) body s := by
  unfold exec execCAddi compact1; exact ⟨_, rfl⟩
theorem exec_cLi_issue (q0) (q1) (s : State) :
    ∃ body, exec (.cLi q0 q1) s = issue (issueOf (.cLi q0 q1)) body s := by
  unfold exec execCLi; exact ⟨_, rfl⟩
theorem exec_cShli_issue (q0) (q1) (s : State) :
    ∃ body, exec (.cShli q0 q1) s = issue (issueOf (.cShli q0 q1)) body s := by
  unfold exec execCShli compact1; exact ⟨_, rfl⟩
theorem exec_cShri_issue (q0) (q1) (s : State) :
    ∃ body, exec (.cShri q0 q1) s = issue (issueOf (.cShri q0 q1)) body s := by
  unfold exec execCShri compact1; exact ⟨_, rfl⟩
theorem exec_cLd_issue (q0) (q1) (q2) (s : State) :
    ∃ body, exec (.cLd q0 q1 q2) s = issue (issueOf (.cLd q0 q1 q2)) body s := by
  unfold exec execCLd; exact ⟨_, rfl⟩
theorem exec_cSt_issue (q0) (q1) (q2) (s : State) :
    ∃ body, exec (.cSt q0 q1 q2) s = issue (issueOf (.cSt q0 q1 q2)) body s := by
  unfold exec execCSt; exact ⟨_, rfl⟩
theorem exec_cBr_issue (q0) (s : State) :
    ∃ body, exec (.cBr q0) s = issue (issueOf (.cBr q0)) body s := by
  unfold exec execCBr; exact ⟨_, rfl⟩
theorem exec_cBrp_issue (q0) (q1) (s : State) :
    ∃ body, exec (.cBrp q0 q1) s = issue (issueOf (.cBrp q0 q1)) body s := by
  unfold exec execCBrp; exact ⟨_, rfl⟩
theorem exec_cMiscNop_issue (s : State) :
    ∃ body, exec (.cMiscNop) s = issue (issueOf (.cMiscNop)) body s := by
  unfold exec execCMiscNop; exact ⟨_, rfl⟩
theorem exec_cMiscYield_issue (s : State) :
    ∃ body, exec (.cMiscYield) s = issue (issueOf (.cMiscYield)) body s := by
  unfold exec execCMiscYield; exact ⟨_, rfl⟩
theorem exec_cMiscTexit_issue (s : State) :
    ∃ body, exec (.cMiscTexit) s = issue (issueOf (.cMiscTexit)) body s := by
  unfold exec execCMiscTexit; exact ⟨_, rfl⟩
theorem exec_cRet_issue (s : State) :
    ∃ body, exec (.cRet) s = issue (issueOf (.cRet)) body s := by
  unfold exec execCRet; exact ⟨_, rfl⟩

/-- The meaning of every encoded instruction is an issue: its legality, privilege, sources and destinations decide first. -/
theorem exec_issue (i : Instr) (s : State) (h : encoded i = true) : ∃ body, exec i s = issue (issueOf i) body s := by
  cases i with
  | add q0 q1 q2 q3 q4 => exact exec_add_issue _ _ _ _ _ s
  | sub q0 q1 q2 q3 q4 => exact exec_sub_issue _ _ _ _ _ s
  | and q0 q1 q2 q3 q4 => exact exec_and_issue _ _ _ _ _ s
  | or q0 q1 q2 q3 q4 => exact exec_or_issue _ _ _ _ _ s
  | xor q0 q1 q2 q3 q4 => exact exec_xor_issue _ _ _ _ _ s
  | andn q0 q1 q2 q3 q4 => exact exec_andn_issue _ _ _ _ _ s
  | shl q0 q1 q2 q3 q4 => exact exec_shl_issue _ _ _ _ _ s
  | shr q0 q1 q2 q3 q4 => exact exec_shr_issue _ _ _ _ _ s
  | sha q0 q1 q2 q3 q4 => exact exec_sha_issue _ _ _ _ _ s
  | rot q0 q1 q2 q3 q4 => exact exec_rot_issue _ _ _ _ _ s
  | min q0 q1 q2 q3 q4 => exact exec_min_issue _ _ _ _ _ s
  | max q0 q1 q2 q3 q4 => exact exec_max_issue _ _ _ _ _ s
  | minn q0 q1 q2 q3 q4 => exact exec_minn_issue _ _ _ _ _ s
  | maxn q0 q1 q2 q3 q4 => exact exec_maxn_issue _ _ _ _ _ s
  | mul q0 q1 q2 q3 q4 => exact exec_mul_issue _ _ _ _ _ s
  | mulh q0 q1 q2 q3 q4 => exact exec_mulh_issue _ _ _ _ _ s
  | mulhn q0 q1 q2 q3 q4 => exact exec_mulhn_issue _ _ _ _ _ s
  | div q0 q1 q2 q3 q4 => exact exec_div_issue _ _ _ _ _ s
  | divn q0 q1 q2 q3 q4 => exact exec_divn_issue _ _ _ _ _ s
  | rem q0 q1 q2 q3 q4 => exact exec_rem_issue _ _ _ _ _ s
  | remn q0 q1 q2 q3 q4 => exact exec_remn_issue _ _ _ _ _ s
  | clz q0 q1 q2 => exact exec_clz_issue _ _ _ s
  | popc q0 q1 q2 => exact exec_popc_issue _ _ _ s
  | sext q0 q1 q2 q3 q4 => exact exec_sext_issue _ _ _ _ _ s
  | addw q0 q1 q2 q3 q4 => exact exec_addw_issue _ _ _ _ _ s
  | subw q0 q1 q2 q3 q4 => exact exec_subw_issue _ _ _ _ _ s
  | addi q0 q1 q2 q3 => exact exec_addi_issue _ _ _ _ s
  | andi q0 q1 q2 q3 => exact exec_andi_issue _ _ _ _ s
  | ori q0 q1 q2 q3 => exact exec_ori_issue _ _ _ _ s
  | xori q0 q1 q2 q3 => exact exec_xori_issue _ _ _ _ s
  | shli q0 q1 q2 q3 => exact exec_shli_issue _ _ _ _ s
  | shri q0 q1 q2 q3 => exact exec_shri_issue _ _ _ _ s
  | shai q0 q1 q2 q3 => exact exec_shai_issue _ _ _ _ s
  | roti q0 q1 q2 q3 => exact exec_roti_issue _ _ _ _ s
  | lui q0 q1 => exact exec_lui_issue _ _ s
  | addpc q0 q1 => exact exec_addpc_issue _ _ s
  | cmp q0 q1 q2 q3 q4 q5 => exact exec_cmp_issue _ _ _ _ _ _ s
  | cmpW q0 q1 q2 q3 q4 q5 => exact exec_cmpW_issue _ _ _ _ _ _ s
  | cmpi q0 q1 q2 q3 q4 => exact exec_cmpi_issue _ _ _ _ _ s
  | sel q0 q1 q2 q3 q4 q5 q6 => exact exec_sel_issue _ _ _ _ _ _ _ s
  | pand q0 q1 q2 => exact exec_pand_issue _ _ _ s
  | por q0 q1 q2 => exact exec_por_issue _ _ _ s
  | pxor q0 q1 q2 => exact exec_pxor_issue _ _ _ s
  | pandn q0 q1 q2 => exact exec_pandn_issue _ _ _ s
  | pfromg q0 q1 q2 => exact exec_pfromg_issue _ _ _ s
  | ptog q0 q1 => exact exec_ptog_issue _ _ s
  | xset q0 q1 q2 => exact exec_xset_issue _ _ _ s
  | xget q0 q1 => exact exec_xget_issue _ _ s
  | xld q0 q1 => exact exec_xld_issue _ _ s
  | madr q0 q1 q2 q3 q4 => exact exec_madr_issue _ _ _ _ _ s
  | br q0 => exact exec_br_issue _ s
  | jal q0 => exact exec_jal_issue _ s
  | brp q0 q1 q2 => exact exec_brp_issue _ _ _ s
  | jalr q0 q1 q2 q3 => exact exec_jalr_issue _ _ _ _ s
  | yield => exact exec_yield_issue s
  | waitg q0 => exact exec_waitg_issue _ s
  | waitv q0 => exact exec_waitv_issue _ s
  | texit => exact exec_texit_issue s
  | tspawn q0 q1 q2 q3 q4 => exact exec_tspawn_issue _ _ _ _ _ s
  | tnext q0 => exact exec_tnext_issue _ s
  | repart q0 => exact exec_repart_issue _ s
  | waitk q0 => exact exec_waitk_issue _ s
  | kput q0 q1 q2 => exact exec_kput_issue _ _ _ s
  | kget q0 q1 q2 => exact exec_kget_issue _ _ _ s
  | strmLead q0 q1 => exact exec_strmLead_issue _ _ s
  | strmJoin => exact exec_strmJoin_issue s
  | strmEnd => exact exec_strmEnd_issue s
  | strmPos q0 => exact exec_strmPos_issue _ s
  | rput q0 q1 q2 q3 q4 => exact exec_rput_issue _ _ _ _ _ s
  | rputM q0 q1 q2 q3 q4 q5 => exact exec_rputM_issue _ _ _ _ _ _ s
  | rputArm q0 q1 => exact exec_rputArm_issue _ _ s
  | ld q0 q1 q2 q3 q4 q5 q6 => exact exec_ld_issue _ _ _ _ _ _ _ s
  | ldn q0 q1 q2 q3 q4 q5 q6 => exact exec_ldn_issue _ _ _ _ _ _ _ s
  | st q0 q1 q2 q3 q4 q5 q6 => exact exec_st_issue _ _ _ _ _ _ _ s
  | vld q0 q1 q2 q3 q4 q5 => exact exec_vld_issue _ _ _ _ _ _ s
  | vst q0 q1 q2 q3 q4 q5 => exact exec_vst_issue _ _ _ _ _ _ s
  | vlds q0 q1 q2 q3 q4 q5 => exact exec_vlds_issue _ _ _ _ _ _ s
  | vsts q0 q1 q2 q3 q4 q5 => exact exec_vsts_issue _ _ _ _ _ _ s
  | vgath q0 q1 q2 q3 q4 => exact exec_vgath_issue _ _ _ _ _ s
  | vscat q0 q1 q2 q3 q4 => exact exec_vscat_issue _ _ _ _ _ s
  | aadd q0 q1 q2 q3 q4 q5 => exact exec_aadd_issue _ _ _ _ _ _ s
  | aand q0 q1 q2 q3 q4 q5 => exact exec_aand_issue _ _ _ _ _ _ s
  | aor q0 q1 q2 q3 q4 q5 => exact exec_aor_issue _ _ _ _ _ _ s
  | axor q0 q1 q2 q3 q4 q5 => exact exec_axor_issue _ _ _ _ _ _ s
  | amin q0 q1 q2 q3 q4 q5 => exact exec_amin_issue _ _ _ _ _ _ s
  | amax q0 q1 q2 q3 q4 q5 => exact exec_amax_issue _ _ _ _ _ _ s
  | aswap q0 q1 q2 q3 q4 q5 => exact exec_aswap_issue _ _ _ _ _ _ s
  | acas q0 q1 q2 q3 q4 q5 => exact exec_acas_issue _ _ _ _ _ _ s
  | fence q0 q1 => exact exec_fence_issue _ _ s
  | waitc q0 => exact exec_waitc_issue _ s
  | cflush q0 q1 => exact exec_cflush_issue _ _ s
  | cinv q0 q1 => exact exec_cinv_issue _ _ s
  | pref q0 q1 q2 => exact exec_pref_issue _ _ _ s
  | spcfg q0 q1 => exact exec_spcfg_issue _ _ s
  | czero q0 q1 => exact exec_czero_issue _ _ s
  | pst q0 q1 q2 q3 q4 q5 q6 => exact exec_pst_issue _ _ _ _ _ _ _ s
  | ldsy q0 q1 q2 q3 => exact exec_ldsy_issue _ _ _ _ s
  | stsy q0 q1 q2 q3 => exact exec_stsy_issue _ _ _ _ s
  | cntAdd q0 q1 q2 => exact exec_cntAdd_issue _ _ _ s
  | cntFadd q0 q1 q2 q3 => exact exec_cntFadd_issue _ _ _ _ s
  | cntWait q0 q1 q2 q3 q4 => exact exec_cntWait_issue _ _ _ _ _ s
  | barArr q0 q1 q2 => exact exec_barArr_issue _ _ _ s
  | barWait q0 q1 q2 q3 q4 => exact exec_barWait_issue _ _ _ _ _ s
  | barArw q0 q1 q2 q3 => exact exec_barArw_issue _ _ _ _ s
  | lckAcq q0 q1 q2 => exact exec_lckAcq_issue _ _ _ s
  | lckRel q0 q1 => exact exec_lckRel_issue _ _ s
  | qPut q0 q1 q2 q3 => exact exec_qPut_issue _ _ _ _ s
  | qGet q0 q1 q2 q3 => exact exec_qGet_issue _ _ _ _ s
  | cndWait q0 q1 q2 q3 => exact exec_cndWait_issue _ _ _ _ s
  | cndSig q0 q1 q2 => exact exec_cndSig_issue _ _ _ s
  | tinit q0 q1 q2 q3 q4 => exact exec_tinit_issue _ _ _ _ _ s
  | traw q0 q1 q2 q3 q4 => exact exec_traw_issue _ _ _ _ _ s
  | tclr q0 q1 => exact exec_tclr_issue _ _ s
  | nbar q0 q1 q2 q3 => exact exec_nbar_issue _ _ _ _ s
  | cpy q0 q1 q2 q3 q4 => exact exec_cpy_issue _ _ _ _ _ s
  | cpym q0 q1 q2 q3 q4 => exact exec_cpym_issue _ _ _ _ _ s
  | mwl q0 q1 q2 q3 q4 q5 q6 => exact exec_mwl_issue _ _ _ _ _ _ _ s
  | mma q0 q1 q2 q3 q4 q5 q6 q7 q8 => exact exec_mma_issue _ _ _ _ _ _ _ _ _ s
  | acccfg q0 q1 q2 q3 => exact exec_acccfg_issue _ _ _ _ s
  | acczero q0 => exact exec_acczero_issue _ s
  | accrd q0 q1 q2 q3 q4 q5 => exact exec_accrd_issue _ _ _ _ _ _ s
  | accadd q0 q1 => exact exec_accadd_issue _ _ s
  | accsave q0 q1 q2 => exact exec_accsave_issue _ _ _ s
  | accload q0 q1 q2 => exact exec_accload_issue _ _ _ s
  | mstat q0 q1 q2 => exact exec_mstat_issue _ _ _ s
  | vaddFp q0 q1 q2 q3 q4 => exact exec_vaddFp_issue _ _ _ _ _ s
  | vsubFp q0 q1 q2 q3 q4 => exact exec_vsubFp_issue _ _ _ _ _ s
  | vmulFp q0 q1 q2 q3 q4 => exact exec_vmulFp_issue _ _ _ _ _ s
  | vfmaFp q0 q1 q2 q3 q4 => exact exec_vfmaFp_issue _ _ _ _ _ s
  | vminFp q0 q1 q2 q3 q4 => exact exec_vminFp_issue _ _ _ _ _ s
  | vmaxFp q0 q1 q2 q3 q4 => exact exec_vmaxFp_issue _ _ _ _ _ s
  | vun q0 q1 q2 q3 q4 => exact exec_vun_issue _ _ _ _ _ s
  | vcmpFp q0 q1 q2 q3 q4 q5 => exact exec_vcmpFp_issue _ _ _ _ _ _ s
  | vselFp q0 q1 q2 q3 q4 => exact exec_vselFp_issue _ _ _ _ _ s
  | vred q0 q1 q2 q3 => exact exec_vred_issue _ _ _ _ s
  | vcvt q0 q1 q2 q3 q4 q5 => exact exec_vcvt_issue _ _ _ _ _ _ s
  | vfnmaFp q0 q1 q2 q3 q4 => exact exec_vfnmaFp_issue _ _ _ _ _ s
  | vaddInt q0 q1 q2 q3 q4 => exact exec_vaddInt_issue _ _ _ _ _ s
  | vsubInt q0 q1 q2 q3 q4 => exact exec_vsubInt_issue _ _ _ _ _ s
  | vmulInt q0 q1 q2 q3 q4 => exact exec_vmulInt_issue _ _ _ _ _ s
  | vmac q0 q1 q2 q3 q4 => exact exec_vmac_issue _ _ _ _ _ s
  | vminInt q0 q1 q2 q3 q4 => exact exec_vminInt_issue _ _ _ _ _ s
  | vmaxInt q0 q1 q2 q3 q4 => exact exec_vmaxInt_issue _ _ _ _ _ s
  | vminn q0 q1 q2 q3 q4 => exact exec_vminn_issue _ _ _ _ _ s
  | vmaxn q0 q1 q2 q3 q4 => exact exec_vmaxn_issue _ _ _ _ _ s
  | vand q0 q1 q2 q3 q4 => exact exec_vand_issue _ _ _ _ _ s
  | vor q0 q1 q2 q3 q4 => exact exec_vor_issue _ _ _ _ _ s
  | vxor q0 q1 q2 q3 q4 => exact exec_vxor_issue _ _ _ _ _ s
  | vshl q0 q1 q2 q3 q4 => exact exec_vshl_issue _ _ _ _ _ s
  | vshr q0 q1 q2 q3 q4 => exact exec_vshr_issue _ _ _ _ _ s
  | vsha q0 q1 q2 q3 q4 => exact exec_vsha_issue _ _ _ _ _ s
  | vcmpInt q0 q1 q2 q3 q4 q5 => exact exec_vcmpInt_issue _ _ _ _ _ _ s
  | vselInt q0 q1 q2 q3 q4 => exact exec_vselInt_issue _ _ _ _ _ s
  | vbc q0 q1 q2 q3 => exact exec_vbc_issue _ _ _ _ s
  | vget q0 q1 q2 q3 q4 => exact exec_vget_issue _ _ _ _ _ s
  | vset q0 q1 q2 q3 q4 q5 => exact exec_vset_issue _ _ _ _ _ _ s
  | vperm q0 q1 q2 q3 => exact exec_vperm_issue _ _ _ _ s
  | vcopy q0 q1 => exact exec_vcopy_issue _ _ s
  | srd q0 q1 q2 => exact exec_srd_issue _ _ _ s
  | swr q0 q1 q2 => exact exec_swr_issue _ _ _ s
  | swrIntpend q0 => exact exec_swrIntpend_issue _ s
  | swrMerrlog q0 => exact exec_swrMerrlog_issue _ s
  | swrPshq q0 => exact exec_swrPshq_issue _ s
  | swrPshcnt q0 => exact exec_swrPshcnt_issue _ s
  | ecall => exact exec_ecall_issue s
  | eret => exact exec_eret_issue s
  | trapi q0 q1 => exact exec_trapi_issue _ _ s
  | tlbinv q0 q1 q2 q3 q4 => exact exec_tlbinv_issue _ _ _ _ _ s
  | grpset q0 q1 q2 q3 => exact exec_grpset_issue _ _ _ _ s
  | brk q0 q1 => exact exec_brk_issue _ _ s
  | wfi => exact exec_wfi_issue s
  | speedrd q0 q1 q2 => exact exec_speedrd_issue _ _ _ s
  | cMov q0 q1 => exact exec_cMov_issue _ _ s
  | cAdd q0 q1 => exact exec_cAdd_issue _ _ s
  | cSub q0 q1 => exact exec_cSub_issue _ _ s
  | cAnd q0 q1 => exact exec_cAnd_issue _ _ s
  | cOr q0 q1 => exact exec_cOr_issue _ _ s
  | cXor q0 q1 => exact exec_cXor_issue _ _ s
  | cAddi q0 q1 => exact exec_cAddi_issue _ _ s
  | cLi q0 q1 => exact exec_cLi_issue _ _ s
  | cShli q0 q1 => exact exec_cShli_issue _ _ s
  | cShri q0 q1 => exact exec_cShri_issue _ _ s
  | cLd q0 q1 q2 => exact exec_cLd_issue _ _ _ s
  | cSt q0 q1 q2 => exact exec_cSt_issue _ _ _ s
  | cBr q0 => exact exec_cBr_issue _ s
  | cBrp q0 q1 => exact exec_cBrp_issue _ _ s
  | cMiscNop => exact exec_cMiscNop_issue s
  | cMiscYield => exact exec_cMiscYield_issue s
  | cMiscTexit => exact exec_cMiscTexit_issue s
  | cRet => exact exec_cRet_issue s
  | _ => exact Bool.noConfusion (h : false = true)

end Sys2Proof.Machine
end

