-- ==== Sys2Proof/Laws/Memory.lean ====
section
/-! SUPPORT. Bytes of memory: reading after writing, and every operation over memory keeps the canonical form (`mwf`). -/

namespace Sys2Proof.Machine

open Sys2Proof

/-! ### The canonical form -/

/-- The first entry of a canonical list, and the rest. -/
theorem mwf_cons {a : Nat} {b : Byte} {r : List Host.Cell} :
    mwf ((a, b) :: r) = true ↔ b ≠ 0 ∧ (∀ e ∈ r, a < e.1) ∧ mwf r = true := by
  induction r generalizing a b with
  | nil => simp [mwf]
  | cons e r ih =>
    obtain ⟨a', b'⟩ := e
    simp only [mwf, Bool.and_eq_true, bne_iff_ne, ne_eq, decide_eq_true_eq, List.mem_cons, forall_eq_or_imp]
    constructor
    · rintro ⟨⟨h1, h2⟩, h3⟩
      exact ⟨h1, ⟨h2, fun e he => Nat.lt_trans h2 ((ih.mp h3).2.1 e he)⟩, h3⟩
    · rintro ⟨h1, ⟨h2, -⟩, h3⟩
      exact ⟨⟨h1, h2⟩, h3⟩

/-- What a write leaves in the list. -/
theorem mem_mwrite {a : Nat} {b : Byte} {m : List Host.Cell} {e : Host.Cell} (h : e ∈ mwrite a b m) : e.1 = a ∨ e ∈ m := by
  induction m with
  | nil => simp only [mwrite] at h; split at h <;> simp_all
  | cons x r ih =>
    obtain ⟨a', b'⟩ := x
    simp only [mwrite] at h
    split at h
    · split at h
      · exact .inr h
      · rcases List.mem_cons.mp h with h | h
        · exact .inl (by rw [h])
        · exact .inr h
    · split at h
      · split at h
        · exact .inr (List.mem_cons_of_mem _ h)
        · rcases List.mem_cons.mp h with h | h
          · exact .inl (by rw [h])
          · exact .inr (List.mem_cons_of_mem _ h)
      · rcases List.mem_cons.mp h with h | h
        · exact .inr (by simp [h])
        · rcases ih h with h | h
          · exact .inl h
          · exact .inr (List.mem_cons_of_mem _ h)

/-- Writing a byte keeps the canonical form. -/
theorem mwf_mwrite (a : Nat) (b : Byte) {m : List Host.Cell} (h : mwf m = true) : mwf (mwrite a b m) = true := by
  induction m with
  | nil => simp only [mwrite]; split <;> simp_all [mwf]
  | cons x r ih =>
    obtain ⟨a', b'⟩ := x
    obtain ⟨h1, h2, h3⟩ := mwf_cons.mp h
    simp only [mwrite]
    split
    · split
      · exact h
      · rename_i hlt hb
        refine mwf_cons.mpr ⟨hb, fun e he => ?_, h⟩
        rcases List.mem_cons.mp he with he | he
        · rw [he]; exact hlt
        · exact Nat.lt_trans hlt (h2 e he)
    · split
      · rename_i heq
        subst heq
        split
        · exact h3
        · rename_i hb; exact mwf_cons.mpr ⟨hb, h2, h3⟩
      · rename_i hn hne
        refine mwf_cons.mpr ⟨h1, fun e he => ?_, ih h3⟩
        rcases mem_mwrite he with he | he
        · omega
        · exact h2 e he

/-- Writing bytes keeps the canonical form. -/
theorem mwf_mput (bs : List Byte) (a : Nat) {m : List Host.Cell} (h : mwf m = true) : mwf (mput a bs m) = true := by
  induction bs generalizing a m with
  | nil => exact h
  | cons b bs ih => exact ih (a + 1) (mwf_mwrite a b h)

/-- Dropping entries keeps the canonical form. -/
theorem mwf_filter (p : Host.Cell → Bool) {m : List Host.Cell} (h : mwf m = true) : mwf (m.filter p) = true := by
  induction m with
  | nil => exact h
  | cons x r ih =>
    obtain ⟨a, b⟩ := x
    obtain ⟨h1, h2, h3⟩ := mwf_cons.mp h
    simp only [List.filter_cons]
    split
    · exact mwf_cons.mpr ⟨h1, fun e he => h2 e (List.mem_filter.mp he).1, ih h3⟩
    · exact ih h3

/-- An access keeps the canonical form. -/
theorem mwf_accCells (bad : List Nat) (a : Nat) (x : Access) {m : List Host.Cell} (h : mwf m = true) :
    mwf (accCells m bad a x).1 = true := by
  cases x with
  | load n => simp only [accCells]; split <;> exact h
  | fetch => exact h
  | store n v => exact mwf_mput _ _ h
  | taint => exact h
  | atomic op b x0 =>
    simp only [accCells]
    split
    · exact h
    · split
      · exact mwf_mput _ _ h
      · exact h

/-! ### Reading after writing -/

/-- A list that begins above an address reads 0 there. -/
theorem mread_above {a : Nat} {m : List Host.Cell} (h : ∀ e ∈ m, a < e.1) : mread m a = 0 := by
  induction m with
  | nil => rfl
  | cons x r ih =>
    have hx := h x (by simp)
    simp only [mread]
    rw [if_neg (by omega)]
    exact ih fun e he => h e (List.mem_cons_of_mem _ he)

/-- A byte reads what was written to it. -/
theorem mread_mwrite_same (a : Nat) (b : Byte) {m : List Host.Cell} (h : mwf m = true) : mread (mwrite a b m) a = b := by
  induction m with
  | nil => simp only [mwrite]; split <;> simp_all [mread]
  | cons x r ih =>
    obtain ⟨a', b'⟩ := x
    obtain ⟨h1, h2, h3⟩ := mwf_cons.mp h
    simp only [mwrite]
    split
    · rename_i hlt
      split
      · rename_i hb
        rw [hb]
        refine mread_above fun e he => ?_
        rcases List.mem_cons.mp he with he | he
        · rw [he]; exact hlt
        · exact Nat.lt_trans hlt (h2 e he)
      · simp [mread]
    · split
      · rename_i heq
        subst heq
        split
        · rename_i hb; rw [hb]; exact mread_above h2
        · simp [mread]
      · rename_i hne
        simp only [mread]
        rw [if_neg hne]
        exact ih h3

/-- Every other byte reads as before. -/
theorem mread_mwrite_ne {a c : Nat} (hc : c ≠ a) (b : Byte) (m : List Host.Cell) : mread (mwrite a b m) c = mread m c := by
  induction m with
  | nil => simp only [mwrite]; split <;> simp_all [mread]
  | cons x r ih =>
    obtain ⟨a', b'⟩ := x
    simp only [mwrite]
    split
    · split
      · rfl
      · simp [mread, hc]
    · split
      · rename_i heq
        subst heq
        split <;> simp [mread, hc]
      · simp only [mread, ih]

/-- Bytes outside those written read as before. -/
theorem mread_mput_out (bs : List Byte) (a : Nat) (m : List Host.Cell) {c : Nat} (h : c < a ∨ a + bs.length ≤ c) :
    mread (mput a bs m) c = mread m c := by
  induction bs generalizing a m with
  | nil => rfl
  | cons b bs ih =>
    simp only [List.length_cons] at h
    simp only [mput]
    rw [ih (a + 1) _ (by omega), mread_mwrite_ne (by omega)]

/-- Bytes written read back. -/
theorem mread_mput_in (bs : List Byte) (a : Nat) {m : List Host.Cell} (h : mwf m = true) {i : Nat} (hi : i < bs.length) :
    mread (mput a bs m) (a + i) = bs[i] := by
  induction bs generalizing a m i with
  | nil => simp at hi
  | cons b bs ih =>
    simp only [mput]
    cases i with
    | zero => rw [mread_mput_out _ _ _ (by omega)]; simpa using mread_mwrite_same a b h
    | succ i =>
      simp only [List.length_cons] at hi
      have := ih (a + 1) (mwf_mwrite a b h) (i := i) (by omega)
      simpa [Nat.add_assoc, Nat.add_comm 1 i] using this

/-- The bytes that were written. -/
theorem mbytes_mput (bs : List Byte) (a : Nat) {m : List Host.Cell} (h : mwf m = true) :
    mbytes (mput a bs m) a bs.length = bs := by
  induction bs generalizing a m with
  | nil => rfl
  | cons b bs ih =>
    simp only [List.length_cons, mbytes, mput]
    rw [ih (a + 1) (mwf_mwrite a b h), mread_mput_out _ _ _ (by omega), mread_mwrite_same a b h]

/-- Bytes in a range that was not written. -/
theorem mbytes_mput_out (bs : List Byte) (a : Nat) (m : List Host.Cell) {c n : Nat} (h : c + n ≤ a ∨ a + bs.length ≤ c) :
    mbytes (mput a bs m) c n = mbytes m c n := by
  induction n generalizing c with
  | zero => rfl
  | succ n ih =>
    simp only [mbytes]
    rw [mread_mput_out _ _ _ (by omega), ih (by omega)]

/-- As many bytes as asked for. -/
@[simp] theorem mbytes_length (m : List Host.Cell) (a n : Nat) : (mbytes m a n).length = n := by
  induction n generalizing a with
  | zero => rfl
  | succ n ih => simp [mbytes, ih]

/-- As many bytes as asked for. -/
@[simp] theorem leBytes_length (n v : Nat) : (leBytes n v).length = n := by
  induction n generalizing v with
  | zero => rfl
  | succ n ih => simp [leBytes, ih]

/-- The bytes of a number give the number back, up to its width. -/
@[simp] theorem leNat_leBytes (n v : Nat) : leNat (leBytes n v) = v % 2 ^ (8 * n) := by
  induction n generalizing v with
  | zero => simp [leBytes, leNat, Nat.mod_one]
  | succ n ih =>
    simp only [leBytes, leNat, ih, BitVec.toNat_ofNat]
    have : (2 : Nat) ^ (8 * (n + 1)) = 256 * 2 ^ (8 * n) := by rw [Nat.mul_add, Nat.pow_add]; omega
    rw [this, Nat.mod_mul]

/-- A number stored in memory reads back, up to its width. -/
theorem mnum_mput (m : List Host.Cell) (a n v : Nat) (h : mwf m = true) :
    mnum (mput a (leBytes n v) m) a n = v % 2 ^ (8 * n) := by
  have := mbytes_mput (leBytes n v) a h
  rw [leBytes_length] at this
  rw [mnum, this, leNat_leBytes]

/-- A number elsewhere in memory is as before. -/
theorem mnum_mput_out (m : List Host.Cell) (a n v c k : Nat) (h : c + k ≤ a ∨ a + n ≤ c) :
    mnum (mput a (leBytes n v) m) c k = mnum m c k := by
  rw [mnum, mbytes_mput_out _ _ _ (by simpa using h), mnum]

/-! ### Every operation keeps both memories canonical -/

/-- Home memory lists nothing after reset, which is canonical. -/
theorem mwf_reset : mwf State.reset.mem = true := rfl

/-- The memories of the reset state. -/
theorem memoriesCanonical_empty {s : State} (hm : s.mem = []) (hc : s.cores = []) : memoriesCanonical s := by
  simp [memoriesCanonical, hm, hc, mwf]

/-- The invariant looks at home memory and at the cores alone. -/
theorem memoriesCanonical_congr {s t : State} (hm : t.mem = s.mem) (hc : t.cores = s.cores) (h : memoriesCanonical s) :
    memoriesCanonical t := by
  rw [memoriesCanonical, hm, hc]; exact h

/-- Entries of a table after one is set. -/
theorem mem_tset {α : Type} {k : Nat} {v : α} {t : Tab α} {e : Nat × α} (h : e ∈ tset k v t) : e = (k, v) ∨ e ∈ t := by
  induction t with
  | nil => exact .inl (by simpa [tset] using h)
  | cons x r ih =>
    obtain ⟨k', v'⟩ := x
    simp only [tset] at h
    split at h
    · simpa using h
    · split at h
      · rcases List.mem_cons.mp h with h | h
        · exact .inl h
        · exact .inr (List.mem_cons_of_mem _ h)
      · rcases List.mem_cons.mp h with h | h
        · exact .inr (by simp [h])
        · rcases ih h with h | h
          · exact .inl h
          · exact .inr (List.mem_cons_of_mem _ h)

/-- The value a table gives is an entry's or the default. -/
theorem tget_mem {α : Type} (t : Tab α) (k : Nat) (d : α) : (k, tget t k d) ∈ t ∨ tget t k d = d := by
  induction t with
  | nil => exact .inr rfl
  | cons x r ih =>
    obtain ⟨k', v'⟩ := x
    simp only [tget]
    split
    · rename_i h; subst h; exact .inl (by simp)
    · rcases ih with h | h
      · exact .inl (List.mem_cons_of_mem _ h)
      · exact .inr h

/-- The scratchpad of any core. -/
theorem mwf_spm {s : State} (h : memoriesCanonical s) (c : Nat) : mwf (s.coreAt c).spm = true := by
  rcases tget_mem s.cores c {} with hc | hc
  · exact h.2 _ hc
  · simp only [State.coreAt]; rw [hc]; rfl

/-- A core replaced by one whose scratchpad is canonical. -/
theorem memoriesCanonical_setCore {s : State} (h : memoriesCanonical s) (c : Nat) {k : Core} (hk : mwf k.spm = true) :
    memoriesCanonical (s.setCore c k) := by
  refine ⟨h.1, fun e he => ?_⟩
  rcases mem_tset he with he | he
  · rw [he]; exact hk
  · exact h.2 e he

/-- A core changed without its scratchpad. -/
theorem memoriesCanonical_modCore {s : State} (h : memoriesCanonical s) (c : Nat) {f : Core → Core}
    (hf : ∀ k : Core, (f k).spm = k.spm) : memoriesCanonical (s.modCore c f) :=
  memoriesCanonical_setCore h c (by rw [hf]; exact mwf_spm h c)

/-- A thread replaced. -/
theorem memoriesCanonical_setThread {s : State} (h : memoriesCanonical s) (c t : Nat) (th : Thread) :
    memoriesCanonical (s.setThread c t th) :=
  memoriesCanonical_modCore h c fun _ => rfl

/-- A thread changed. -/
theorem memoriesCanonical_modThread {s : State} (h : memoriesCanonical s) (c t : Nat) (f : Thread → Thread) :
    memoriesCanonical (s.modThread c t f) := memoriesCanonical_setThread h c t _

/-- The performing thread replaced. -/
theorem memoriesCanonical_setTh {s : State} (h : memoriesCanonical s) (th : Thread) : memoriesCanonical (s.setTh th) :=
  memoriesCanonical_setThread h _ _ th

/-- A line written at its home. -/
theorem memoriesCanonical_setHomeLine {s : State} (h : memoriesCanonical s) (asid line : Nat) (lv : LineVal) :
    memoriesCanonical (s.setHomeLine asid line lv) := by
  have hm := mwf_mput (lineBytes lv.data) (line * 64) h.1
  simp only [memoriesCanonical, State.setHomeLine]
  exact ⟨hm, h.2⟩

/-- A tag set. -/
theorem memoriesCanonical_setTag {s : State} (h : memoriesCanonical s) (off t : Nat) : memoriesCanonical (s.setTag off t) :=
  ⟨mwf_mwrite _ _ h.1, h.2⟩

/-- An access at the home's own copy. -/
theorem memoriesCanonical_homeAcc {s : State} (h : memoriesCanonical s) (asid pa : Nat) (a : Access) :
    memoriesCanonical (s.homeAcc asid pa a).1 := by
  simp only [State.homeAcc]
  split
  · exact memoriesCanonical_setHomeLine h _ _ _
  · exact h

/-- A copy that gives way keeps the scratchpad. -/
@[simp] theorem loseCopy_spm (line : Nat) (k : Core) : (k.loseCopy line).spm = k.spm := by
  simp only [Core.loseCopy]
  split
  · rfl
  · split
    · rfl
    · split <;> rfl

/-- Every copy of a line recalled. -/
theorem memoriesCanonical_recall {s : State} (h : memoriesCanonical s) (line : Nat) : memoriesCanonical (s.recall line) := by
  have drop (u : State) (hu : memoriesCanonical u) (d : DirEnt) : memoriesCanonical
      { u.setDir line d with cores := u.cores.map fun c => (c.1, c.2.loseCopy line) } := by
    refine ⟨hu.1, fun e he => ?_⟩
    obtain ⟨x, hx, rfl⟩ := List.mem_map.mp he
    simpa using hu.2 x hx
  simp only [State.recall]
  split
  · exact h
  · split
    · exact drop _ (memoriesCanonical_setHomeLine h _ _ _) _
    · exact drop _ h _

/-- A coherent access at the home. -/
theorem memoriesCanonical_atHome {s : State} (h : memoriesCanonical s) (asid pa : Nat) (a : Access) :
    memoriesCanonical (s.atHome asid pa a).1 := memoriesCanonical_homeAcc (memoriesCanonical_recall h _) _ _ _

/-- A coherent write of bytes. -/
theorem memoriesCanonical_pokeWords {s : State} (h : memoriesCanonical s) (asid f off : Nat) (bs : List Byte) :
    memoriesCanonical (s.pokeWords asid f off bs) := by
  induction f generalizing s off bs with
  | zero => exact h
  | succ f ih =>
    simp only [State.pokeWords]
    split
    · exact h
    · exact ih (memoriesCanonical_atHome h _ _ _) _ _

/-- A coherent write of bytes. -/
theorem memoriesCanonical_pokeBytes {s : State} (h : memoriesCanonical s) (asid off : Nat) (bs : List Byte) :
    memoriesCanonical (s.pokeBytes asid off bs) := memoriesCanonical_pokeWords h _ _ _ _

/-- An access to a scratchpad. -/
theorem memoriesCanonical_setSpm {s : State} (h : memoriesCanonical s) (c a : Nat) (x : Access) :
    memoriesCanonical (s.setCore c { s.coreAt c with
      spm := (accCells (s.coreAt c).spm (s.coreAt c).spmBad a x).1,
      spmBad := (accCells (s.coreAt c).spm (s.coreAt c).spmBad a x).2.1 }) :=
  memoriesCanonical_setCore h c (mwf_accCells _ _ _ (mwf_spm h c))

end Sys2Proof.Machine
end

