-- ==== Sys2Proof/Laws/Vector.lean ====
section
/-! SUPPORT. What the operations over lanes do: a vector built from its lanes, one lane replaced, the mask of a comparison,
and the flags of the active lanes. -/

namespace Sys2Proof.Machine

open Sys2Proof

/-- Bit `k` of a field. -/
theorem fld_testBit {w : Nat} (x : BitVec w) (lo n k : Nat) : (fld x lo n).testBit k = (decide (k < n) && bitOf x (lo + k)) := by
  simp [fld, bitOf, Nat.testBit_mod_two_pow, Nat.testBit_div_two_pow, BitVec.testBit_toNat, Nat.add_comm]

/-- A field is below its bound. -/
theorem fld_lt {w : Nat} (x : BitVec w) (lo n : Nat) : fld x lo n < 2 ^ n := Nat.mod_lt _ (Nat.two_pow_pos n)

/-- Bits of a word with a field replaced. -/
theorem bitOf_setFld {w : Nat} (x : BitVec w) (lo n v i : Nat) (h : lo + n ≤ w) :
    bitOf (setFld x lo n v) i = if lo ≤ i ∧ i < lo + n then v.testBit (i - lo) else bitOf x i := by
  have hm : ((2 ^ n - 1) * 2 ^ lo).testBit i = (decide (lo ≤ i) && decide (i - lo < n)) := by
    rw [Nat.testBit_mul_two_pow]; simp [Nat.testBit_two_pow_sub_one]
  have hv : (v % 2 ^ n * 2 ^ lo).testBit i = (decide (lo ≤ i) && (decide (i - lo < n) && v.testBit (i - lo))) := by
    rw [Nat.testBit_mul_two_pow]; simp [Nat.testBit_mod_two_pow]
  simp only [bitOf, setFld, BitVec.getLsbD_or, BitVec.getLsbD_and, BitVec.getLsbD_not, BitVec.getLsbD_ofNat, hm, hv]
  by_cases hi : i < w
  · by_cases h1 : lo ≤ i
    · by_cases h2 : i < lo + n
      · have : i - lo < n := by omega
        simp [hi, h1, h2, this]
      · have : ¬ i - lo < n := by omega
        simp [hi, h1, h2, this]
    · simp [hi, h1]
  · have h2 : ¬ (lo ≤ i ∧ i < lo + n) := by omega
    rw [if_neg h2, BitVec.getLsbD_of_ge x i (by omega)]
    simp [hi]

/-- The sum of lanes that `lanesOf` forms, and its bound. -/
theorem lanesOf_sum (w n : Nat) (f : Nat → Nat) (a : Nat) :
    (List.range n).foldr (fun i acc => f i % 2 ^ w * 2 ^ (w * i) + acc) a =
      (List.range n).foldr (fun i acc => f i % 2 ^ w * 2 ^ (w * i) + acc) 0 + a := by
  generalize List.range n = l
  induction l with
  | nil => simp
  | cons x r ih => simp only [List.foldr_cons]; rw [ih]; omega

theorem lanesOf_succ (w n : Nat) (f : Nat → Nat) :
    (List.range (n + 1)).foldr (fun i acc => f i % 2 ^ w * 2 ^ (w * i) + acc) 0 =
      (List.range n).foldr (fun i acc => f i % 2 ^ w * 2 ^ (w * i) + acc) 0 + f n % 2 ^ w * 2 ^ (w * n) := by
  rw [List.range_succ, List.foldr_append, lanesOf_sum]; simp

theorem lanesOf_lt (w n : Nat) (f : Nat → Nat) :
    (List.range n).foldr (fun i acc => f i % 2 ^ w * 2 ^ (w * i) + acc) 0 < 2 ^ (w * n) := by
  induction n with
  | zero => simp
  | succ n ih =>
    rw [lanesOf_succ, Nat.mul_add, Nat.mul_one, Nat.pow_add]
    have : f n % 2 ^ w < 2 ^ w := Nat.mod_lt _ (Nat.two_pow_pos w)
    have h2 : f n % 2 ^ w + 1 ≤ 2 ^ w := this
    calc _ < 2 ^ (w * n) + f n % 2 ^ w * 2 ^ (w * n) := by omega
      _ = (f n % 2 ^ w + 1) * 2 ^ (w * n) := by rw [Nat.add_mul, Nat.one_mul, Nat.add_comm]
      _ ≤ 2 ^ w * 2 ^ (w * n) := Nat.mul_le_mul_right _ h2
      _ = 2 ^ (w * n) * 2 ^ w := Nat.mul_comm _ _

theorem lanesOf_digit (w n j : Nat) (f : Nat → Nat) :
    (List.range n).foldr (fun i acc => f i % 2 ^ w * 2 ^ (w * i) + acc) 0 / 2 ^ (w * j) % 2 ^ w =
      if j < n then f j % 2 ^ w else 0 := by
  induction n with
  | zero => simp
  | succ n ih =>
    rw [lanesOf_succ]
    have hlt := lanesOf_lt w n f
    by_cases hj : j = n
    · subst hj
      rw [Nat.add_mul_div_right _ _ (Nat.two_pow_pos _), Nat.div_eq_of_lt hlt]
      simp
    · by_cases hj' : j < n
      · have hd : w * n = w * j + w * (n - j) := by rw [← Nat.mul_add]; congr 1; omega
        have hw : w * (n - j) = w + w * (n - j - 1) := by
          have : n - j = 1 + (n - j - 1) := by omega
          rw [this, Nat.mul_add, Nat.mul_one]; simp
        rw [hd, Nat.pow_add, hw, Nat.pow_add]
        have e : f n % 2 ^ w * (2 ^ (w * j) * (2 ^ w * 2 ^ (w * (n - j - 1)))) =
          (f n % 2 ^ w * 2 ^ (w * (n - j - 1)) * 2 ^ w) * 2 ^ (w * j) := by ac_rfl
        rw [e, Nat.add_mul_div_right _ _ (Nat.two_pow_pos _), Nat.add_mul_mod_self_right, ih]
        simp [hj', Nat.lt_succ_of_lt hj']
      · have h1 : ¬ j < n + 1 := by omega
        have h2 := lanesOf_lt w (n + 1) f
        rw [lanesOf_succ] at h2
        rw [if_neg h1, Nat.div_eq_of_lt]
        · simp
        · exact Nat.lt_of_lt_of_le h2 (Nat.pow_le_pow_right (by omega) (Nat.mul_le_mul_left _ (by omega)))

/-- A lane of a vector built from `n` lanes. -/
theorem lane_lanesOf (w n j : Nat) (f : Nat → Nat) (h : w * n ≤ 512) :
    lane (lanesOf w n f) w j = if j < n then f j % 2 ^ w else 0 := by
  have hlt := Nat.lt_of_lt_of_le (lanesOf_lt w n f) (Nat.pow_le_pow_right (by omega : 2 > 0) h)
  unfold lane lanesOf fld
  rw [BitVec.toNat_ofNat, Nat.mod_eq_of_lt hlt, lanesOf_digit]

/-- A lane is below its bound. -/
theorem lane_lt (l : Line) (w j : Nat) : lane l w j < 2 ^ w := fld_lt ..

/-- The lanes of a merge under a mask (R143). -/
theorem lane_mergeLanes (m : Word) (old : Line) (w j : Nat) (f : Nat → Nat) (h : j < 512 / w) :
    lane (mergeLanes m old w f) w j = if bitOf m j then f j % 2 ^ w else lane old w j := by
  unfold mergeLanes
  rw [lane_lanesOf _ _ _ _ (Nat.mul_div_le 512 w), if_pos h]
  split
  · rfl
  · exact Nat.mod_eq_of_lt (lane_lt ..)

/-- The lanes after one is replaced. -/
theorem lane_setLane (l : Line) (w i j v : Nat) (h : w * i + w ≤ 512) :
    lane (setLane l w i v) w j = if j = i then v % 2 ^ w else lane l w j := by
  apply Nat.eq_of_testBit_eq
  intro k
  rw [lane, setLane, fld_testBit, bitOf_setFld _ _ _ _ _ h]
  by_cases hk : k < w
  · by_cases hj : j = i
    · subst hj; simp [hk, Nat.testBit_mod_two_pow]
    · have : ¬ (w * i ≤ w * j + k ∧ w * j + k < w * i + w) := by
        rcases Nat.lt_or_gt_of_ne hj with h' | h'
        · have : w * (j + 1) ≤ w * i := Nat.mul_le_mul_left _ h'
          rw [Nat.mul_add] at this; omega
        · have : w * (i + 1) ≤ w * j := Nat.mul_le_mul_left _ h'
          rw [Nat.mul_add] at this; omega
      rw [if_neg this, if_neg hj, lane, fld_testBit]
  · simp only [hk, decide_false, Bool.false_and]
    split
    · simp [Nat.testBit_mod_two_pow, hk]
    · rw [lane, fld_testBit]; simp [hk]

/-- Bits of the mask a comparison writes (R147). -/
theorem bitOf_cmpMask (m : Word) (n j : Nat) (f : Nat → Bool) (h : n ≤ 64) :
    bitOf (cmpMask m n f) j = (decide (j < n) && bitOf m j && f j) := by
  induction n with
  | zero => simp [cmpMask, bitOf]
  | succ n ih =>
    have ih := ih (by omega)
    have step : cmpMask m (n + 1) f = if bitOf m n && f n then setBit (cmpMask m n f) n true else cmpMask m n f := by
      simp [cmpMask, List.range_succ]
    rw [step]
    by_cases hj : j = n
    · subst hj
      split
      · rename_i hc
        rw [setBit, bitOf_setFld _ _ _ _ _ (by omega)]
        simp only [Bool.and_eq_true] at hc
        simp [hc]
      · rename_i hc
        rw [ih]; simp only [Bool.and_eq_true, not_and, Bool.not_eq_true] at hc
        by_cases hm : bitOf m j = true
        · simp [hm, hc hm]
        · simp [hm]
    · have hd : (decide (j < n + 1)) = decide (j < n) := by simp; omega
      split
      · rw [setBit, bitOf_setFld _ _ _ _ _ (by omega), if_neg (by omega), ih, hd]
      · rw [ih, hd]

/-- A flag of `laneFlags` is raised when an active lane raises it (R120). -/
theorem bitOf_laneFlags (m : Word) (n i : Nat) (f : Nat → Flags) :
    bitOf (laneFlags m n f) i = true ↔ ∃ j < n, bitOf m j = true ∧ bitOf (f j) i = true := by
  induction n with
  | zero => simp [laneFlags, bitOf]
  | succ n ih =>
    have step : laneFlags m (n + 1) f = if bitOf m n then laneFlags m n f ||| f n else laneFlags m n f := by
      simp [laneFlags, List.range_succ]
    rw [step]
    constructor
    · intro h
      split at h
      · rename_i hm
        simp only [bitOf, BitVec.getLsbD_or, Bool.or_eq_true] at h
        rcases h with h | h
        · obtain ⟨j, hj, hr⟩ := ih.mp h; exact ⟨j, by omega, hr⟩
        · exact ⟨n, by omega, hm, h⟩
      · obtain ⟨j, hj, hr⟩ := ih.mp h; exact ⟨j, by omega, hr⟩
    · rintro ⟨j, hj, hm, hf⟩
      by_cases hjn : j = n
      · subst hjn; rw [if_pos hm]
        simp only [bitOf, BitVec.getLsbD_or, Bool.or_eq_true] at hf ⊢; exact Or.inr hf
      · have := ih.mpr ⟨j, by omega, hm, hf⟩
        split
        · simp only [bitOf, BitVec.getLsbD_or, Bool.or_eq_true] at this ⊢; exact Or.inl this
        · exact this

end Sys2Proof.Machine
end

