-- ==== Sys2Proof/Tests/Slice0.lean ====
section
/-! SUPPORT. Tests: ill-formed terms that WellFormed refuses, words of the spec's text and the instructions they stand for, the
spec's worked examples on small states, and for each statement with hypotheses states that meet them. -/

namespace Sys2Proof.Tests

open Sys2Proof Sys2Proof.Machine

set_option Elab.async false

/-! ### WellFormed refuses (R46 to R81, R350, R16, R18, R22) -/

/-- One ill-formed term for each check on an encoded instruction. -/
theorem test_wf_refuses :
    ([.cmp false false 1 2 .eq 0, .cmpW false false 1 2 .eq 0, .cmpi 5 false 2 .eq 0, .pand 1 2 0, .por 1 2 0, .pxor 1 2 0,
      .pandn 1 2 0, .pfromg false 3 0, .vcmpFp 0 1 2 .eq 0 .f32, .vcmpInt 0 1 2 .eq 0 .i8, .rput true .e true 3 4,
      .rputM false false false 3 0 4, .rputM true true false 3 5 4, .ld 0 .d .rel 0 false 1 2, .ldn 0 .d .rel 0 false 1 2,
      .vld 0 .rel 0 false 1 2, .st 0 .d .acq 0 false 1 2, .vst 0 .acq 0 false 1 2, .waitc 0, .tinit false false 2 1 .slot,
      .mwl false .core false false false 1 .i8, .mma false .core false false false 2 1 .lc2 0, .accrd false false 2 1 .f16 0,
      .vcvt 0 .rne .mxf4 1 2 .f32, .tlbinv false false 0 1 .all, .tlbinv true false 0 1 .asid, .srd 0 0x0B 1, .swr 0 0x20 1,
      .swr 0 0x16 1, .swr 0 0x30 1, .cMov 0 0] : List Instr).all (fun i => !i.wf) = true := by decide

/-- One ill-formed term for each check on an event. -/
theorem test_wf_refuses_events :
    ([.deferredTrap 768 0, .nbarExpiry 0 16, .threadStart 768 0, .tlbinvComplete 0 16, .pageWalk 768 0 ⟨0, 0⟩,
      .rejection (.core 768) (.core 0), .resultFill (.slice 128) (.core 0), .meshAccess (.core 0) (.core 768),
      .homeRead (.core 0) (.slice 128) (some 0), .nbarNotify (.port 32768) (.core 0), .flightForm 768, .copyStart ⟨768, 1⟩, .spcfgApply 768 [],
      .freqChange 768 1500, .fenceCore 768 0 0 [], .routerBypass 768, .dieThrottle 4, .scrub (.slice 128) (.homeWord 0),
      .contactSheetSample (.core 768) 0 ⟨0, 0⟩, .podDatagram 32768 (.ack 1), .peerUnreachable 32768,
      .coldReset ⟨[]⟩] : List Instr).all (fun i => !i.wf) = true := by decide

/-! ### Decoding the spec's words (R84, R85, R131 to R153, R301 to R323, R356 to R361, R400) -/

/-- Scalar, branch and thread words. -/
theorem test_decode_scalar :
    [decodeTableWord 32 0x88288183, decodeTableWord 32 0x0050818D, decodeTableWord 32 0x2468A48F, decodeTableWord 32 0x67812485,
     decodeTableWord 32 0x00306913, decodeTableWord 32 0x0001419B, decodeTableWord 32 0x07E0089D, decodeTableWord 32 0xFFC06185,
     decodeTableWord 32 0x00004021, decodeTableWord 32 0xFFFFFE23, decodeTableWord 32 0x000145A5, decodeTableWord 32 0x0100E0A7,
     decodeTableWord 32 0x0800A029, decodeTableWord 32 0x38004029, decodeTableWord 32 0x40006129, decodeTableWord 32 0x480041A9,
     decodeTableWord 32 0x18000029, decodeTableWord 32 0x202881A9, decodeTableWord 32 0x30080029] =
    [some (.div false false 5 4 3), some (.shli 5 false 4 3), some (.lui 0x12345 9), some (.addi 0x678 false 9 9),
     some (.cmp false false 6 3 .lt 2), some (.xset false 10 3), some (.madr 1 (-2) false 0 17), some (.addi (-4) false 3 3),
     some (.br 0x80), some (.jal (-4)), some (.brp 10 true 3), some (.jalr 16 false 7 1), some (.waitg 5), some (.waitk 2),
     some (.kput false 3 2), some (.kget false 2 3), some .texit, some (.tspawn false false 5 4 3), some (.repart .p8)] := by
  decide

/-- Words of the memory, typed and stream families. -/
theorem test_decode_memory :
    [decodeTableWord 32 0x0D0101B3, decodeTableWord 32 0x08010137, decodeTableWord 32 0x1029023B, decodeTableWord 32 0x0471A63D,
     decodeTableWord 32 0x00000341, decodeTableWord 32 0x080001C1, decodeTableWord 32 0x10010041, decodeTableWord 32 0x30010041,
     decodeTableWord 32 0x28012041, decodeTableWord 32 0x005900C3, decodeTableWord 32 0x083802AD, decodeTableWord 32 0x200002AD,
     decodeTableWord 32 0x602181AD, decodeTableWord 32 0x300122DB, decodeTableWord 32 0x004902E1, decodeTableWord 32 0x10010061,
     decodeTableWord 32 0x500101E3, decodeTableWord 32 0x0001002B, decodeTableWord 32 0x1800022B] =
    [some (.ldn 3 .h .plain 0 false 8 3), some (.vld 2 .plain 0 false 8 2), some (.vgath 0 false 5 8 4),
     some (.aadd .plain .dev false 14 13 12), some (.fence .dev .rel), some (.waitc 3), some (.cflush false 8),
     some (.czero false 8), some (.spcfg false 9), some (.pst false .plain .core false 11 8 1), some (.rput false .e false 7 5),
     some (.rputArm false 5), some (.rputM true false false 4 12 3), some (.qGet (.wait 12) false 9 5),
     some (.tinit false false 9 8 .queue), some (.tclr false 8), some (.nbar (.wait 20) false 8 3), some (.strmLead false 8),
     some (.strmPos 4)] := by
  decide

/-- Words of the vector, engine and system families, a 16-bit form, and words that name nothing. -/
theorem test_decode_vector_system :
    [decodeTableWord 32 0x9200E371, decodeTableWord 32 0xA0882171, decodeTableWord 32 0x6848217D, decodeTableWord 32 0x00000365,
     decodeTableWord 32 0x000100E9, decodeTableWord 32 0x0049036B, decodeTableWord 32 0x000401FF, decodeTableWord 32 0x0803027F,
     decodeTableWord 32 0x1000007F, decodeTableWord 32 0x1800007F, decodeTableWord 32 0x2024607F, decodeTableWord 32 0x2800007F,
     decodeTableWord 32 0x284800FF, decodeTableWord 32 0x2849017F, decodeTableWord 32 0x3049007F, decodeTableWord 32 0x3805407F,
     decodeTableWord 32 0x4000007F, decodeTableWord 32 0x480101FF, decodeTableWord 16 0xF06C, decodeTableWord 32 0x0000002F,
     decodeTableWord 16 0x0000] =
    [some (.vred 1 7 6 .f32), some (.vcvt 0 .rz .bf16 1 2 .f32), some (.vperm .h 9 1 2),
     some (.cpy false .core false false 6), some (.mwl false .core false false false 8 .bf16),
     some (.mma false .core false false false 9 8 .bf16 2), some (.srd 0 0x20 3), some (.swr 0 0x18 4), some .ecall, some .eret,
     some (.trapi 4 35), some (.tlbinv false false 0 0 .all), some (.tlbinv false false 9 0 .asid),
     some (.tlbinv false false 9 8 .page), some (.grpset false false 9 8), some (.brk 0 42), some .wfi,
     some (.speedrd false 8 3), some (.cAddi (-4) 3), none, none] := by
  decide


/-! ### The spec's worked examples -/

/-- A thread in S mode with a handler at 0x8000 and the window of every mesh position. -/
def thr : Thread := { life := .runnable, status := 1, trapvec := 0x8000, meshwin := 0x171F0000, pc := 0x1000 }

/-- A device that is up, with two rows and more of live cores, and one thread in slot 0 of core 0. -/
def one (t : Thread) (k : Core := {}) : State :=
  { State.reset with bring := 8, speed := List.replicate 40 0x80000A8C, cores := [(0, { k with threads := [(0, t)] })] }

/-- What a state holds after an instruction. -/
def did {α : Type} (i : Instr) (s : State) (f : State → α) : Option α :=
  match exec i s with
  | .next t => some (f t)
  | _ => none

/-- g[n] after an instruction. -/
def g (i : Instr) (s : State) (n : Nat) : Option Word := did i s fun t => t.th.gv n

/-- A thread with values in g4 and g5. -/
def g45 (a b : Word) : State := one { thr with g := [(4, a), (5, b)] }

/-- Division and high products (example of R132). -/
theorem test_division :
    [g (.div false false 5 4 3) (g45 0x8000000000000000 0xFFFFFFFFFFFFFFFF) 3,
     g (.rem false false 5 4 3) (g45 0x8000000000000000 0xFFFFFFFFFFFFFFFF) 3,
     g (.divn false false 5 4 3) (g45 0x8000000000000000 0xFFFFFFFFFFFFFFFF) 3,
     g (.remn false false 5 4 3) (g45 0x8000000000000000 0xFFFFFFFFFFFFFFFF) 3,
     g (.mulh false false 5 4 3) (g45 0x8000000000000000 0xFFFFFFFFFFFFFFFF) 3,
     g (.mulhn false false 5 4 3) (g45 0x8000000000000000 0xFFFFFFFFFFFFFFFF) 3,
     g (.div false false 5 4 3) (g45 0x8000000000000000 0) 3,
     g (.rem false false 5 4 3) (g45 0x8000000000000000 0) 3] =
    [some 0x8000000000000000, some 0, some 0, some 0x8000000000000000, some 0, some 0x7FFFFFFFFFFFFFFF,
     some 0xFFFFFFFFFFFFFFFF, some 0x8000000000000000] := by decide +kernel

/-- Width tags (examples of R59 and R132). -/
theorem test_width_tags :
    [widthTag 0x8000000000000000, widthTag 0, widthTag 0x7FFFFFFFFFFFFFFF, widthTag 0xFFFFFFFFFFFFFFFF,
     widthTag 0xFFFFFFFF80000000] = [2, 0, 2, 1, 1] := by decide +kernel

/-- SEXT, ADDW (example of R132), the parts of a loaded constant (R135) and MADR (R142). -/
theorem test_scalar_examples :
    [g (.sext false false 5 4 6) (g45 0xF3 7) 6, g (.addw false false 5 4 6) (g45 0x7FFFFFFF 1) 6,
     g (.lui 0x12345 9) (one thr) 9, g (.addi 0x678 false 4 9) (g45 0x12345000 0) 9, g (.madr 1 (-2) false 0 17) (one thr) 17] =
    [some 0xFFFFFFFFFFFFFFF3, some 0xFFFFFFFF80000000, some 0x12345000, some 0x12345678, some 0xC00001F800000000] := by decide +kernel

/-- A loaded halfword with its sign and without (example of R234). -/
theorem test_load_halfword :
    let s := one { thr with g := [(8, 0xC000000000001000)] } { spm := [(0x1006, 0x34), (0x1007, 0xF2)] }
    [g (.ldn 3 .h .plain 0 false 8 3) s 3, g (.ld 3 .h .plain 0 false 8 3) s 3] =
      [some 0xF234, some 0xFFFFFFFFFFFFF234] := by decide +kernel

/-- VRED over four lanes (example of R149). -/
theorem test_vred :
    did (.vred 1 7 6 .f32) (one { thr with m := [(1, 0xF)], v := [(7, 0xCB8000003F8000003F8000004B800000)] })
      (fun t => (t.th.vv 6, t.th.fpflags)) = some (0x3F800000, 8) := by decide +kernel

/-- VCVT to bf16 towards zero and upward (examples of R118 and R150). -/
theorem test_vcvt :
    [did (.vcvt 0 .rz .bf16 1 2 .f32) (one { thr with v := [(1, 0x3F808000)] }) (fun t => t.th.vv 2),
     did (.vcvt 0 .ru .bf16 1 2 .f32) (one { thr with v := [(1, 0x3F808000)] }) (fun t => t.th.vv 2)] =
      [some 0x3F80, some 0x3F81] := by decide +kernel

/-- Powers of two in three lane types (example of R146). -/
theorem test_exp2 :
    [did (.vun 1 .exp2 1 2 .f16) (one { thr with m := [(1, 1)], v := [(1, 0x4C00)] }) (fun t => (t.th.vv 2, t.th.fpflags)),
     did (.vun 1 .exp2 1 2 .f32) (one { thr with m := [(1, 1)], v := [(1, 0x41800000)] }) (fun t => (t.th.vv 2, t.th.fpflags))] =
      [some (0x7C00, 0xA), some (0x47800000, 0)] := by decide +kernel

/-- Integer lanes wrap, and shift amounts are taken modulo the lane width (example of R152). -/
theorem test_integer_lanes :
    [did (.vmac 1 6 5 4 .i8) (one { thr with m := [(1, 1)], v := [(4, 100), (5, 20), (6, 10)] }) (fun t => t.th.vv 4),
     did (.vsha 1 6 5 4 .i16) (one { thr with m := [(1, 1)], v := [(5, 0x8000), (6, 17)] }) (fun t => t.th.vv 4)] =
      [some 44, some 0xC000] := by decide +kernel

/-- The home slice of the first word of the SYNC pool. -/
def pool0 : Node := .slice (homeSlice 0x7C00000000 true)

/-- A typed request for that word, of a thread of this device. -/
def typed0 (core slot id : Nat) (k : TypedKind) (maj : Nat) (b : Word) (lim : Lim) : TypedReq :=
  ⟨.thread ⟨0, core, slot, id⟩, k, maj, 0x7C00000000, 0x10000, b, 0, true, lim, 0, 0⟩

/-- The request arrives at a time. -/
def ask (time core slot id : Nat) (k : TypedKind) (maj : Nat) (b : Word) (lim : Lim) (s : State) : State :=
  match execSspTypedRequest (.core core) pool0
      { s with time := word time, net := [⟨.core core, pool0, .typed (typed0 core slot id k maj b lim)⟩] } with
  | .next t => t
  | _ => s

/-- A device with one word of the pool and its tag. -/
def poolWith (w : Word) (tag : Nat) : State := (one thr).sspInstall 0 0x7C00000000 w tag

/-- Word 0 of the pool. -/
def word0 (s : State) : Word := s.sspWord 0 0x7C00000000

/-- A barrier's three arrivals (example of R282): word 0 after each, and the report of the last. -/
theorem test_barrier :
    let a := ask 1000000 40 2 1 .barArr 0x27 0 (.wait 0) (poolWith 0x0007000300000000 0xA)
    let b := ask 1000250 0 0 2 .barArw 0x29 0 (.wait 0) a
    let c := ask 1003750 701 5 3 .barArw 0x29 0 (.wait 0) b
    (word0 a, word0 b, word0 c, c.sspWord 0 0x7C00000008) =
      (0x0007000300010000, 0x0007000300020000, 0x0008000300000000, 0xAF54000000000EA6) := by decide +kernel

/-- A ticket lock whose second waiter's limit passes (example of R284): tickets, the expired waiter's trap, and the release that
passes its void ticket over. -/
theorem test_void_ticket :
    let a := ask 1000 1 0 1 .lckAcq 0x2A 0 (.wait 0) (poolWith 0x0000000500000005 0xC)
    let b := ask 1000 2 0 2 .lckAcq 0x2A 0 (.wait 12) a
    let c := ask 1000 3 0 3 .lckAcq 0x2A 0 (.wait 0) b
    let d := (did (.waiterExpiry ((c.waiters.map (·.no)).getD 0 0)) { c with time := 5096, net := [] } id).getD c
    let e := ask 6000 1 0 4 .lckRel 0x2B 0 (.wait 0) d
    word0 c = 0x0000000800000005 ∧ d.net.map (·.body) = [.reply 0 2 (.trap 0x0A 0x10000 0xC000000000000000)] ∧
      word0 e = 0x0000000800000007 ∧ e.waiters = [] := by decide +kernel

/-- The header of a queue of one slot of 8 bytes, with its tag and those of the words after it (R285, R289). -/
theorem test_tinit_queue :
    let s := ask 0 0 0 1 (.tinit .queue) 0x30 0x0001000000000000 (.wait 0) (one thr)
    (word0 s, s.tag 0x7C00000000, s.tag 0x7C00000008, s.tag 0x7C00000040, s.tag 0x7C00000048) =
      (0x0001000000000000, 0xD, 6, 6, 0) := by decide +kernel

/-- Elements of a tile converted to f32 and bf16 (examples of R127). -/
theorem test_acc_out :
    [accOut .f32 2 0, accOut .bf16 2 0, accOut .f32 0xFFFFFFFFFFFFFFFFFFFFFFFD (-2), accOut .f32 0x181 0, accOut .bf16 0x181 0,
     accOut .f32 0x40400001 (-30), accOut .bf16 0x40400001 (-30)].map (·.1) =
      [0x40000000, 0x4000, 0xBF400000, 0x43C08000, 0x43C0, 0x3F808000, 0x3F81] := by decide +kernel

/-- Codes of every element format (example of R110), and the eight coordinates of an LC2 word (example of R114). -/
theorem test_element_codes :
    [Fmt.f32.round .rne (.fin true 3 (-2)), Fmt.bf16.round .rne (.fin false 1 0), Fmt.f16.round .rne (.fin false 1 0),
     Fmt.e4m3.round .rne (.fin true 7 (-1)), Fmt.e5m2.round .rne (.fin false 1 (-1)), Fmt.e3m2.round .rne (.fin true 6 0),
     Fmt.e2m3.round .rne (.fin false 11 (-2)), Fmt.e2m1.round .rne (.fin false 3 0)].map (·.1) =
      [0xBF400000, 0x3F80, 0x3C00, 0xC6, 0x38, 0x36, 0x13, 0x5] ∧
    (List.range 8).map (lc2Coord 0xA596) = [5, 13, 9, 5, 9, 1, 5, 9] := by decide +kernel

/-- Homes of lines and typed words, dies and stacks (examples of R16, R20, R190 and R264). -/
theorem test_homes :
    (homeSlice (paOff 0x28000123456) false, homeSlice (paOff 0x28000123456) true, paDev 0x28000123456, dieOf 500,
      homeSlice 0x567892A8 false) = (16, 33, 5, 3, 99) := by decide +kernel

/-- A walk of four levels (example of R366): the physical address, and the leaf as it is left. -/
theorem test_walk :
    let entry (a v : Nat) (m : List Host.Cell) := mput a (leBytes 8 v) m
    let w : Walk := ⟨0x00000080406032A8, true, false, false, false, 4, none⟩
    let th : Thread := { thr with status := 0, asid := 7, ptbase := 0x100000, life := .parked .walk, walk := some w }
    let s : State := { State.reset with
      bring := 8, speed := List.replicate 768 0x80000A8C, cores := [(40, { threads := [(0, th)] })],
      mem := entry 0x100000 0x120001 (entry 0x121008 0x130001 (entry 0x130018 0x140001 (entry 0x140018 0x56789017 []))) }
    did (.pageWalk 40 0 ⟨0, 0⟩) s (fun t => ((t.coreAt 40).tlb.map (fun e => e.pa 0x80406032A8), (t.peekWord 7 0x140018).1)) =
      some ([0x567892A8], 0x0A00000056789317) := by decide +kernel


/-! ### States that meet the hypotheses of the statements -/

/-- The outcome is a next state. -/
def goesOn (o : Host.Outcome State Fault Refusal) : Bool :=
  match o with
  | .next _ => true
  | _ => false

/-- A thread with a mask of eight lanes and a handler. -/
def w0 : State := one { thr with m := [(1, 0xFF)], g := [(4, 6), (5, 7)] }

theorem witness_StepKeepsMemoriesCanonical :
    mwf State.reset.mem = true ∧ (∀ c ∈ State.reset.cores, mwf c.2.spm = true) ∧ goesOn (Machine.step State.reset) = true := by
  decide +kernel

theorem witness_NothingStops : Instr.wf .texit = true ∧ Instr.wf (.fenceCore 767 5 0 []) = true := by decide

theorem witness_DecodeOfEncode :
    Instr.wf (.addi (-4) false 3 3) = true ∧ encode (.addi (-4) false 3 3) = some (4, 0xFFC06185) ∧
    Instr.wf (.cAddi (-4) 3) = true ∧ encode (.cAddi (-4) 3) = some (2, 0xF06C) := by decide

/-- A core whose thread's next instruction lies in its fetch buffer. -/
theorem witness_StepPerformsDecoded :
    let b : FetchBuf := ⟨0x1000, 0x0050818D, 0⟩
    let s := one { thr with fb := some b }
    let s0 := s.serve 0
    let th := (s0.passOver 0 (s0.chosen 0)).thread 0 0
    s.agenda = [] ∧ s.focus = 0 ∧ s.liveCore 0 = true ∧ (s.coreAt 0).flight = none ∧ (s.coreAt 0).spcfg = none ∧ s.alarm = none ∧
    (s0.chosen 0).1 = some 0 ∧
    th.life = .runnable ∧ th.held = false ∧ th.wait = none ∧ th.owed = none ∧ th.deferred = [] ∧ th.reissue = none ∧
    th.asideDue = none ∧ th.stepped = none ∧ th.fetched = none ∧ th.half = none ∧ th.breakpoint = none ∧
    (s0.passOver 0 (s0.chosen 0)).streamLeft 0 0 = false ∧ th.fb = some b ∧ b.base = word (th.pc.toNat / 64 * 64) ∧
    th.pc.toNat % 64 + 4 ≤ 64 ∧ bitOf b.bad (th.pc.toNat % 64 / 8) = false ∧
    bitOf b.bad ((th.pc.toNat % 64 + 4 - 2) / 8) = false ∧ lineNum b.data (th.pc.toNat % 64) 4 = 0x0050818D ∧
    encode (.shli 5 false 4 3) = some (4, 0x0050818D) := by
  decide +kernel

theorem witness_StepPerformsDecoded_word : decodeWord 0x0050818D = .ok (.shli 5 false 4 3) := rfl

/-- Words that name nothing or too much, a word in U mode, empty sources with and without a test bit, and destinations that wait. -/
theorem witness_IssueOrder :
    let i : Instr := .add true false 5 4 3
    let s := one { thr with status := 0, gst := [(5, .empty)] }
    let p := one { thr with gst := [(3, .pending 7 .load 0)] }
    (encoded (.addi 1 false 40 3) = true ∧ legal (.addi 1 false 40 3) (one thr) = false) ∧
    (encoded .eret = true ∧ legal .eret s = true ∧ privileged .eret = true ∧ bitOf s.th.status 0 = false) ∧
    (encoded i = true ∧ legal i s = true ∧ allowed i s = true ∧ srcsOf i = [gsrc 4 false] ++ gsrc 5 true :: [] ∧
      s.regSt .g 4 = .full ∧ s.regSt .g 5 ≠ .full) ∧
    (srcsOf (.addi 1 false 5 3) = [] ++ gsrc 5 false :: [] ∧ legal (.addi 1 false 5 3) s = true) ∧
    (encoded (.ptog 1 3) = true ∧ legal (.ptog 1 3) p = true ∧ allowed (.ptog 1 3) p = true ∧ sourcesFull (.ptog 1 3) p = true ∧
      dstsOf (.ptog 1 3) = [(.g, 3)] ∧ (p.regSt .g 3).isPending = true) ∧
    (let q := one { thr with vst := [(3, .empty)] }
     let j : Instr := .vmac 0 1 2 3 .i8
     encoded j = true ∧ legal j q = true ∧ allowed j q = true ∧ sourcesFull j q = true ∧ dstsOf j = [(.v, 3)] ∧
       readDstOf j = [(.v, 3)] ∧ (q.regSt .v 3).isPending = false ∧ q.regSt .v 3 ≠ .full) := by decide +kernel

theorem witness_HardWiredRegisters :
    Instr.cmp false false 1 2 .eq 0 ∈ [Instr.cmp false false 1 2 .eq 0, .pand 1 2 0] ∧
      did (.pand 1 2 0) w0 (fun t => t.th.trapcause) = some 1 := by decide +kernel

theorem witness_TrapEntersHandler :
    (0 < 256 ∧ 255 < 256) ∧ w0.th.armed 0x0D = false ∧ bitOf w0.th.status 2 = false ∧ fld w0.th.trapvec 1 56 ≠ 0 ∧
      w0.streams w0.cur.1 w0.cur.2 = false ∧ w0.th.armed 0 = false ∧ w0.th.armed 255 = false := by decide +kernel

/-- A thread in its handler and one without a handler, both of a bound launch; and one that stops at breakpoints. -/
theorem witness_TrapStopsOrHolds :
    (∀ t ∈ [{ thr with status := 5, launch := some 4 }, { thr with trapvec := 0, launch := some 4 }],
      ∀ n ∈ [0, 1], let s := { one t with binds := [(0, ({ valid := true, state := n, launch := 4 } : BindRec))] }
      s.th.armed 0x0D = false ∧ (bitOf s.th.status 2 = true ∨ fld s.th.trapvec 1 56 = 0) ∧ s.streams s.cur.1 s.cur.2 = false ∧
        s.th.launch = some 4 ∧ (s.bind s.cur.1 s.cur.2).valid = true ∧ (s.bind s.cur.1 s.cur.2).launch = 4) ∧
    (∀ k ∈ [0, 1, 2], bitOf (one { thr with arm := 7 }).th.arm k = true) := by decide +kernel

/-- Every scalar instruction may issue. -/
theorem witness_scalar :
    ∀ i ∈ ([.add false false 5 4 3, .sub false false 5 4 3, .and false false 5 4 3, .or false false 5 4 3, .xor false false 5 4 3,
      .andn false false 5 4 3, .shl false false 5 4 3, .shr false false 5 4 3, .sha false false 5 4 3, .rot false false 5 4 3,
      .min false false 5 4 3, .max false false 5 4 3, .minn false false 5 4 3, .maxn false false 5 4 3, .mul false false 5 4 3,
      .mulh false false 5 4 3, .mulhn false false 5 4 3, .div false false 5 4 3, .divn false false 5 4 3, .rem false false 5 4 3,
      .remn false false 5 4 3, .clz false 4 3, .popc false 4 3, .sext false false 5 4 3, .addw false false 5 4 3,
      .subw false false 5 4 3] : List Instr), canIssue i w0 = true ∧ scalarForm i = true := by decide +kernel

theorem witness_ImmediateAndCompactResults :
    ∀ i ∈ ([.addi 1 false 4 3, .andi 1 false 4 3, .ori 1 false 4 3, .xori 1 false 4 3, .shli 63 false 4 3, .shri 0 false 4 3,
      .shai 1 false 4 3, .roti 1 false 4 3, .lui 1 3, .addpc 1 3, .madr 1 1 false 4 3, .cMov 4 3, .cAdd 4 3, .cSub 4 3,
      .cAnd 4 3, .cOr 4 3, .cXor 4 3, .cAddi 1 31, .cLi 1 0, .cShli 1 3, .cShri 1 3, .cMiscNop] : List Instr),
      canIssue i w0 = true ∧ scalarForm i = true := by decide +kernel

theorem witness_CompareSelectResults :
    ∀ i ∈ ([.cmp false false 5 4 .lt 7, .cmpW false false 5 4 .lt 1, .cmpi 1 false 4 .tst 1, .sel true 1 false false 5 4 3, .pand 1 2 3,
      .por 1 2 3, .pxor 1 2 3, .pandn 1 2 3, .pfromg false 4 1, .ptog 1 3, .xset false 4 7, .xget 7 3] : List Instr),
      canIssue i w0 = true ∧ scalarForm i = true := by decide +kernel

/-- Branches taken and not taken, and jumps to even and odd addresses. -/
theorem witness_BranchResults :
    let s := one { thr with p := 2, g := [(1, 0x2000), (4, 0x3001)] }
    let odd := one { thr with g := [(1, 0x2001), (4, 0x3000)] }
    (∀ i ∈ ([.br 1, .cBr 1, .jal 1, .brp 1 false 1, .cBrp 1 1, .jalr 0 false 4 3, .jalr 1 false 4 3, .cRet] : List Instr),
      canIssue i s = true ∧ canIssue i odd = true) ∧ s.stream = none ∧
    s.th.pv 1 = true ∧ s.th.pv 2 = false ∧ bitOf (s.rg 1) 0 = false ∧ bitOf (odd.rg 1) 0 = true ∧
    bitOf (s.rg 4 + (0 : BitVec 12).signExtend 64) 0 = true ∧ bitOf (s.rg 4 + (1 : BitVec 12).signExtend 64) 0 = false := by
  decide +kernel

/-- Every vector instruction may issue. -/
theorem witness_vector :
    ∀ i ∈ ([.vaddFp 0 1 2 3 .f32, .vsubFp 0 1 2 3 .bf16, .vmulFp 1 1 2 3 .f16, .vfmaFp 1 1 2 3 .f32, .vfnmaFp 1 1 2 3 .f32,
      .vminFp 1 1 2 3 .f32, .vmaxFp 1 1 2 3 .f32, .vun 1 .rcp 2 3 .f32, .vcmpFp 1 1 2 .un 1 .f32, .vcmpInt 1 1 2 .tst 7 .i32,
      .vselFp 1 1 2 3 .f32, .vselInt 1 1 2 3 .i8, .vbc .d false 4 3, .vget .b false 4 2 3, .vset .h false false 5 4 3,
      .vperm .w 1 2 3, .vcopy 2 3, .vred 1 2 3 .f32, .vcvt 1 .rd .e4m3 2 3 .f32, .vaddInt 0 1 2 3 .i8, .vsubInt 1 1 2 3 .i16,
      .vmulInt 1 1 2 3 .i32, .vmac 1 1 2 3 .i8, .vminInt 1 1 2 3 .i8, .vmaxInt 1 1 2 3 .i8, .vminn 1 1 2 3 .i8, .vmaxn 1 1 2 3 .i8,
      .vand 1 1 2 3 .i8, .vor 1 1 2 3 .i8, .vxor 1 1 2 3 .i8, .vshl 1 1 2 3 .i8, .vshr 1 1 2 3 .i8, .vsha 1 1 2 3 .i8] : List Instr),
      canIssue i w0 = true ∧ vectorForm i = true := by decide +kernel

/-- Registers that are full and empty, an interrupt pending and none, the four waits parked, and a slot that has yielded to one that
is runnable and to one that is not, also after 2N cycles, and where the other has just issued. -/
theorem witness_WaitingInstructions :
    let s := one { thr with gst := [(4, .empty)], intpend := 1, intmask := 1 } { kst := [(2, .empty)] }
    let parked (w : Park) : State := one { thr with life := .parked w }
    let y : State := { one thr with cores := [(0, { cycle := 5, threads := [(0, { thr with yielded := some (3, [1, 2]) }), (1, thr)] })] }
    let late : State := y.modCore 0 fun k => { k with cycle := 3 + 32 }
    let just : State := y.modCore 0 fun k => { k with issued := [(1, 2)] }
    let takes (s : State) (j : Nat) : Bool := s.eligible 0 j && !s.yields 0 j (List.range j)
    ((y.thread 0 0).yielded = some (3, [1, 2]) ∧ y.inTurn 0 1 = true ∧ y.inTurn 0 2 = false ∧
      (y.thread 0 1).yielded = none ∧ (y.coreAt 0).ptr = 0 ∧ ¬ ((late.coreAt 0).cycle - word 3).toNat < 2 * Part.slots (late.coreAt 0).part) ∧
    (takes y 0 = false ∧ takes y 1 = true ∧ takes late 0 = true ∧ (List.range 16).all (fun j => !takes just j) = true) ∧
    (∀ i ∈ ([.yield, .cMiscYield, .waitg 4, .waitg 5, .waitv 1, .waitk 2, .waitk 3, .wfi] : List Instr), canIssue i s = true) ∧
    s.th.gs 5 = .full ∧ s.th.gs 4 ≠ .full ∧ s.co.ks 2 ≠ .full ∧ s.co.ks 3 = .full ∧ s.th.intpend &&& s.th.intmask ≠ 0 ∧
    canIssue .wfi (one thr) = true ∧ (one thr).th.intpend &&& (one thr).th.intmask = 0 ∧
    (∀ w ∈ [Park.awaitReg .g 4, .awaitReg .v 4, .awaitReg .k 4, .wfi], ((parked w).thread 0 0).held = false ∧
      ((parked w).thread 0 0).deferred = [] ∧ ((parked w).thread 0 0).life = .parked w) := by decide +kernel

theorem witness_SharedRegisters :
    canIssue (.kput false 4 7) w0 = true ∧ canIssue (.kget false 7 4) w0 = true ∧
    ∀ n ∈ [0, 1, 2], ((one thr { kw := [⟨7, 0, 6, n⟩] }).coreAt 0).kw = [⟨7, 0, 6, n⟩] := by decide +kernel

/-- A thread that may exit, one that must wait, and a core with and without a free slot. -/
theorem witness_ThreadsEndAndStart :
    let o : Out := ⟨9, 1, false, 0, 0x19, .none, noLine, .home, 0⟩
    let bound (t : Thread) (n : Nat := 1) : State :=
      { one { t with launch := some 4 } with binds := [(0, ({ valid := true, state := n, launch := 4 } : BindRec))] }
    let full : State := { w0 with cores := [(0, { part := .p4, threads := (List.range 4).map fun u => (u, thr) })] }
    (∀ i ∈ [Instr.texit, .cMiscTexit], ∀ s ∈ [bound thr, bound thr 0, bound { thr with outs := [o] }],
      canIssue i s = true ∧ s.th.launch = some 4 ∧ (s.bind s.cur.1 s.cur.2).valid = true ∧ (s.bind s.cur.1 s.cur.2).launch = 4) ∧
    relReady .pod (bound thr).th.outs = true ∧ relReady .pod (bound { thr with outs := [o] }).th.outs = false ∧
    canIssue (.tspawn false false 5 4 3) w0 = true ∧ w0.th.live = true ∧ bitOf (w0.rg 4) 0 = false ∧ bitOf (w0.rg 5) 0 = true ∧
    canIssue (.tspawn false false 4 5 3) w0 = true ∧ w0.co.bath = false ∧
    (1 < Part.slots w0.co.part ∧ (w0.thread 0 1).live = false ∧ ∀ u < 1, (w0.thread 0 u).live = true) ∧
    (let f : State := { w0 with cur := (0, 1), cores := [(0, { flight := some 5, threads := [(1, { thr with g := [(4, 6), (5, 7)] })] })] }
     canIssue (.tspawn false false 5 4 3) f = true ∧ f.th.live = true ∧ (f.thread 0 0).live = false ∧ f.co.flight ≠ none ∧
       2 < Part.slots f.co.part ∧ (f.thread 0 2).live = false ∧ ∀ u < 2, (f.thread 0 u).live = true ∨ u = 0) ∧
    canIssue (.tspawn false false 5 4 3) full = true ∧ full.th.live = true ∧
    (∀ u < Part.slots full.co.part, (full.thread 0 u).live = true) ∧
    ({ full.co with repart := some (1, .p8) } : Core).bath = true := by decide +kernel

theorem witness_TnextRepart :
    (canIssue (.tnext 3) w0 = true ∧ w0.th.launch = none) ∧
    (canIssue (.tnext 3) (one { thr with launch := some 63 }) = true ∧ (one { thr with launch := some 63 }).th.launch = some 63) ∧
    (canIssue (.repart .p4) w0 = true ∧ w0.co.bath = false) ∧
    (let s := one thr { repart := some (1, .p8) }
     canIssue (.repart .p4) s = true ∧ s.co.bath = true) := by decide +kernel

/-- A leader, a core that may join, a core in a flight, and threads outside slot 0. -/
theorem witness_StreamInstructions :
    let lead := one { thr with g := [(4, word (16 + 12 * 2 ^ 8 + 40 * 2 ^ 16))] }
    let small := one { thr with g := [(4, 1)] }
    let f : Flight := { w := 2, h := 1 }
    let joins : State := { one thr { joins := [1] } with flights := [(1, f)] }
    let inside : State := { one thr { flight := some 0, spos := 0xC000000000000000 } with flights := [(0, f)], stream := some 0x1004 }
    let other : State := { one thr with cur := (0, 1), cores := [(0, { threads := [(1, thr)] })] }
    (canIssue (.strmLead false 4) lead = true ∧ lead.cur.2 = 0 ∧ lead.rg 4 = word (16 + 12 * 2 ^ 8 + 40 * 2 ^ 16) ∧
      2 ≤ 16 ∧ 1 ≤ 12 ∧ 40 ≤ 40 ∧ 0 % 16 + 16 ≤ 16 ∧ 0 / 32 % 12 + 12 ≤ 12 ∧ tget? lead.flights 0 = none) ∧
    (canIssue (.strmLead false 4) small = true ∧ small.cur.2 = 0 ∧ fld (small.rg 4) 0 5 < 2) ∧
    (canIssue (.strmLead false 4) other = true ∧ canIssue .strmJoin other = true ∧ other.cur.2 ≠ 0) ∧
    (canIssue .strmJoin lead = true ∧ lead.co.joins = []) ∧
    (canIssue .strmJoin joins = true ∧ joins.cur.2 = 0 ∧ joins.co.joins = 1 :: [] ∧ tget? joins.flights 1 = some f ∧
      joins.liveCore 0 = true ∧ joins.co.flight = none ∧ joins.th.asid = (joins.thread 1 0).asid) ∧
    (let j : State := { joins with cores := [(0, { joins := [1], threads := [(0, thr)] }), (1, { threads := [(0, { thr with asid := 5 })] })] }
     canIssue .strmJoin j = true ∧ j.cur.2 = 0 ∧ j.co.joins = [1] ∧ j.th.live = true ∧ j.th.asid ≠ (j.thread 1 0).asid) ∧
    (canIssue .strmEnd lead = true ∧ lead.stream = none) ∧
    (canIssue .strmEnd inside = true ∧ inside.stream ≠ none ∧ inside.co.flight = some 0 ∧ tget? inside.flights 0 = some f) ∧
    (canIssue (.strmPos 3) lead = true ∧ bitOf lead.co.spos 63 = false) ∧
    (canIssue (.strmPos 3) inside = true ∧ bitOf inside.co.spos 63 = true) := by decide +kernel

/-- Every register that R350 lets SRD read may be read. -/
theorem witness_SystemReads :
    (∀ n ∈ [0x000, 0x001, 0x002, 0x003, 0x004, 0x005, 0x006, 0x007, 0x008, 0x009, 0x00A, 0x010, 0x011, 0x012, 0x013, 0x014, 0x015,
      0x016, 0x017, 0x018, 0x020, 0x021, 0x022, 0x023, 0x030, 0x031, 0x041, 0x042, 0x043, 0x050, 0x060, 0x063, 0x064, 0x067],
      canIssue (.srd (Fin.ofNat 64 (n / 64)) (Fin.ofNat 64 (n % 64)) 3) w0 = true) ∧
    canIssue (.speedrd false 4 3) w0 = true := by decide +kernel

/-- Every writable register takes a value, and one refuses a reserved bit. -/
theorem witness_SystemWrites :
    (∀ n ∈ [0x004, 0x005, 0x006, 0x007, 0x010, 0x011, 0x012, 0x013, 0x014, 0x015, 0x017, 0x018, 0x060, 0x063, 0x064, 0x067],
      canIssue (.swr (Fin.ofNat 64 (n / 64)) (Fin.ofNat 64 (n % 64)) 3) w0 = true ∧ sysLegal n (w0.rg 3) = true) ∧
    (∀ x ∈ [(0x016, Instr.swrIntpend 3), (0x030, .swrPshq 3), (0x031, .swrPshcnt 3), (0x050, .swrMerrlog 3)],
      canIssue x.2 w0 = true ∧ sysLegal x.1 (w0.rg 3) = true) ∧
    ((0x300 : Word) &&& ~~~(0x3FF : Word) = 0 ∧ (0x315 : Word) &&& ~~~(0x3FF : Word) = 0 ∧ fld (0x315 : Word) 0 8 = 0x15 ∧
      fld (0x301 : Word) 0 8 = 1 ∧ (0x400 : Word) &&& ~~~(0x3FF : Word) ≠ 0) ∧
    (let s := one { thr with g := [(3, 0xFFFFFFFFFFFFFFFF)] }
     canIssue (.swr 0 0x18 3) s = true ∧ sysLegal 0x018 (s.rg 3) = false ∧ canIssue (.swrIntpend 3) s = true ∧
     sysLegal 0x016 (s.rg 3) = false ∧ ∀ x ∈ [(0x030, Instr.swrPshq 3), (0x031, .swrPshcnt 3), (0x050, .swrMerrlog 3)],
       canIssue x.2 s = true ∧ sysLegal x.1 (s.rg 3) = false) := by decide +kernel

/-- A thread whose g4 names byte `off` of its own scratchpad, as g12 does, with 64 in g5 and eight offsets in v1. -/
def own (off : Nat) : State :=
  let a := word (0xC000000000000000 + off)
  one { thr with g := [(4, a), (5, 64), (12, a)], v := [(1, 0x38 <<< 448)] } { spm := [(64, 7)], spmBad := [200] }

/-- The last bytes of the scratchpad, and the places of gathers and scatters. -/
theorem witness_LoadResults :
    let s := own (786432 - 8)
    let l := own (786432 - 64)
    (ownAccess s (s.rg 4 + (0 : BitVec 6).signExtend 64 * word 8) 8 8 { r := true } (.load 8) false ⟨.acq, none, 3⟩ (786432 - 8) ∧
      ownClean s (786432 - 8) 8) ∧
    (∀ i ∈ ([.ld 0 .d .acq 3 false 4 3, .ldn 0 .d .acq 3 false 4 3, .cLd 0 4 3] : List Instr), canIssue i s = true) ∧
    ownAccess s (s.rg (gBase 4) + word (8 * 0)) 8 8 { r := true } (.load 8) false {} (786432 - 8) ∧
    (ownAccess l (l.rg 4 + (0 : BitVec 6).signExtend 64 * 64) 64 64 { r := true } (.load 64) false ⟨.plain, none, 0⟩ (786432 - 64) ∧
      canIssue (.vld 0 .plain 0 false 4 1) l = true) ∧
    (ownAccess l (l.rg 4) 64 64 { r := true } (.load 64) false {} (786432 - 64) ∧ ownClean l (786432 - 64) 64 ∧
      canIssue (.xld false 4) l = true) := by
  unfold ownAccess ownClean
  decide +kernel

theorem eq_ok {ε α : Type} {x : Except ε α} {a : α} (h : x.toOption = some a) : x = .ok a := by
  cases x <;> simp_all [Except.toOption]

/-- The elements of `own 64`, in steps of 64 bytes and where v1 has them. -/
theorem elements_own (n : Need) (a : Access) (h : a = .load 8 ∧ n = { r := true } ∨ a = .store 8 0 ∧ n = { w := true }) :
    ownElements (own 64) ((List.range 8).map fun j => (own 64).rg 4 + word j * (own 64).rg 5) ((List.range 8).map fun j => 64 + 64 * j)
      n a 0 ∧
    ownElements (own 64) ((List.range 8).map fun j => (own 64).rg 4 + lineWord ((own 64).rv 1) j) [64, 64, 64, 64, 64, 64, 64, 120]
      n a 0 := by
  obtain ⟨rfl, rfl⟩ | ⟨rfl, rfl⟩ := h <;>
    exact ⟨⟨rfl, eq_ok (by decide +kernel), by decide +kernel⟩, rfl, eq_ok (by decide +kernel), by decide +kernel⟩

theorem witness_LoadResults_gathers :
    ownElements (own 64) ((List.range 8).map fun j => (own 64).rg 4 + word j * (own 64).rg 5) ((List.range 8).map fun j => 64 + 64 * j)
      { r := true } (.load 8) 0 ∧ (∀ f ∈ [64, 120, 512], ∀ w ∈ (own 64).co.spmBad, ¬ (8 * w < f + 8 ∧ f < 8 * w + 8)) ∧
    canIssue (.vlds 0 false false 5 4 1) (own 64) = true ∧ canIssue (.vgath 0 false 1 4 2) (own 64) = true :=
  ⟨(elements_own _ _ (.inl ⟨rfl, rfl⟩)).1, by decide +kernel⟩

theorem witness_StoreResults :
    let s := own (786432 - 8)
    let l := own (786432 - 64)
    mwf s.co.spm = true ∧ mwf l.co.spm = true ∧
    ownAccess s (s.rg 4 + (0 : BitVec 6).signExtend 64 * word 8) 8 8 { w := true } (.store 8 0) false ⟨.rel, none, 0⟩ (786432 - 8) ∧
    ownAccess s (s.rg (gBase 4) + word (8 * 0)) 8 8 { w := true } (.store 8 0) false {} (786432 - 8) ∧
    ownAccess l (l.rg 4 + (0 : BitVec 6).signExtend 64 * 64) 64 64 { w := true } (.store 64 0) false ⟨.plain, none, 0⟩ (786432 - 64) ∧
    ownAccess l (l.rg 4) 64 64 { w := true } (.store 64 0) true {} (786432 - 64) ∧
    canIssue (.st 0 .d .rel 0 false 4 5) s = true ∧ canIssue (.cSt 0 4 5) s = true ∧ canIssue (.vst 0 .plain 0 false 4 1) l = true ∧
    canIssue (.czero false 4) l = true := by
  unfold ownAccess
  decide +kernel

theorem witness_ScatterResults :
    mwf (own 64).co.spm = true ∧ canIssue (.vsts 0 false false 5 4 1) (own 64) = true ∧
    canIssue (.vscat 0 false 1 4 2) (own 64) = true ∧
    ownElements (own 64) ((List.range 8).map fun j => (own 64).rg 4 + lineWord ((own 64).rv 1) j) [64, 64, 64, 64, 64, 64, 64, 120]
      { w := true } (.store 8 0) 0 :=
  ⟨by decide +kernel, by decide +kernel, by decide +kernel, (elements_own _ _ (.inr ⟨rfl, rfl⟩)).2⟩

theorem witness_AtomicResults :
    let s := own 64
    let x : List (AtomOp × Instr) := [(.add, .aadd .acqRel .pod false 5 4 3), (.and, .aand .acqRel .pod false 5 4 3),
      (.or, .aor .acqRel .pod false 5 4 3), (.xor, .axor .acqRel .pod false 5 4 3), (.min, .amin .acqRel .pod false 5 4 3),
      (.max, .amax .acqRel .pod false 5 4 3), (.swap, .aswap .acqRel .pod false 5 4 3), (.cas, .acas .acqRel .pod false 5 4 3)]
    mwf s.co.spm = true ∧ ownClean s 64 8 ∧ ∀ i ∈ x, canIssue i.2 s = true ∧
      ownAccess s (s.rg 4) 8 8 { r := true, w := true } (.atomic i.1 (s.rg 5) (s.th.xv 0)) true ⟨.acqRel, some .pod, 0⟩ 64 := by
  unfold ownAccess ownClean
  decide +kernel

/-- A TLB entry of a page of the own device at 0x40000000, with rights and home given. -/
def page (r w u priv nc : Bool) : TlbEnt := ⟨0, 12, 0x40000, 0x40000000, r, w, false, u, false, nc, priv, true, 0⟩

/-- A thread that addresses that page, in U or S mode. -/
def paged (smode : Bool) (e : TlbEnt) (k : Core := {}) : State :=
  one { thr with status := if smode then 1 else 0, g := [(4, 0x40000000), (5, 0x80000000), (6, 1), (7, 9), (8, 0x80000000000000)] }
    { k with tlb := [e] }

/-- Every check of an access fails somewhere. -/
theorem witness_AccessChecks :
    let s := paged false (page true false true true false)
    let m := one { thr with meshwin := 0, g := [(4, 0xC000010000000000)] }
    let bad := one { thr with g := [(4, 0xC000000000000040)] } { spmBad := [8] }
    (∀ i ∈ ([.ld 0 .d .plain 0 false 6 3, .ldn 0 .d .plain 0 false 6 3, .st 0 .d .plain 0 false 6 3, .aadd .plain .core false 5 6 3,
      .acas .plain .core false 5 6 3, .xld false 7, .czero false 7, .pst false .plain .core false 5 7 1] : List Instr),
      canIssue i s = true) ∧ (s.rg 6).toNat % 8 ≠ 0 ∧ (s.rg 7).toNat % 64 ≠ 0 ∧
    (isMesh (m.rg 4) = true ∧ m.meshCheck 0 m.th.meshwin (m.rg 4) 8 = none ∧ (m.rg 4).toNat % 8 = 0 ∧
      canIssue (.ld 0 .d .plain 0 false 4 3) m = true) ∧
    (isMesh (s.rg 8) = false ∧ fld (s.rg 8) 57 6 = 0 ∧ fld (0x0200000000000000 : Word) 57 6 ≠ 0 ∧
      isMesh 0x0200000000000000 = false) ∧
    ((s.co.tlb.find? fun p => p.maps s.th.asid.toNat (s.rg 4).toNat) = some (page true false true true false) ∧
      (s.co.tlb.find? fun p => p.maps s.th.asid.toNat (s.rg 5).toNat) = none) ∧
    ((page true false true true false).w = false ∧ (page false true true true false).r = false ∧
      (page true true false true false).u = false ∧ (paged false (page true true false true false)).th.smode = false) ∧
    ((bad.check bad.actx (bad.rg 4) 8 8 { r := true } = .ok (.own 64)) ∧
      (bad.co.spmBad.find? fun q => decide (8 * q < 64 + 8 ∧ 64 < 8 * q + 8)) = some 8 ∧
      bad.gate [.own 64] (.load 8) false ⟨.plain, none, 0⟩ = none ∧ bad.podGone.contains bad.devnum = false) := by
  decide +kernel

/-- The first and the last double word of the exit page, and the pages of the other witnesses. -/
theorem witness_AccessChecks_exit :
    (∀ n ∈ [0x01FFFFFFFFFFF000, 0x01FFFFFFFFFFFFF8], isMesh (word n) = false ∧ fld (word n) 57 6 = 0 ∧ (word n).toNat % 8 = 0 ∧
      (word n).toNat / 4096 = 0x01FFFFFFFFFFF000 / 4096) ∧ onExitPage 0x40000000 = false ∧ onExitPage 0x80000000 = false := by decide +kernel

/-- A hit on a line in each state, a miss, and a load and a store of another core's scratchpad. -/
theorem witness_CachedAndMeshAccesses :
    let line (st : L1St) : L1Line := ⟨st, true, ⟨0, true, 0⟩, ⟨5, 0⟩, [], [], none, false, none⟩
    let e := page true true true true false
    let at_ (st : L1St) : State := paged true e { l1 := [(0x1000000, line st)] }
    let p := Place.glob e 0x40000000
    let m := one { thr with g := [(4, 0xC000010000000040)] }
    (∀ st ∈ [L1St.mod, .own, .exc, .shr], let s := at_ st
      s.check s.actx (s.rg 4) 8 8 { r := true } = .ok p ∧ s.th.watchHit 0 59 (s.rg 4) 8 = none ∧
      s.gate [p] (.load 8) false ⟨.plain, none, 0⟩ = none ∧ tget? s.co.l1 (paOff 0x40000000 / 64) = some (line st) ∧
      (line st).via = e.via s.th.asid.toNat ∧ (line st).waits = [] ∧
      ((touched (paOff 0x40000000 % 64) 8).all fun q => !bitOf (line st).lv.bad q) = true ∧
      canIssue (.ld 0 .d .plain 0 false 4 3) s = true) ∧
    (∀ s ∈ [at_ .mod, at_ .exc, at_ .shr, paged true e], s.check s.actx (s.rg 4) 8 8 { w := true } = .ok p ∧ s.th.watchHit 0 60 (s.rg 4) 8 = none ∧
      s.gate [p] (.store 8 0) false ⟨.plain, none, 0⟩ = none ∧ canIssue (.st 0 .d .plain 0 false 4 5) s = true) ∧
    (let s := paged true e
     s.check s.actx (s.rg 4) 8 8 { r := true } = .ok p ∧ s.gate [p] (.load 8) false ⟨.plain, none, 0⟩ = none ∧
       tget? s.co.l1 (paOff 0x40000000 / 64) = none ∧ paDev 0x40000000 = s.devnum ∧ e.sync = false ∧ e.nc = false) ∧
    (m.check m.actx (m.rg 4) 8 8 { r := true } = .ok (.mesh 1 64) ∧ m.gate [.mesh 1 64] (.load 8) false ⟨.plain, none, 0⟩ = none ∧
      canIssue (.ld 0 .d .plain 0 false 4 3) m = true ∧ m.check m.actx (m.rg 4) 8 8 { w := true } = .ok (.mesh 1 64) ∧
      m.gate [.mesh 1 64] (.store 8 0) false ⟨.plain, none, 0⟩ = none ∧ canIssue (.st 0 .d .plain 0 false 4 5) m = true) := by
  decide +kernel

/-- A neighbour, none beyond the edge, a core named by an address, and the arm form. -/
theorem witness_RputForms :
    let s := one { thr with g := [(4, 0xC000010000000000 + 15)] }
    s.stream = none ∧ s.th.acqReady = true ∧ valuesReady s.th.outs = true ∧ s.th.wcnt 1 < 4095 ∧
    neighbour 0 .e = some 1 ∧ s.present 1 = true ∧ inWindow s.th.meshwin 0 0 (1 % 32) (1 / 32) = true ∧ neighbour 0 .w = none ∧
    isMesh (s.rg 4) = true ∧ meshTarget 0 0 (s.rg 4) = some (0, 1 % 32, 1 / 32, 15) ∧ 15 < 16 ∧ s.routeOk 0 1 = true ∧
    s.podGone.contains s.devnum = false ∧
    (∀ c ∈ [true, false], canIssue (.rput c .e false 5 7) s = true ∧ canIssue (.rput c .w false 5 7) s = true ∧
      canIssue (.rputM c false false 5 4 7) s = true ∧ canIssue (.rputArm c 7) s = true) := by decide +kernel

/-- Fences that may go on and one that waits, counts, line instructions at each kind of line, and a push. -/
theorem witness_OrderingAndLines :
    let o : Out := ⟨9, 1, false, 0, 0x19, .none, noLine, .home, 0⟩
    let line (st : L1St) : L1Line := ⟨st, true, ⟨0, false, 0⟩, ⟨5, 0⟩, [], [], none, false, none⟩
    let e := page true true true false false
    let p := Place.glob e 0x40000000
    let s := paged true e
    let w := one { thr with outs := [o] }
    (canIssue (.fence .dev .rel) s = true ∧ relReady .dev s.th.outs = true ∧ canIssue (.fence .dev .both) w = true ∧
      relReady .dev w.th.outs = false) ∧
    (canIssue (.waitc 1) s = true ∧ canIssue (.waitc 7) w = true ∧ s.th.wcnt 1 = 0 ∧ w.th.wcnt 1 ≠ 0 ∧
      Nat.testBit 7 0 = true) ∧
    (let x := own 64
     x.placeOf x.actx (x.rg 4) 1 { r := true } = .ok (.own 64) ∧ canIssue (.cflush false 4) x = true ∧
       canIssue (.cinv false 4) x = true) ∧
    (∀ a ∈ [s, { s with cores := s.cores ++ [(1, { l1 := [(0x1000000, line .shr)] })] }],
      a.placeOf a.actx (a.rg 4) 1 { r := true } = .ok p ∧ paDev 0x40000000 = a.devnum ∧ e.sync = false ∧ e.nc = false ∧ e.priv = false ∧
      a.th.watchHit 0 59 0x40000000 64 = none ∧ a.gate [p] (.load 1) true {} = none ∧ a.th.wcnt 2 < 4095 ∧
      canIssue (.cflush false 4) a = true) ∧
    ((∀ k ∈ s.cores, tget? k.2.l1 0x1000000 = none) ∧ s.net = [] ∧
      ({ s with cores := s.cores ++ [(1, { l1 := [(0x1000000, line .shr)] })] } : State).lineAway 0x1000000 = true) ∧
    (∀ st ∈ [L1St.shr, .mod, .own], tget? (paged true e { l1 := [(0x1000000, line st)] }).co.l1 0x1000000 = some (line st) ∧
      canIssue (.cinv false 4) (paged true e { l1 := [(0x1000000, line st)] }) = true) ∧
    (canIssue (.spcfg false 4) w0 = true ∧ (w0.rg 4).toNat = 6 ∧ (w0.rg 5).toNat = 7 ∧ canIssue (.spcfg false 5) w0 = true ∧
      w0.co.spcfg = none ∧ w0.co.flight = none) ∧
    ((s.rg 4).toNat % 64 = 0 ∧ isMesh (s.rg 4) = false ∧ s.placeOf s.actx (s.rg 4) 64 { w := true } = .ok p ∧
      s.th.watchHit 0 60 (s.rg 4) 64 = none ∧ s.gate [p] (.store 64 (s.rv 1)) true ⟨.rel, some .dev, 0⟩ = none ∧
      canIssue (.pst true .rel .dev false 5 4 1) s = true) := by decide +kernel

/-- A prefetch of a line, one of a page that is being reclassified, one whose walk has failed, and one that no window admits. -/
theorem witness_OrderingAndLines_pref :
    let e := page true true true false false
    let p := Place.glob e 0x40000000
    let s := paged true e
    (∀ wr ∈ [true, false], s.placeOf s.actx (s.rg 4) 1 { r := true } = .ok p ∧ s.pathConflict 0 p false = false ∧
      tget? s.co.l1 0x1000000 = none ∧ s.th.dropped ≠ some s.th.pc ∧ canIssue (.pref false 4 wr) s = true) ∧
    (let h := paged true { e with priv := true, pte := 0x400000 } { reclaims := [(1, 0x400000, 0)] }
     let q := Place.glob { e with priv := true, pte := 0x400000 } 0x40000000
     h.placeOf h.actx (h.rg 4) 1 { r := true } = .ok q ∧ h.reclaimHold h.cur.1 [q] = some 0x400000 ∧ h.th.dropped ≠ some h.th.pc ∧
       canIssue (.pref false 4 true) h = true) ∧
    (let d := one { thr with dropped := some 0x1000 }
     d.th.dropped = some d.th.pc ∧ canIssue (.pref false 4 true) d = true) ∧
    (let x := one { thr with meshwin := 0, g := [(4, 0xC000010000000000)] }
     x.placeOf x.actx (x.rg 4) 1 { r := true } = .trap 0x08 0xC000010000000000 0 ∧ x.th.dropped ≠ some x.th.pc ∧ canIssue (.pref false 4 true) x = true) := by
  decide +kernel

/-- A page of the SYNC pool at 0x10000. -/
def syncPage : TlbEnt := ⟨0, 12, 0x10, 0x7C00000000, true, true, false, true, true, false, false, true, 0⟩

/-- A thread that names the first two words of that page in g4 and g5. -/
def syncing : State := one { thr with g := [(4, 0x10000), (5, 0x10008), (6, 3), (7, 0x20008)] } { tlb := [syncPage] }

/-- The same with a queued matrix command that reads the first word. -/
def syncHeld : State :=
  one { thr with g := [(4, 0x10000), (5, 0x10008), (6, 3), (7, 0x20008)] } {
    tlb := [syncPage]
    mq := [⟨9, 0, ⟨0, true, 0, 0, 0x171F0000, none, false, false, false, .core, 0, 0, []⟩, .acczero 0, (0, 0),
      [0x7C00000000 / 64], [], false, []⟩] }

theorem witness_TypedRequests_ready (maj bit : Nat) (h : maj < 64 ∧ (bit = 59 ∨ bit = 60)) :
    typedReady syncing (syncing.rg 4) 0x7C00000000 maj bit [0x7C00000000 / 64] := by
  refine ⟨⟨rfl, by decide +kernel, ?_, by decide +kernel, by decide +kernel, by decide +kernel⟩, by decide +kernel⟩
  obtain ⟨-, rfl | rfl⟩ := h <;> decide +kernel

theorem witness_TypedRequests_held (maj bit : Nat) (h : maj < 64 ∧ (bit = 59 ∨ bit = 60)) :
    typedAllowed syncHeld (syncHeld.rg 4) 0x7C00000000 maj bit ∧ syncHeld.wordHold syncHeld.cur.1 [0x7C00000000 / 64] = some 9 := by
  refine ⟨⟨rfl, by decide +kernel, ?_, by decide +kernel, by decide +kernel, by decide +kernel⟩, by decide +kernel⟩
  obtain ⟨-, rfl | rfl⟩ := h <;> decide +kernel

/-- The operations touch the first line of the page, and CND.WAIT the line of its lock too. -/
theorem witness_TypedRequests_lines :
    (∀ s ∈ [syncing, syncHeld], ∀ k ∈ ([.ldsy, .stsy, .cntAdd, .cntFadd, .cntWait, .barArr, .barWait, .barArw, .lckAcq, .lckRel, .qPut, .qGet,
        .cndSigOne, .cndSigAll, .tinit .counter, .traw 15, .tclr] : List TypedKind),
      s.typedLines s.th.asid.toNat k 0x7C00000000 3 0 = [0x7C00000000 / 64]) ∧
    (∀ lp ∈ [0x7C00000008, 0], syncing.wordHold syncing.cur.1 (syncing.typedLines syncing.th.asid.toNat .cndWait 0x7C00000000 0 lp) = none) := by
  decide +kernel

theorem witness_TypedRequests :
    (∀ i ∈ ([.ldsy (.wait 40) false 4 3, .stsy .try false 6 4, .cntAdd false 6 4, .cntFadd false 6 4 3, .cntWait (.wait 1) false 6 4 3,
      .barArr false 4 3, .barWait (.wait 0) false 6 4 3, .barArw (.wait 0) false 4 3, .lckAcq (.wait 0) false 4, .lckRel false 4,
      .qPut (.wait 0) false 1 4, .qGet (.wait 0) false 4 1, .cndSig false 4 true, .cndSig false 4 false, .tinit false false 6 4 .counter,
      .traw false false 6 4 15, .tclr false 4, .cndWait (.wait 0) false 5 4] : List Instr),
      canIssue i syncing = true ∧ canIssue i syncHeld = true ∧ 32 ≤ majOf i) ∧
    (syncing.rg 5).toNat % 8 = 0 ∧ (syncing.rg 5).toNat / 4096 = (syncing.rg 4).toNat / 4096 ∧ 0x7C00000000 / 4096 * 4096 + 8 = 0x7C00000008 ∧
    (syncing.rg 7).toNat % 8 = 0 ∧ (syncing.rg 7).toNat / 4096 ≠ (syncing.rg 4).toNat / 4096 ∧
    canIssue (.cndWait (.wait 0) false 7 4) syncing = true ∧ (syncing.rg 6).toNat % 8 ≠ 0 ∧
    canIssue (.cndWait (.wait 0) false 6 4) syncing = true := by
  decide +kernel

/-- Groups of two cores, and cores in each state of an episode. -/
theorem witness_NetworkBarriers :
    let grp : Tab (BitVec 768) := [(3, 3)]
    let s : State := { one { thr with g := [(4, 3), (5, 256), (6, 4)] } with groups := grp }
    let k : NbCur := ⟨0, 9, 0, 0, [0, 1, 2], 100, none, 500⟩
    let at_ (nb : NbGroup) (round parity : Nat) : State :=
      { one thr { nb := [(3, nb)] } with net := [⟨.core 1, .core 0, .nbar 3 1 round parity⟩], time := 600 }
    (canIssue (.nbar (.wait 0) false 4 7) s = true ∧ canIssue (.nbar (.wait 0) false 5 7) s = true ∧ canIssue (.nbar .try false 4 7) s = true ∧
      s.members 3 = [0, 1] ∧ 0 ∈ s.members 3 ∧ 255 < (s.rg 5).toNat ∧ (s.rg 4).toNat ≤ 255 ∧ 0 ∉ s.members 4 ∧
      relReady .dev s.th.outs = true ∧ s.th.acqReady = true ∧ (s.nbAt 0 3).cur = none ∧ (s.nbAt 0 3).queue = [] ∧
      (s.nbAt 0 3).kept = [] ∧ 1 < (s.members 3).length) ∧
    (let o : Out := ⟨9, 1, false, 0, 0x19, .none, noLine, .home, 0⟩
     let q : State := { one { thr with g := [(4, 3)], outs := [o] } with groups := grp }
     let b : State := { one { thr with g := [(4, 3)] } { nb := [(3, { cur := some k })] } with groups := grp }
     (∀ a ∈ [q, b], canIssue (.nbar (.wait 0) false 4 7) a = true ∧ 0 ∈ a.members 3 ∧ ∀ o ∈ a.th.outs, o.id ≠ a.txn + 1) ∧
       (q.nbAt 0 3).queue = [] ∧ relReady .dev q.th.outs = false ∧ (b.nbAt 0 3).cur ≠ none) ∧
    (let a := at_ { cur := some k } 0 0
     a.nbAt 0 3 = { cur := some k } ∧ chanOk (.core 1) (.core 0) = true ∧ a.net = [] ++ ⟨.core 1, .core 0, .nbar 3 1 0 0⟩ :: [] ∧
       1 < k.members.length ∧ k.round < nbRounds k.members.length ∧ nbRounds 3 = 2 ∧ nbRounds 2 = 1) ∧
    (let a := at_ { cur := some k } 1 0
     a.net = [] ++ ⟨.core 1, .core 0, .nbar 3 1 1 0⟩ :: [] ∧ 1 ≠ k.round) ∧
    (let a := at_ { cur := some k, drop := [(1, 0)] } 0 1
     (a.nbAt 0 3).drop = [(1, 0)]) ∧
    (let o : Out := ⟨9, 0, true, 3, 0x31, .g 7 8 false, noLine, .l1, 0⟩
     let w : Wait := ⟨.nbar, 9, 1, 0, 4, 3, 0, .g 7 8 false, [], none⟩
     let a : State := { one { thr with outs := [o], wait := some w } { nb := [(3, { cur := some k })] } with time := 600 }
     (a.coreAt 0).nb = [(3, { cur := some k })] ∧ k.slot = 0 ∧ k.deadline ≠ 0 ∧ k.deadline ≤ a.time.toNat ∧
       ((a.thread 0 0).outs.find? fun o => o.id == k.id) = some o ∧ (a.thread 0 0).wait = some w ∧ w.id = k.id ∧ (a.thread 0 0).aside = [] ∧ a.streams 0 0 = false ∧
       (a.thread 0 0).held = false ∧ (a.thread 0 0).armed 0x0A = false ∧ bitOf (a.thread 0 0).status 2 = false ∧
       fld (a.thread 0 0).trapvec 1 56 ≠ 0 ∧ (a.engAnswer 0 9 (.trap 0x0A 3 0)).isNone = true ∧ a.launches = [] ∧
       (a.coreAt 0).fenced = false) := by decide +kernel

/-- A thread with the descriptor of a copy of 64 bytes in its own scratchpad, a follow-on, and a counter. -/
def copying (x6 x3 : Word) (k : Core := {}) : State :=
  let at_ (n : Nat) := word (0xC000000000000000 + n)
  one { thr with x := [(0, at_ 64), (1, at_ 128), (2, 0x100000040), (3, x3), (6, x6), (7, at_ 256)] } { k with tlb := [syncPage] }

/-- The context of a command of slot 0. -/
def ctx0 : Ctx := ⟨0, true, 0, 0, 0x171F0000, none, false, false, false, .core, 0, 0, []⟩

/-- A copy queue of 32 commands, and a matrix queue of so many entries of one operation. -/
def fullCq : List CopyCmd := List.replicate 32 ⟨9, 0x365, ctx0, 6, false, [], 0, (0, 0), [], none⟩
def mqOf (n : Nat) (op : MatOp) : List MatCmd := List.replicate n ⟨9, 0, ctx0, op, (0, 0), [], [], false, []⟩

theorem witness_CopyCommands :
    let regs (s : State) := (List.range 8).map fun i => (i, s.th.xv i)
    let d (s : State) := descOf (regs s)
    (∀ s ∈ [copying 0 0x10008, copying 0 0x10008 { cq := fullCq }], ∀ g ∈ [true, false],
      canIssue (.cpy g .core false false 6) s = true ∧ (d s).reason (regs s) g = none ∧ (s.firstByte (d s).src { r := true }).isNone = true ∧
      (s.firstByte (d s).dst { w := true }).isNone = true ∧ s.th.xv 5 = 0 ∧
      (s.typedCheck (s.th.xv 3) 0x32).toOption = some 0x7C00000008) ∧
    (copying 0 0).co.cq.length < 32 ∧ 32 ≤ (copying 0 0 { cq := fullCq }).co.cq.length ∧
    (let s := copying 0 0x20008
     canIssue (.cpy true .core false false 6) s = true ∧ (d s).reason (regs s) true = none ∧
       (s.typedCheck (s.th.xv 3) 0x32).toOption = none) ∧
    (let b := one { thr with x := [(2, 0x5000000000000), (6, 0x1000002EB), (7, 0xC000000000000100)] }
     (d b).reason (regs b) false = some (2, 1) ∧ canIssue (.cpy false .core false false 6) b = true ∧
       canIssue (.cpym false .core false false 6) b = true ∧ b.co.loading = false ∧
       ((followOf (b.th.xv 6) (b.th.xv 7)).map fun f => f.sig) = some false) ∧
    (let l := copying 0 0 { mq := mqOf 1 (.accload 0 0) }
     canIssue (.cpym false .core false false 6) l = true ∧ l.co.loading = true) ∧
    canIssue (.cpym false .core false false 6) (copying 0 0) = true ∧ (copying 0 0).co.loading = false ∧
    followOf 0 ((copying 0 0).th.xv 7) = none := by decide +kernel

theorem witness_CopyCommands_follow :
    ∀ s ∈ [copying 0x1000002EB 0x10008, copying 0x1000002EB 0x10008 { cq := fullCq }],
      canIssue (.cpym true .core false false 6) s = true ∧ s.co.loading = false ∧
      (s.typedCheck (s.th.xv 3) 0x33).toOption = some 0x7C00000008 ∧
      ∃ f rng, followOf (s.th.xv 6) (s.th.xv 7) = some f ∧ f.sig = false ∧
        s.matrixRange (s.th.xv 7) (f.bytes s.co.depthAfter) { r := true } (match f.op with | .mwl .. => true | _ => false) = .ok rng := by
  intro s hs
  simp only [List.mem_cons, List.not_mem_nil, or_false] at hs
  obtain rfl | rfl := hs <;>
    exact ⟨by decide +kernel, by decide +kernel, by decide +kernel, _, _, rfl, rfl, rfl⟩

/-- A thread that names its own scratchpad in g4, with one row in g5 and 65 in g6, a counter in x3, and a live tile 1 of another
anchor. -/
def matrix (tiles : Tab Tile) (mq : List MatCmd := []) (x3 : Word := 0x10008) (t : Thread := thr) : State :=
  one { t with g := [(4, 0xC000000000001000), (5, 1), (6, 65)], x := [(3, x3)] } { tiles := tiles, mq := mq, tlb := [syncPage] }

theorem witness_MatrixCommands :
    let s := matrix []
    let l := matrix [(1, { live := true, anchor := 5 })]
    let load := matrix [] (mqOf 1 (.accload 0 0))
    let full := matrix [] (mqOf 16 (.acczero 0))
    s.co.loading = false ∧ s.co.mq.length < 16 ∧ load.co.loading = true ∧ full.co.loading = false ∧ 16 ≤ full.co.mq.length ∧
    (∀ i ∈ ([.mwl true .core false false false 4 .bf16, .mma true .core false false false 5 4 .bf16 1, .mma false .core false false false 6 4 .i8 1,
      .acccfg false 5 false 1, .acczero 1, .accadd 0 1, .accrd false false 5 4 .f32 1, .accrd false false 3 4 .f32 1, .accsave false 4 1,
      .accload false 4 1, .mstat false 5 3] : List Instr), i = .mma false .core false false false 6 4 .i8 1 ∨
        canIssue i s = true ∧ canIssue i l = true ∧ canIssue i load = true ∧ canIssue i full = true) ∧
    canIssue (.mma false .core false false false 6 4 .bf16 1) s = true ∧ canIssue (.mma false .core false false false 3 4 .bf16 1) s = true ∧
    (s.rg 5).toNat = 1 ∧ 64 < (s.rg 6).toNat ∧ (s.rg 3).toNat = 0 ∧
    (∀ maj ∈ [0x34, 0x35], (s.typedCheck (s.th.xv 3) maj).toOption = some 0x7C00000008 ∧
      ((matrix [] [] 0x20008).typedCheck 0x20008 maj).toOption = none) ∧
    (s.co.tileAfter 1).1 = false ∧ (l.co.tileAfter 1).1 = true ∧ (s.co.tileAfter 0).2 = (s.co.tileAfter 1).2 ∧
    (l.co.tileAfter 0).2 ≠ (l.co.tileAfter 1).2 := by decide +kernel

/-- Ranges that are read and written; stores that may go, one that waits for an acquire, and one for a value. -/
theorem witness_MatrixCommands_ranges :
    let s := matrix []
    let out (v : Bool) : Out := ⟨9, 1, v, 0, 0x18, .none, noLine, .home, 0⟩
    let acq := matrix [] [] 0 { thr with outs := [out true], acq := [(9, .core)] }
    let val := matrix [] [] 0 { thr with outs := [out true] }
    (∃ rng, s.matrixRange (s.rg 4) (tileBytes .bf16) { r := true } true = .ok rng) ∧
    (∃ rng, s.matrixRange (s.rg 4) (1 * rowStride .bf16 s.co.depthAfter) { r := true } false = .ok rng) ∧
    (∀ a ∈ [s, acq, val], ∃ rng,
      a.writeRange (a.rg 4) ((Nat.log2 1 + 1) * accRowBytes .f32) (fun i => bitOf (a.rg 5) (64 * i / accRowBytes .f32)) = .ok rng ∧
        rng.writes ≠ [] ∧ (a = s → a.storesGate rng.writes = none)) ∧
    ((s.writeRange (s.rg 4) 49216 fun _ => true).toOption.map fun rng => s.storesGate rng.writes) = some none ∧
    acq.th.acqReady = false ∧ val.th.acqReady = true ∧ valuesReady val.th.outs = false ∧
    ∃ rng, s.matrixRange (s.rg 4) 49216 { r := true } true = .ok rng := by
  refine ⟨⟨_, rfl⟩, ⟨_, rfl⟩, fun a ha => ?_, by decide +kernel, by decide +kernel, by decide +kernel, by decide +kernel, _, rfl⟩
  simp only [List.mem_cons, List.not_mem_nil, or_false] at ha
  obtain rfl | rfl | rfl := ha <;> exact ⟨_, rfl, by decide +kernel, by decide +kernel⟩

/-! Messages. -/

/-- A state with one message in flight. -/
def msg (src dst : Node) (b : Body) (s : State) : State := { s with net := [⟨src, dst, b⟩] }

theorem heads_msg {src dst : Node} {b : Body} {s : State} (h : chanOk src dst = true) (p : (msg src dst b s).portTurn src dst = true) :
    heads (msg src dst b s) src dst b [] :=
  ⟨h, p, [], [], rfl, rfl, by simp⟩

/-- A thread that awaits the reply numbered 9 for a destination, with what it waits for. -/
def awaiting (d : Dest) (gst vst : Tab RegSt) (life : Life) (w : Option Wait) : State :=
  one { thr with outs := [⟨9, 0, true, 0x2008, 0x18, d, noLine, .l1, 0⟩], gst := gst, vst := vst, life := life, wait := w }

theorem witness_RepliesReachThreads :
    let g3 : Dest := .g 3 4 true
    let gp : Tab RegSt := [(3, .pending 9 .load 0x2008)]
    let w (k : WaitKind) (d : Dest) : Wait := ⟨k, 9, 1, 0, 4, 0, 0, d, [], none⟩
    let found (s : State) : Bool := ((s.thread 0 0).outs.find? fun o => o.id == 9).isSome && !s.streams 0 0 &&
      (s.engAnswer 0 9 .done).isNone && !(s.coreAt 0).fenced && s.launches.isEmpty && (s.thread 0 0).aside.isEmpty
    (let s := awaiting g3 gp [] .runnable none
     found s = true ∧ (s.thread 0 0).gs 3 = .pending 9 .load 0x2008 ∧ (s.thread 0 0).wait = none) ∧
    (let s := awaiting (.v 3) [] gp .runnable none
     found s = true ∧ (s.thread 0 0).vs 3 = .pending 9 .load 0x2008) ∧
    (let s := awaiting (.g 3 8 false) gp [] (.parked .reply) (some (w .typed (.g 3 8 false)))
     found s = true ∧ (s.thread 0 0).wait = some (w .typed (.g 3 8 false))) ∧
    (let s := awaiting .none [] [] (.parked .reply) (some (w .typed .none))
     found s = true ∧ (s.thread 0 0).held = false ∧ (s.thread 0 0).armed 0x0B = false ∧ bitOf (s.thread 0 0).status 2 = false ∧
       fld (s.thread 0 0).trapvec 1 56 ≠ 0) ∧
    (let s := awaiting .fetch [] [] (.parked (.fetch 9)) none
     found s = true ∧ (s.thread 0 0).life = .parked (.fetch 9)) ∧
    chanOk (.slice 127) (.core 0) = true ∧
    (let s := one { thr with deferred := [⟨0x12, 8, 1⟩, ⟨0x08, 8, 1⟩] }
     (s.thread 0 0).deferred = ⟨0x12, 8, 1⟩ :: [⟨0x08, 8, 1⟩] ∧ (s.thread 0 0).late = 0 ∧ bitOf (s.thread 0 0).arm 1 = false ∧ (s.thread 0 0).life = .runnable ∧ (s.thread 0 0).owed = none ∧
       (s.thread 0 0).wait = none ∧ (s.thread 0 0).held = false ∧ (s.thread 0 0).armed 0x12 = false ∧
       bitOf (s.thread 0 0).status 2 = false ∧ fld (s.thread 0 0).trapvec 1 56 ≠ 0 ∧ (s.coreAt 0).spcfg = none) := by
  decide +kernel

/-- A thread whose TNEXT waits when a trap falls due, and threads that have set one aside, with a destination and without,
away from it and back at it, with its answer and before. -/
theorem witness_RepliesReachThreads_aside :
    let w (k : WaitKind) : Wait := ⟨k, 9, 1, 0, 4, 0x2008, 0, .none, [], none⟩
    let o (d : Dest) : Out := ⟨9, 0, true, 0x2008, 0x1E, d, noLine, .home, 0⟩
    let a (got : List (Option Out × Result)) : Aside := ⟨w .tnext, 0x1000, false, got⟩
    (let s := one { thr with deferred := [⟨0x12, 8, 1⟩], life := .parked .reply, wait := some (w .tnext), outs := [o .none] }
     let th := s.thread 0 0
     th.deferred = ⟨0x12, 8, 1⟩ :: [] ∧ th.late = 0 ∧ bitOf th.arm 1 = false ∧ th.life = .parked .reply ∧ th.owed = none ∧
       th.wait = some (w .tnext) ∧ (w .tnext).kind ≠ .typed ∧ (w .tnext).kind ≠ .nbar ∧ th.held = false ∧ th.armed 0x12 = false ∧
       bitOf th.status 2 = false ∧ fld th.trapvec 1 56 ≠ 0 ∧ (s.coreAt 0).spcfg = none) ∧
    (∀ d ∈ [Dest.g 3 4 true, .none], let s := one { thr with aside := [a []], outs := [o d], gst := [(3, .pending 9 .load 0x2008)] }
     (s.thread 0 0).aside = [a []] ∧ (a []).wait.id = 9 ∧ ((s.thread 0 0).outs.find? fun o => o.id == 9) = some (o d) ∧
       (o d).dst = d ∧ (s.thread 0 0).gs 3 = .pending 9 .load (o d).va ∧ s.streams 0 0 = false ∧
       (s.engAnswer 0 9 .done).isNone = true ∧ (s.coreAt 0).fenced = false ∧ s.launches = []) ∧
    (∀ got ∈ [[], [(some (o .none), .done)]], let th := (one { thr with aside := [a got], fresh := true }).thread 0 0
      th.fresh = true ∧ th.pc = (a got).pc ∧ th.intrap = (a got).intrap ∧ (a got).wait.kind ≠ .store ∧
        (a got).wait.id = (o .none).id ∧ (a got).got = got) := by
  decide +kernel

/-- A requester on this device. -/
def asker : Who := ⟨0, 1, 0, 7⟩

/-- Deliveries and remote accesses at core 0: a live receiver and one that is not, a register beyond the partition, one that is
pending, the last bytes of the scratchpad and those beyond, a granted put, and join requests. -/
theorem witness_DeliveriesAndRemoteAccesses :
    let p := one { thr with gst := [(3, .pending 9 .load 0)] }
    let f : Flight := { w := 2, h := 1, accepted := [1] }
    let j : State := { one { thr with life := .parked .join } with flights := [(1, f)] }
    let busy : State := { one thr { flight := some 5 } with flights := [(1, f)], cores := [(0, { flight := some 5 }), (1, { threads := [(0, thr)] })] }
    chanOk (.core 1) (.core 0) = true ∧ asker.dev = w0.devnum ∧ asker.id ≠ 0 ∧ w0.podGone.contains w0.devnum = false ∧
    w0.liveCore 0 = true ∧ (w0.thread 0 0).live = true ∧ (w0.thread 0 1).live = false ∧ inPart (w0.coreAt 0).part .g 31 = true ∧
    inPart (w0.coreAt 0).part .g 32 = false ∧ ((w0.thread 0 0).gs 3).isPending = false ∧ ((p.thread 0 0).gs 3).isPending = true ∧
    (w0.coreAt 0).spcfg = none ∧ 786424 + 8 ≤ (w0.coreAt 0).ways * 131072 ∧ (w0.coreAt 0).ways * 131072 < 786425 + 8 ∧
    (w0.coreAt 0).spmBad = [] ∧ mwf (w0.coreAt 0).spm = true ∧
    (tget? j.flights 1 = some f ∧ (j.coreAt 0).flight = none ∧ (j.thread 0 0).life = .parked .join ∧
      (j.thread 0 0).asid = (j.thread 1 0).asid ∧ (j.coreAt 0).joins = [] ∧ j.hasAccepted 0 = false ∧ j.liveCore 0 = true) ∧
    (tget? busy.flights 1 = some f ∧ f.formed = false ∧ f.accepted = [1] ∧ (busy.coreAt 0).flight ≠ none ∧
      (busy.thread 1 0).held = false ∧ (busy.thread 1 0).armed 0x13 = false ∧ bitOf (busy.thread 1 0).status 2 = false ∧
      fld (busy.thread 1 0).trapvec 1 56 ≠ 0 ∧ (busy.thread 1 0).wait = none ∧ busy.streams 1 0 = false) ∧
    (∀ s ∈ [w0, p], (s.coreAt 0).inbox = []) ∧
    (let s := one thr { inbox := [⟨asker, 0, false, 3, 5, none⟩], spcfg := some (1, 4) }
     (s.coreAt 0).inbox = [⟨asker, 0, false, 3, 5, none⟩] ∧ s.liveCore 0 = true ∧ (s.thread 0 0).live = true ∧
       ((s.thread 0 0).gs 3).isPending = false ∧ (s.coreAt 0).spcfg = some (1, 4) ∧ 600000 + 8 ≤ (s.coreAt 0).ways * 131072 ∧
       4 * 131072 < 600000 + Access.bytes (.load 8)) := by decide +kernel

/-- A page table with one page of 4 KiB at address 0 of a given leaf, and a thread that waits for it. -/
def walking (leaf : Nat) (w : Walk) (ownedBy : Nat) : State :=
  let at_ (a v : Nat) (m : List Host.Cell) := mput a (leBytes 8 v) m
  let th : Thread := { thr with ptbase := 0x100000, life := .parked .walk, walk := some w }
  { one th with
    speed := List.replicate 768 0x80000A8C,
    mem := at_ 0x100000 0x200001 (at_ 0x200000 0x300001 (at_ 0x300000 0x400001 (at_ 0x400000 leaf []))),
    devnum := ownedBy }

/-- The walk of the thread ends at a leaf, and no request is in progress on the lines it has read. -/
def walkEnds (s : State) (w : Walk) (leaf : Leaf) : Bool :=
  let x := s.walkWith (s.coreAt 0).ptrs (s.thread 0 0).asid.toNat (s.thread 0 0).ptbase w.va (s.thread 0 0).smode ⟨w.read, w.write, w.exec⟩
  x.leaf == leaf && x.lines.all s.lineQuiet

/-- A page that is not cached, one that nothing has accessed, one private to core 5, and an address without a page. -/
theorem witness_WalksAndGroups_walks :
    let w : Walk := ⟨8, true, true, false, false, 4, none⟩
    let r : Walk := { w with write := false }
    let theirs := 5 * 2 ^ 54 + 0x400317
    (∀ x ∈ [(0x400097, w, Leaf.found 1 0x400000 0x400097), (0x400017, w, .found 1 0x400000 0x400017),
      (theirs, w, .found 1 0x400000 theirs), (0, r, .fail 1 1), (0, { r with drop := true }, .fail 1 1)],
      let s := walking x.1 x.2.1 0
      walkEnds s x.2.1 x.2.2 = true ∧ (s.coreAt 0).ptrs = [] ∧ (s.thread 0 0).walk = some x.2.1 ∧ (s.thread 0 0).life = .parked .walk ∧
        (s.thread 0 0).wait = none ∧ (s.thread 0 0).held = false ∧ (s.thread 0 0).armed 5 = false ∧ bitOf (s.thread 0 0).status 2 = false ∧
        fld (s.thread 0 0).trapvec 1 56 ≠ 0 ∧ s.streams 0 0 = false) ∧
    (let s := walking theirs w 0
     s.classifies 0x400097 = false ∧ s.classifies 0x400017 = true ∧ pteBit 0x400017 8 = false ∧ s.classifies theirs = true ∧
       pteBit theirs 8 = true ∧ theirs / 2 ^ 54 ≠ 0 ∧ inCarve 0x400000 = false ∧ inPool 0x400000 = false) := by decide +kernel

/-- A page table whose last level lies in the carve-out. -/
theorem witness_WalksAndGroups_carve :
    let at_ (a v : Nat) (m : List Host.Cell) := mput a (leBytes 8 v) m
    let w : Walk := ⟨8, true, true, false, false, 4, none⟩
    let s : State := { walking 0 w 0 with
      mem := at_ 0x100000 0x200001 (at_ 0x200000 0x300001 (at_ 0x300000 0x7E00000001 (at_ 0x7E00000000 0x400017 []))) }
    walkEnds s w (.found 1 0x7E00000000 0x400017) = true ∧ inCarve 0x7E00000000 = true ∧ (s.thread 0 0).walk = some w ∧
      (s.thread 0 0).life = .parked .walk := by decide +kernel

/-- Owners that answer, walkers that hear of it, a core with two TLB entries, and group maps. -/
theorem witness_WalksAndGroups :
    let w : Walk := ⟨8, true, false, false, false, 4, some 0x400000⟩
    let o := walking 0x0000000000400317 w 0
    let after := walking 0x0000000000400217 w 0
    let tw : Wait := ⟨.tlbinv, 9, 1, 0, 4, 0, 0, .none, [(3, 0)], none⟩
    let t := one { thr with wait := some tw, life := .parked .reply }
    let g := one { thr with g := [(4, 255), (5, 0xC000000000000040)] } { spm := [(0x40, 3)] }
    (let r (l : List (Nat × L1Line)) : State := o.modCore 0 fun k => { k with l1 := l, reclaims := [(1, 0x400000, 0)] }
     let busy := r [(0x1000000, ⟨.is, false, ⟨0, true, 0x400000⟩, ⟨0, 0⟩, [], [], none, false, none⟩)]
     (r []).reclassReady 0 0x400000 = true ∧ busy.reclassReady 0 0x400000 = false ∧ (o.coreAt 0).fencing = none ∧
       (o.coreAt 0).reclaims = [] ∧ ((r []).coreAt 0).reclaims = [(1, 0x400000, 0)] ∧ (∀ m ∈ (r []).net, ¬ (m.src = .core 1 ∧ m.dst = .core 0)) ∧
       pteBit ((r []).peekWord 0 0x400000).1 8 = true) ∧
    ((after.thread 0 0).walk = some w ∧ walkEnds (after.modThread 0 0 fun t => { t with walk := some { w with reclass := none } })
        { w with reclass := none } (.found 1 0x400000 0x400217) = true ∧
      pteBit 0x400217 8 = false ∧ pteBit 0x400217 9 = true) ∧
    (∀ k ∈ [TlbKind.all, .asid, .page], canIssue (.tlbinv false false (if k = .all then 0 else 5) (if k = .page then 4 else 0) k) g = true) ∧
    (t.thread 0 0).wait = some tw ∧ (∀ e ∈ tw.got, (t.coreAt e.2.toNat).awaits e.1 = false ∧ t.addsOut e.2.toNat e.1 = false) ∧
    (canIssue (.grpset false false 5 4) g = true ∧ (g.rg 4).toNat ≤ 255 ∧ g.podGone.contains g.devnum = false ∧
      g.gate ((List.range 12).map fun i => .own (0x40 + 8 * i)) (.load 8) false {} = none ∧ relReady .dev g.th.outs = true ∧
      (g.coreAt 0).spmBad = []) ∧
    (let m : List Word := (3 : Word) :: List.replicate 11 0
     m.length = 12 ∧ (∀ n < 768, bitOf (m.getD (n / 64) 0) (n % 64) = true → w0.liveCore n = true ∧ w0.groupCount n ≤ 3) ∧
     (∀ x ∈ w0.cores, x.2.nb = [])) ∧
    (let x : State := { w0 with groups := [(3, 2)] }
     bitOf (tget x.groups 3 0) 0 ≠ bitOf (3 : Word) 0 ∧ bitOf (tget x.groups 3 0) 1 = bitOf (3 : Word) 1 ∧ (x.thread 0 0).live = true) := by
  decide +kernel

/-- A core that holds one line, number 1. -/
def holding (st : L1St) (k : Core := {}) (priv : Bool := false) : State :=
  one thr { k with l1 := [(1, ⟨st, false, ⟨0, priv, 0⟩, ⟨5, 0⟩, [], [], none, false, none⟩)] }

/-- The home slice of line 1. -/
def slice1 : Node := .slice (homeSlice 64 false)

/-- A line in every state, a core with and without quota for pushed copies, and the messages that reach them. -/
theorem witness_L1Transitions :
    (∀ st ∈ [L1St.is, .im, .mod, .exc, .own, .shr, .sm, .mi, .ei], ∀ p ∈ [true, false], let s := holding st {} p
      ∃ l ∈ (s.coreAt 0).l1, tget? (s.coreAt 0).l1 1 = some l.2 ∧ l.2.st = st ∧ l.2.waits = [] ∧ l.2.held = [] ∧ l.2.inval = none ∧
        l.2.cinv = false ∧ l.2.pref = none ∧ l.2.via.priv = p ∧ (s.coreAt 0).setFull 1 = false) ∧
    (∀ b ∈ [Body.grant 1 true none, .fwd 1 false (.core 2), .fwd 1 true (.core 2), .fwd 1 true .home, .inval 1, .wbAck 1,
      .push 2 0 9 ⟨7, 0⟩, .push 1 0 9 ⟨7, 0⟩], (msg slice1 (.core 0) b (holding .shr)).net = [] ++ ⟨slice1, .core 0, b⟩ :: []) ∧
    chanOk slice1 (.core 0) = true ∧
    (let s := holding .shr { quota := 1 }
     ((s.coreAt 0).l1.filter fun e => e.2.pm).length < (s.coreAt 0).quota ∧ tget? (s.coreAt 0).l1 2 = none ∧
       (s.coreAt 0).setFull 2 = false ∧ (s.coreAt 0).fenced = false ∧ (s.coreAt 0).liveSlots ≠ [] ∧ (∀ u ∈ (s.coreAt 0).liveSlots, (s.thread 0 u).asid.toNat = 0)) ∧
    ((holding .shr).coreAt 0).quota ≤ (((holding .shr).coreAt 0).l1.filter fun e => e.2.pm).length := by decide +kernel

/-- A core that has given every way to its scratchpad and a core without clean lines. -/
theorem witness_L1Transitions_full :
    let k : Core := { ways := 12, l1 := [(1, ⟨.mod, false, ⟨0, false, 0⟩, ⟨5, 0⟩, [], [], none, false, none⟩)] }
    k.setFull 2 = true ∧ ((k.sameSet 2).filter fun e => e.2.st == .shr || e.2.st == .exc).map (·.1) = [] := by
  refine ⟨by simp [Core.setFull, Core.places], ?_⟩
  simp [Core.sameSet]

/-- Numbers below a bound are equal somewhere. -/
theorem two_alike : ∀ (n : Nat) (f : Nat → Nat), (∀ i, f i < n) → ∃ i j, i ≠ j ∧ f i = f j
  | 0, f, h => absurd (h 0) (Nat.not_lt_zero _)
  | n + 1, f, h => by
    by_cases hk : ∃ k, f k = n
    · obtain ⟨k, hk⟩ := hk
      by_cases hi : ∃ i, f (i + (k + 1)) = n
      · obtain ⟨i, hi⟩ := hi
        exact ⟨k, i + (k + 1), by omega, by rw [hk, hi]⟩
      · have hlt (i : Nat) : f (i + (k + 1)) < n := by
          have h1 := h (i + (k + 1)); have h2 : f (i + (k + 1)) ≠ n := fun e => hi ⟨i, e⟩; omega
        obtain ⟨i, j, hne, e⟩ := two_alike n _ hlt
        exact ⟨i + (k + 1), j + (k + 1), by omega, e⟩
    · refine two_alike n f fun i => ?_
      have h1 := h i; have h2 : f i ≠ n := fun e => hk ⟨i, e⟩; omega

/-- A core whose L1 has one place in a set, taken by a clean line, when a copy of another line of the set arrives. -/
theorem witness_L1Transitions_victim : ∃ a b x, a ≠ b ∧
    let k : Core := { ways := 11, quota := 1, l1 := [(a, x)] }
    x.st = .shr ∧ k.setFull b = true ∧
      k.oldest (((k.sameSet b).filter fun e => e.2.st == .shr || e.2.st == .exc).map (·.1)) = some a ∧ tget? k.l1 a = some x ∧
      tget? k.l1 b = none ∧ (k.l1.filter fun e => e.2.pm).length < k.quota := by
  obtain ⟨i, j, hv, hs⟩ := two_alike 2048 (fun i => Config.l1Set i % 2048) fun i => Nat.mod_lt _ (by decide)
  exact ⟨i, j, ⟨.shr, false, ⟨0, false, 0⟩, ⟨5, 0⟩, [], [], none, false, none⟩, hv,
    by simp [Core.setFull, Core.places, Core.sameSet, Core.oldest, L1St.placed, tget?, hs, hv, Ne.symm hv]⟩

/-- Directory entries with an owner, with sharers and with none. -/
theorem witness_HomeRequests :
    let none_ : DirEnt := {}
    let d (owner : Option Nat) (sharers : List Nat) : State := { w0 with dir := [(1, ⟨owner, sharers, 0, none, []⟩)] }
    (tget w0.dir 1 {} = none_ ∧ none_.busy = none ∧ none_.queue = [] ∧ none_.owner = none ∧ none_.sharers = [] ∧ none_.asid = 0) ∧
    (tget (d (some 2) []).dir 1 {}).owner = some 2 ∧ 2 ≠ asker.core ∧ (tget (d (some 1) []).dir 1 {}).owner = some asker.core ∧
    (tget (d none [1]).dir 1 {}).sharers = [asker.core] ∧ (tget (d none [2, 1]).dir 1 {}).sharers = [2, asker.core] ∧
    chanOk (.core asker.core) (.slice 127) = true ∧ asker.dev = w0.devnum ∧ asker.id ≠ 0 ∧ w0.podGone.contains w0.devnum = false ∧
    mwf w0.mem = true ∧ (∀ c ∈ w0.cores, mwf c.2.spm = true) ∧
    (56 + 8 ≤ 64 ∧ (w0.homeLine 0 1).bad = 0 ∧ w0.typedWord (1 * 64 + 56) 8 = none ∧ 48 + 16 ≤ 64) ∧
    (w0.typedWord (0x7C00000000 + 56) 8 = none) := by decide +kernel

/-- A core's request for another line may reach its slice first, one for the same line not (R26, R201). -/
theorem test_overtake :
    let m (line id : Nat) : Msg := ⟨.core 1, .slice 0, .home ⟨{ asker with id := id }, 0, line, false, false, .read⟩⟩
    let s (a b : Msg) : State := { w0 with net := [a, b] }
    ((s (m 0 7) (m 128 8)).overtake 1 0 0).net = [m 128 8, m 0 7] ∧ ((s (m 0 7) (m 0 8)).overtake 1 0 0).net = [m 0 7, m 0 8] := by
  decide +kernel

theorem witness_HomeAcknowledgements :
    let r : HomeReq := ⟨asker, 0, 1, false, false, .readEx⟩
    let d : DirEnt := ⟨none, [2], 0, some ⟨r, [2], none⟩, []⟩
    let s : State := { w0 with dir := [(1, d)] }
    let p (left : Nat) : Push := ⟨9, asker, left, [0, 2, 5, 5], []⟩
    (tget s.dir 1 {} = d ∧ d.busy = some ⟨r, [2], none⟩ ∧ d.queue = [] ∧ d.sharers = [2] ∧ d.owner = none ∧ asker.core ≠ 2) ∧
    (∀ l ∈ [1, 2], ({ w0 with pushes := [p l] } : State).pushes = [p l] ∧ (p l).who = asker) ∧
    (((List.range 4).map fun i => fld (0xFFFF002700010000 : Word) (16 * i) 16).filter w0.liveCore).eraseDups = [0, 1, 39] ∧
    (((List.range 4).map fun i => fld (0xFFFFFFFFFFFFFFFF : Word) (16 * i) 16).filter w0.liveCore).eraseDups = [] := by
  decide +kernel

/-- The first word of the pool with a tag, and a request for it by a thread of core 1. -/
theorem witness_TypedOperations :
    let typed (k : TypedKind) (b : Word) : TypedReq := typed0 1 0 7 k 0x22 b (.wait 5)
    poolWord (paOff 0x7C00000000) ∧ poolWord 0x7C00000008 ∧ localWho w0 asker ∧ w0.cancels.contains asker = false ∧
    (typed .ldsy 0).who = .thread asker ∧ chanOk (.core asker.core) pool0 = true ∧
    (∀ x ∈ [((1 : Word), 0), (1, 8), (5, 9), (0x0000000300010000, 10), (0x0000000300020000, 10), (0x0000000300000000, 10),
      (0x0000000500000005, 12), (0x0000000600000005, 12), (0x0001000000000000, 13), (2, 15)],
      (poolWith x.1 x.2).sspWord 0 0x7C00000000 = x.1 ∧ (poolWith x.1 x.2).tag 0x7C00000000 = x.2 ∧
      (poolWith x.1 x.2).sspBad 0 0x7C00000000 = false ∧ (poolWith x.1 x.2).waiters = [] ∧
      (poolWith x.1 x.2).room 0x7C00000000 1 = true ∧ mwf (poolWith x.1 x.2).mem = true) ∧
    ({ poolWith 1 8 with memBad := [0x7C00000000 / 8] } : State).sspBad 0 0x7C00000000 = true := by
  unfold poolWord localWho
  decide +kernel

/-- An empty queue of one place, the same queue full, and a condition with a held lock beside it. -/
theorem witness_TypedOperations_objects :
    let q := ask 0 0 0 1 (.tinit .queue) 0x30 0x0001000000000000 (.wait 0) (one thr)
    let f := ask 0 1 0 2 .qPut 0x2C 0 (.wait 0) q
    let c := (poolWith 2 15).sspInstall 0 0x7C00000008 0x0000000600000005 12
    ((q.qAt 0 0x7C00000000).bad 0x7C00000000 = false ∧ (q.qAt 0 0x7C00000000).n = 0 ∧ (q.qAt 0 0x7C00000000).c = 1 ∧ q.waiters = []) ∧
    ((f.qAt 0 0x7C00000000).bad 0x7C00000000 = false ∧ (f.qAt 0 0x7C00000000).n = 1 ∧ f.waiters = [] ∧
      q.ahead = [] ∧ f.slotBad 0 0x7C00000000 (f.qAt 0 0x7C00000000) (f.qAt 0 0x7C00000000).h = none) ∧
    ((poolWith 0x0000070000000000 13).qAt 0 0x7C00000000).bad 0x7C00000000 = true ∧
    (c.typeOf 0x7C00000000 = 7 ∧ c.typeOf 0x7C00000008 = 4 ∧ c.sspBad 0 0x7C00000008 = false ∧ c.waiters = [] ∧
      fld (c.sspWord 0 0x7C00000008) 0 32 ≠ fld (c.sspWord 0 0x7C00000008) 32 32) := by decide +kernel

/-- The oldest waiter of the first word of the pool with an operation is local. -/
def waitsFirst (s : State) (k : TypedKind) : Bool :=
  match s.waiters.find? fun e => paOff e.req.pa == 0x7C00000000 && e.kind == .waiter && e.req.k == k with
  | some w => w.req.asid == 0 && match w.req.who with
    | .thread p => p.dev == s.devnum && p.id != 0
    | _ => false
  | none => false

/-- Words with the other operation's waiter, and barriers with no arrival, some, and all but one. -/
theorem witness_TypedOperations_waiters :
    (let a := ask 100 2 0 8 .stsy 0x23 5 (.wait 0) (poolWith 1 8)
     a.tag 0x7C00000000 = 8 ∧ a.sspBad 0 0x7C00000000 = false ∧ waitsFirst a .stsy = true) ∧
    (let a := ask 100 2 0 8 .ldsy 0x22 0 (.wait 0) (poolWith 1 0)
     a.tag 0x7C00000000 = 0 ∧ a.sspBad 0 0x7C00000000 = false ∧ waitsFirst a .ldsy = true) ∧
    (let none_ := poolWith 0x0000000300000000 10
     let one_ := ask 100 2 0 8 .barArr 0x27 0 (.wait 0) none_
     let v (s : State) := s.sspWord 0 0x7C00000000
     none_.typeOf 0x7C00000000 = 2 ∧ fld (v none_) 16 16 = 0 ∧ fld (v none_) 0 16 = 0 ∧ fld (v none_) 16 16 + 1 < fld (v none_) 32 16 ∧
       none_.waiters = [] ∧ one_.typeOf 0x7C00000000 = 2 ∧ fld (v one_) 16 16 ≠ 0 ∧ fld (v one_) 0 16 = 0 ∧ fld (v one_) 16 16 + 1 < fld (v one_) 32 16 ∧
       one_.room 0x7C00000000 1 = true) ∧
    (let a := ask 300 4 0 8 .barWait 0x28 0 (.wait 0) (ask 200 3 0 8 .barArw 0x29 0 (.wait 0)
       (ask 100 2 0 8 .barArr 0x27 0 (.wait 0) (poolWith 0x0000000300000000 10)))
     let v := a.sspWord 0 0x7C00000000
     a.typeOf 0x7C00000000 = 2 ∧ a.sspBad 0 0x7C00000000 = false ∧ fld v 16 16 + 1 = fld v 32 16 ∧ fld v 0 16 = 0 ∧
       (0x7C00000000 ≤ 0x7C00000008 ∧ 0x7C00000008 < 0x7E00000000) ∧
       a.waiters.map (fun w => (paOff w.req.pa, w.kind, w.req.k)) = [(0x7C00000000, .phase, .barArr), (0x7C00000000, .waiter, .barArw),
         (0x7C00000000, .waiter, .barWait)] ∧ (a.waiters.map (·.no)).Nodup ∧
       (a.waiters.all fun w => match w.req.who with | .thread p => p.dev == a.devnum && p.id != 0 | _ => false) = true ∧
       (a.waiters.filter fun w => w.kind == .phase).length = 1) := by
  decide +kernel

/-- A lock with a void ticket before the next waiter's, a queue with a waiting get, a full one with a waiting put, and conditions whose
waiter finds its lock held and free. -/
theorem witness_TypedOperations_queues :
    (let a := ask 1000 3 0 3 .lckAcq 0x2A 0 (.wait 0) (ask 1000 2 0 2 .lckAcq 0x2A 0 (.wait 12)
       (ask 1000 1 0 1 .lckAcq 0x2A 0 (.wait 0) (poolWith 0x0000000500000005 0xC)))
     let d := (did (.waiterExpiry ((a.waiters.map (·.no)).getD 0 0)) { a with time := 5096, net := [] } id).getD a
     let v := d.sspWord 0 0x7C00000000
     let entry (j : Nat) := d.waiters.find? fun y => y.holds 0x7C00000000 ((fld v 0 32 + 1 + j) % 2 ^ 32)
     d.typeOf 0x7C00000000 = 4 ∧ d.sspBad 0 0x7C00000000 = false ∧ fld v 0 32 ≠ fld v 32 32 ∧ (d.waiters.map (·.no)).Nodup ∧
       (entry 0).map (·.kind) = some .void ∧ (entry 1).map (·.kind) = some .waiter ∧ waitsFirst d .lckAcq = true) ∧
    (let q := ask 0 0 0 1 (.tinit .queue) 0x30 0x0001000000000000 (.wait 0) (one thr)
     let get_ := ask 0 1 0 2 .qGet 0x2D 0 (.wait 0) q
     let full := ask 0 2 0 3 .qPut 0x2C 7 (.wait 0) (ask 0 1 0 2 .qPut 0x2C 0 (.wait 0) q)
     let x := get_.qAt 0 0x7C00000000
     let y := full.qAt 0 0x7C00000000
     get_.typeOf 0x7C00000000 = 5 ∧ x.bad 0x7C00000000 = false ∧ x.n = 0 ∧ get_.ahead = [] ∧ waitsFirst get_ .qGet = true ∧
       get_.waiters.all (fun e => e.kind == .waiter && e.req.k == .qGet) = true ∧ x.size / 8 = 1 ∧ get_.tagBad (x.slot 0x7C00000000 x.t) = false ∧
       full.typeOf 0x7C00000000 = 5 ∧ y.bad 0x7C00000000 = false ∧ y.n = y.c ∧ full.ahead = [] ∧ waitsFirst full .qPut = true ∧
       (full.waiters.map (·.no)).Nodup ∧ full.waiters.all (fun e => e.kind == .waiter && e.req.k == .qPut) = true ∧
       full.slotBad 0 0x7C00000000 y y.h = none) ∧
    (∀ l ∈ [0x0000000600000005, 0x0000000500000005],
     let w : Waiter := ⟨9, .waiter, 0, { typed0 2 0 8 .cndWait 0x2E 0 (.wait 0) with lockPa := 0x7C00000008 }, 0, 0, false⟩
     let c : State := { (poolWith 1 15).sspInstall 0 0x7C00000008 (word l) 12 with waiters := [w] }
     c.typeOf 0x7C00000000 = 7 ∧ fld (c.sspWord 0 0x7C00000000) 0 32 ≠ 0 ∧ c.sspBad 0 0x7C00000000 = false ∧
       (c.waiters.filter fun e => paOff e.req.pa == 0x7C00000000 && e.kind == .waiter && e.req.k == .cndWait && e.stage == 0) = w :: [] ∧
       paOff w.req.lockPa ≠ 0x7C00000000 ∧ (0x7C00000000 ≤ paOff w.req.lockPa ∧ paOff w.req.lockPa < 0x7E00000000) ∧
       (fld (c.sspWord 0 0x7C00000008) 0 32 = fld (c.sspWord 0 0x7C00000008) 32 32 ↔ l = 0x0000000500000005)) := by
  decide +kernel

/-- Requests that make and unmake objects, an entry of each kind, and a put that was granted. -/
theorem witness_ObjectsAndEntries :
    let r (k : TypedKind) : TypedReq := typed0 1 0 7 k 0x22 0 (.wait 5)
    let w (kind : EntryKind) (k : TypedKind) (stage : Nat) : Waiter := ⟨9, kind, stage, r k, 0, 700, false⟩
    let at_ (kind : EntryKind) (k : TypedKind) (stage : Nat) : State := { poolWith 2 15 with waiters := [w kind k stage], time := 700 }
    let q : State := { ask 0 0 0 1 (.tinit .queue) 0x30 0x0001000000000000 (.wait 0) (one thr) with
      waiters := [w .granted .qPut 0] }
    (∀ x ∈ [(ObjType.plain, (5 : Word)), (.counter, 5), (.barrier, 0x0000000300000000), (.ticket, 0x0000000500000005),
      (.queue, 0x0001000000000000), (.cond, 0)], (one thr).sspBad 0 0x7C00000000 = false ∧ (one thr).typeOf 0x7C00000000 = 0 ∧
      (∀ e ∈ madeWords x.1 0x7C00000000 x.2, (one thr).typeOf e.1 = 0) ∧ 0x7C00000000 % objectAlign x.1 = 0 ∧
      0x7C00000000 % 4096 + 8 * (madeWords x.1 0x7C00000000 x.2).length ≤ 4096) ∧
    (fld (0x0000000300000000 : Word) 32 16 ≠ 0 ∧ fld (0x0000000300000000 : Word) 0 32 = 0 ∧
      fld (0x0001000000000000 : Word) 48 16 = 1 ∧ fld (0x0001000000000000 : Word) 40 8 = 0) ∧
    (∀ k ∈ [TypedKind.ldsy, .lckAcq, .cndWait, .barArw], ∀ stage ∈ [0, 1],
      ((at_ .waiter k stage).waiters.find? fun e => e.no == 9) = some (w .waiter k stage) ∧ (w .waiter k stage).deadline ≠ 0 ∧
      (w .waiter k stage).deadline ≤ (at_ .waiter k stage).time.toNat) ∧
    (q.waiters = [w .granted .qPut 0] ∧ q.ahead = [] ∧ (q.qAt 0 0x7C00000000).t = 0 ∧ 0 < (q.qAt 0 0x7C00000000).wrap ∧
      (q.qAt 0 0x7C00000000).bad 0x7C00000000 = false ∧ (q.qAt 0 0x7C00000000).n < (q.qAt 0 0x7C00000000).c) ∧
    ((poolWith 5 9).typeOf 0x7C00000000 = 1 ∧ (poolWith 5 11).typeOf 0x7C00000000 = 3 ∧ (poolWith 5 14).typeOf 0x7C00000000 = 6) := by
  decide +kernel

/-- A flight of cores 0 and 1, of device state with both threads. -/
def flying (f : Flight) (k0 k1 : Core) (t0 t1 : Thread) (time : Nat) : State :=
  { one thr with
    cores := [(0, { k0 with threads := [(0, t0)] }), (1, { k1 with threads := [(0, t1)] })], flights := [(0, f)], time := word time }

/-- A flight that all accepted, one that core 1 has not, a frozen one with and without a core that holds, one with an originating
core, and one whose cores have all left. -/
theorem witness_FlightEvents :
    let all := flying { w := 2, h := 1, accepted := [0, 1] } {} {} { thr with life := .parked .lead } { thr with life := .parked .join } 0
    let late := flying { w := 2, h := 1, accepted := [0], deadline := 16 } {} {} { thr with life := .parked .lead } thr 16
    let closing := flying { w := 2, h := 1, formed := true, left := [0, 1] } {} {} { thr with life := .parked .streamEnd } thr 0
    (∀ s ∈ [all, late, closing], ∃ f ∈ s.flights, tget? s.flights 0 = some f.2 ∧ 0 < 768 ∧ 2 ≤ f.2.w ∧
      1 ≤ f.2.h ∧ 0 % 32 % 16 + f.2.w ≤ 16 ∧ 0 / 32 % 12 + f.2.h ≤ 12) ∧
    (∀ s ∈ [all, late, closing], s.streams 0 0 = false) ∧
    (∀ f ∈ all.flights, f.2.formed = false ∧ ∀ c ∈ f.2.cores 0, c ∈ f.2.accepted ∧ all.liveCore c = true) ∧
    (∀ f ∈ late.flights, f.2.deadline ≠ 0 ∧ f.2.deadline ≤ late.time.toNat ∧ 1 ∈ f.2.cores 0 ∧ 1 ∉ f.2.accepted ∧
      (∀ n ∈ f.2.cores 0, n < 1 → n ∈ f.2.accepted) ∧ (late.thread 0 0).wait = none ∧ (late.thread 0 0).held = false ∧
      (late.thread 0 0).armed 0x13 = false ∧ bitOf (late.thread 0 0).status 2 = false ∧ fld (late.thread 0 0).trapvec 1 56 ≠ 0) ∧
    (∀ f ∈ closing.flights, f.2.formed = true ∧ (∀ c ∈ f.2.cores 0, c ∈ f.2.left) ∧ (closing.thread 0 0).life = .parked .streamEnd) := by
  decide +kernel

/-- A frozen flight with an originating core whose stop has come. -/
theorem witness_FlightEvents_frozen :
    let f : Flight := { w := 2, h := 1, formed := true, frozen := true, steps := [(0, 0), (1, 0)], origins := [1], cause := 4, calm := 8, stop := some 0 }
    let ice := flying f { flight := some 0 } { flight := some 0 } thr thr 0
    (tget? ice.flights 0 = some f ∧ f.frozen = true ∧ 8 ≤ f.calm ∧ f.origins = 1 :: [] ∧ f.stop = some 0) ∧
    (f.supplied 0 = [0] ∧ ∀ c ∈ f.supplied 0, ice.stepReady c = true) ∧
    ({ ice with cores := [(0, { flight := some 0, threads := [(0, { thr with held := true })] })] } : State).stepReady 0 = false ∧
    ∀ c ∈ f.active 0, (ice.thread c 0).wait = none ∧ (ice.thread c 0).live = true := by
  decide +kernel

/-- Flights that do not end yet: four cycles after the fault, one whose step still awaits a reply, and one without a fault. -/
theorem witness_FlightEvents_wait :
    let f : Flight := { w := 2, h := 1, formed := true, origins := [1], cause := 4, stop := some 0 }
    let w : Wait := ⟨.typed, 9, 1, 0, 4, 0, 0, .none, [], none⟩
    let s := flying f { flight := some 0 } { flight := some 0 } { thr with wait := some w } thr 0
    ({ f with stop := some 4 } : Flight).stop ≠ some 0 ∧ ({ f with origins := [] } : Flight).origins = [] ∧
      0 ∈ f.active 0 ∧ (s.thread 0 0).wait ≠ none ∧ tget? s.flights 0 = some f := by decide +kernel

/-- A step of core 1 of a flight that awaits the reply to a typed operation, which is a trap. -/
theorem witness_FlightEvents_reply :
    let o : Out := ⟨9, 4, false, 0x10000, 0x22, .none, noLine, .home, 0⟩
    let w : Wait := ⟨.typed, 9, 1, 0, 4, 0x10000, 0, .none, [], none⟩
    let s : State := { flying { w := 2, h := 1, formed := true, steps := [(0, 3), (1, 2)] } { flight := some 0 } { flight := some 0 } thr
      { thr with outs := [o], wait := some w, life := .parked .reply } 0 with
      net := [⟨.slice 0, .core 1, .reply 0 9 (.trap 0x0A 0x10000 0)⟩] }
    heads s (.slice 0) (.core 1) (.reply 0 9 (.trap 0x0A 0x10000 0)) [] ∧ handles (s.thread 1 0) 0x0A ∧
    threadReply s 1 9 (.trap 0x0A 0x10000 0) ∧ (s.coreAt 1).flight = some 0 ∧
    ((s.thread 1 0).outs.find? fun o => o.id == 9) = some o ∧ (s.thread 1 0).wait = some w ∧ (s.thread 1 0).aside = [] := by
  refine ⟨⟨rfl, rfl, [], [], rfl, rfl, by simp⟩, ?_, ?_, ?_⟩
  · unfold handles; decide +kernel
  · unfold threadReply; decide +kernel
  · decide +kernel

/-- A matrix queue whose head is an operation, with operands at 0x1000 of the own scratchpad, whose thread waits where it must. -/
def unit (op : MatOp) (waits : Bool) (ws : List (Word × Place) := []) (sig : Bool := false)
    (counted : Bool := true) : State :=
  let dst : Dest := match op with
    | .mstat _ _ d => .g d 8 false
    | _ => .none
  let w : Wait := ⟨.matrix, 9, 1, 0, 4, 0, 0, dst, [], none⟩
  let x : Ctx := { ctx0 with sig := sig, sigPa := if sig then 5 * 2 ^ 39 + 0x7C00000000 else 0 }
  let m : MatCmd := ⟨9, 0, x, op, (0, 0), [], ws, false, []⟩
  let outs : List Out := if counted then ws.map fun p => ⟨9, 0, false, p.1, 0x36, .none, noLine, .l1, 0⟩ else []
  one { thr with life := if waits then .parked .reply else .runnable, wait := if waits then some w else none, outs := outs } { mq := [m] }

/-- The 64-byte pieces of bytes `0` to `n` of what is stored from 0x1000 of the own scratchpad. -/
def pieces (n : Nat) : List (Word × Place) :=
  (List.range (n / 64)).map fun i => (0xC000000000001000 + word (64 * i), .own (0x1000 + 64 * i))

/-- The operations of the matrix unit, ready to be performed, and one whose counter's device has become unreachable. -/
theorem witness_MatrixEntries :
    let a : Word := 0xC000000000001000
    (∀ x ∈ [(MatOp.mwl .bf16 a, false, []), (.mma .bf16 0 a 64, false, []), (.acccfg 0 5 true, false, []), (.acczero 0, false, []),
      (.accadd 0 1, false, []), (.accrd 0 .f32 a 1 0, true, pieces 256), (.accsave 0 a, true, pieces 49216), (.accload 0 a, true, []),
      (.mstat 0 true 3, true, []), (.mstat 15 false 3, true, [])],
      let s := unit x.1 x.2.1 x.2.2
      s.streams 0 0 = false ∧ s.podGone.contains s.devnum = false ∧ mwf s.mem = true ∧ (∀ m ∈ (s.coreAt 0).mq, m.asked = false ∧
        s.matrixReady 0 m = true ∧ m.ctx.sig = false ∧ m.op = x.1 ∧ m.ctx.slot = 0 ∧ m.writes = x.2.2 ∧
        (s.thread 0 0).aside = [] ∧ (x.2.1 = true → ∃ w, (s.thread 0 0).wait = some w ∧ w.kind = .matrix ∧ w.id = m.id ∧ w.len = 4 ∧
          w.dst = match m.op with | .mstat _ _ d => .g d 8 false | _ => .none) ∧
        (x.2.2 ≠ [] → s.storesCounted 0 m = true))) ∧
    (let s := unit (.accsave 0 a) false (pieces 49216) false false
     (s.thread 0 0).wait = none ∧ ∀ m ∈ (s.coreAt 0).mq, m.writes = pieces 49216 ∧ s.matrixReady 0 m = true ∧ s.storesCounted 0 m = false) ∧
    accRowBytes .f32 = 256 ∧ (List.range 64).filter (1 : Nat).testBit = [0] ∧
    (let s : State := { unit (.mwl .bf16 a) false [] true with podGone := [5] }
     (s.thread 0 0).live = true ∧ s.podGone.contains s.devnum = false ∧ ∀ m ∈ (s.coreAt 0).mq, m.ctx.sig = true ∧
       s.podGone.contains (paDev m.ctx.sigPa) = true ∧ s.matrixReady 0 m = true) ∧
    ({ shadow := some {} } : Core).shadow = some {} := by
  decide +kernel

/-- An address of the own scratchpad reaches the byte it names. -/
theorem own_reaches (n : Nat) (h : n + 8 ≤ 786432) :
    isMesh (word (0xC000000000000000 + n)) = true ∧ meshTarget 0 0 (word (0xC000000000000000 + n)) = some (0, 0, 0, n) := by
  have hw : (word (0xC000000000000000 + n)).toNat = 0xC000000000000000 + n := by simp [word]; omega
  have hf (i k : Nat) : fld (word (0xC000000000000000 + n)) i k = (0xC000000000000000 + n) / 2 ^ i % 2 ^ k := by
    simp [fld, hw]
  have hb (i : Nat) : bitOf (word (0xC000000000000000 + n)) i = decide ((0xC000000000000000 + n) / 2 ^ i % 2 = 1) := by
    rw [bitOf, BitVec.getLsbD, hw, Nat.testBit_eq_decide_div_mod_eq]
  have h63 : bitOf (word (0xC000000000000000 + n)) 63 = true := by rw [hb, decide_eq_true_eq]; omega
  have h62 : bitOf (word (0xC000000000000000 + n)) 62 = true := by rw [hb, decide_eq_true_eq]; omega
  have h46 : bitOf (word (0xC000000000000000 + n)) 46 = false := by rw [hb, decide_eq_false_iff_not]; omega
  have f0 : fld (word (0xC000000000000000 + n)) 0 21 = n := by rw [hf]; omega
  have f21 : fld (word (0xC000000000000000 + n)) 21 13 = 0 := by rw [hf]; omega
  have f34 : fld (word (0xC000000000000000 + n)) 34 6 = 0 := by rw [hf]; omega
  have f40 : fld (word (0xC000000000000000 + n)) 40 6 = 0 := by rw [hf]; omega
  have f47 : fld (word (0xC000000000000000 + n)) 47 15 = 0 := by rw [hf]; omega
  refine ⟨h63, ?_⟩
  simp [meshTarget, h62, h46, f0, f21, f34, f40, f47, signedOf]

/-- The longest operand, a tile image, lies in the own scratchpad word by word. -/
theorem witness_ownOperand :
    ∀ m ∈ ((unit (.accload 0 0xC000000000001000) true).coreAt 0).mq,
      ownOperand (unit (.accload 0 0xC000000000001000) true) 0 m.ctx 0xC000000000001000 6152 0x1000 := by
  intro m hm
  have hx : inWindow m.ctx.meshwin 0 0 0 0 = true := by
    revert m; decide +kernel
  refine ⟨by decide, fun i hi => ?_⟩
  have ha : (0xC000000000001000 : Word) + word (8 * i) = word (0xC000000000000000 + (0x1000 + 8 * i)) := by
    apply BitVec.eq_of_toNat_eq; simp [word]; omega
  have hr := own_reaches (0x1000 + 8 * i) (by omega)
  have hc : ((unit (.accload 0 0xC000000000001000) true).coreAt 0).spcfg = none ∧
      ((unit (.accload 0 0xC000000000001000) true).coreAt 0).scratch = 786432 ∧
      (unit (.accload 0 0xC000000000001000) true).routeOk 0 0 = true ∧
      (unit (.accload 0 0xC000000000001000) true).devnum = 0 := by decide +kernel
  rw [ha]
  refine ⟨hr.1, ?_⟩
  rw [State.engMesh, hc.2.2.2, hr.2]
  simp only [Nat.zero_mul, Nat.zero_add, hx, Core.leaving, hc.1, hc.2.1, hc.2.2.1]
  simp
  omega

/-- A copy queue whose head has these x registers and this progress; its thread awaits the status in g6. -/
def copier (x : Tab Word) (m : Bool) (follow : Nat) (run : Option CopyRun) (k : Core := {}) : State :=
  let cmd : CopyCmd := ⟨9, 0x365, ctx0, 6, m, x, follow, (0, 0), [], run⟩
  one { thr with gst := [(6, .pending 9 .copy 0)] } { k with cq := [cmd] }

/-- An address of the own scratchpad of core 0. -/
def ownAt (n : Nat) : Word := word (0xC000000000000000 + n)

/-- The x registers of a copy of 8 bytes from 64 to 128 of the own scratchpad, with a record and a follow-on. -/
def copyRegs (rec_ follow : Bool) : Tab Word :=
  let x : Tab Word := [(0, ownAt 64), (1, ownAt 128), (2, 0x100000008)]
  let x := if rec_ then (5, ownAt 192) :: x else x
  if follow then (6, 0x1000002EB) :: (7, ownAt 256) :: x else x

/-- A copy that has not begun, and one that waits for its ACQ. -/
theorem witness_CopyEvents_start :
    let s := copier (copyRegs false false) false 0 none
    let w := s.setThread 0 0 { thr with outs := [⟨3, 1, false, 0, 0, .none, noLine, .home, 0⟩] }
    let late : LateWrite := ⟨ctx0, 8, ownAt 128, .acc (.store 8 7), some (.own 128), none⟩
    let bath := copier (copyRegs false false) false 0 none { spcfg := some (1, 5), lateq := [late] }
    ((bath.coreAt 0).lateq = [late] ∧ late.id = none ∧ late.place = some (.own 128) ∧ (bath.coreAt 0).spcfg ≠ none ∧
      (bath.coreAt 0).fenced = false ∧ ∀ m ∈ (bath.coreAt 0).cq, m.run = none ∧ bath.copyHeld 0 m = false) ∧
    ((copier (copyRegs false false) false 0 none { fenced := true }).coreAt 0).fenced = true ∧
    mwf s.mem = true ∧ (s.coreAt 0).lateq = [] ∧ (s.coreAt 0).fenced = false ∧ (s.coreAt 0).spcfg = none ∧ (∀ m ∈ (s.coreAt 0).cq, m.run = none ∧ m.ctx.acq = false ∧ s.copyHeld 0 m = false ∧
      (descOf m.x).op = 0 ∧ (descOf m.x).rows = 1 ∧ (descOf m.x).len = 8 * 1 ∧ (∀ w ∈ spmWords s 0 64 1, w.2 = false) ∧
      isMesh ((descOf m.x).src + word (8 * 0)) = true ∧ isMesh ((descOf m.x).dst + word (8 * 0)) = true ∧
      (s.engMesh 0 m.ctx ((descOf m.x).src + word (8 * 0)) 8).toOption = some (.spm (64 + 8 * 0)) ∧
      (s.engMesh 0 m.ctx ((descOf m.x).dst + word (8 * 0)) 8).toOption = some (.spm (128 + 8 * 0)) ∧
      w.beforeDone 0 { m.ctx with acq := true, sc := .dev, before := [3] } = false) := by decide +kernel

/-- Copies without REL that have read their row, with a write still to make: one that cannot fail, and one at an address that the TLB
does not hold, with and without a status register and a record. -/
theorem witness_CopyEvents_early :
    let late (a : Word) : CopyRun := { row := 1, writes := [(0, a, .acc (.store 8 7))] }
    let at_ (a : Word) (rec_ : Bool) := copier (copyRegs rec_ false) false 0 (some (late a))
    (∀ n ∈ [0xC000000000000080, 0x5000], ∀ rec_ ∈ [true, false], let a := word n
      ∀ m ∈ ((at_ a rec_).coreAt 0).cq, m.run = some (late a) ∧ (late a).await = none ∧ (late a).follow = none ∧ (late a).recFail = none ∧
      (late a).record = 0 ∧ m.ctx.rel = false ∧ m.ctx.sig = false ∧ m.m = false ∧ (descOf m.x).op ≠ 3 ∧ (late a).stop = none ∧
      (late a).moved = false ∧ (tget m.x 5 0 = 0 ↔ rec_ = false) ∧ m.dst ≠ 0 ∧ (descOf m.x).rows ≤ (late a).row ∧
      (∀ w ∈ (late a).writes, w.2.2 ≠ .acc .taint) ∧ ((at_ a rec_).landing 0 m.ctx a 8).isSome = decide (n ≠ 0x5000)) ∧
    (let s := (at_ 0x5000 false).modCore 0 fun k => { k with cq := k.cq.map fun m => { m with dst := 0 } }
     ∀ m ∈ (s.coreAt 0).cq, m.dst = 0 ∧ tget m.x 5 0 = 0 ∧ m.run = some (late 0x5000)) ∧
    (at_ 0x5000 false).podGone.contains (at_ 0x5000 false).devnum = false ∧ ((at_ 0x5000 false).coreAt 0).fenced = false := by
  decide +kernel

/-- Copies that have moved every byte, with and without a record and a follow-on that fits and one that does not. -/
theorem witness_CopyEvents_complete :
    let moved : CopyRun := { row := 1, moved := true }
    (∀ s ∈ [copier (copyRegs false false) false 0 (some moved), copier (copyRegs true false) false 0 (some moved),
        copier (copyRegs false true) true 128 (some moved), copier (copyRegs false true) true 127 (some moved)],
      ∀ m ∈ (s.coreAt 0).cq, m.run = some moved ∧ moved.await = none ∧ moved.follow = none ∧ moved.recFail = none ∧
        moved.record = 0 ∧ moved.writes = [] ∧ (descOf m.x).rows ≤ moved.row ∧ moved.moved = true ∧ moved.stop = none ∧
        m.dst = 6 ∧ (s.thread 0 0).gs 6 = .pending m.id .copy 0 ∧ (s.coreAt 0).mq.length < 16) ∧
    (∀ m ∈ ((copier (copyRegs true false) false 0 (some moved)).coreAt 0).cq, tget m.x 5 0 ≠ 0 ∧ ∀ i < 8,
      ((copier (copyRegs true false) false 0 (some moved)).engMesh 0 m.ctx (tget m.x 5 0 + word (8 * i)) 8).toOption =
        some (.spm (192 + 8 * i))) ∧
    (followOf 0x1000002EB (ownAt 256)).map (fun f => f.bytes (copier (copyRegs false true) true 128 (some moved)).co.depthAfter) =
      some 128 := by decide +kernel

/-- A command that a fault has stopped at a read of its first row, and one at its second write, with and without a record. -/
theorem witness_CopyEvents_stop :
    let read : CopyRun := { stop := some (ownAt 64, 20) }
    let write : CopyRun := { row := 1, writes := [(0, ownAt 136, .acc (.store 8 7))], stop := some (ownAt 136, 5) }
    (∀ r ∈ [read, write], ∀ rec_ ∈ [true, false], let s := copier (copyRegs rec_ false) false 0 (some r)
      ∀ m ∈ (s.coreAt 0).cq, m.run = some r ∧ r.await = none ∧ r.follow = none ∧ r.recFail = none ∧ r.record = 0 ∧ r.stop.isSome = true ∧
        (s.coreAt 0).fenced = false ∧ m.ctx.sig = false ∧ (tget m.x 5 0 = 0 ↔ rec_ = false) ∧ (s.thread 0 0).live = true ∧
        (rec_ = true → ∀ i < 8, (s.engMesh 0 m.ctx (tget m.x 5 0 + word (8 * i)) 8).toOption = some (.spm (192 + 8 * i)) ∧
          isMesh (tget m.x 5 0 + word (8 * i)) = true)) ∧
    (read.row < 1 ∧ write.writes ≠ []) := by
  decide +kernel

theorem witness_BringUpTimeAlarm :
    fusesOk ⟨List.replicate 768 0x80000A8C⟩ = true ∧ State.reset.bring = 5 ∧ State.reset.bringFail = none ∧ State.reset.alarm = none ∧ w0.bring ≠ 5 ∧
    ({ State.reset with bringFail := some (3, 7) } : State).bringFail ≠ none ∧
    (let s : State := { State.reset with bring := 6, mgmt := { stored := some 5 }, locked := true }
     s.mgmt.stored = some 5 ∧ s.bring = 6 ∧ s.bringFail = none ∧ s.locked = true ∧ s.alarm = none) ∧ State.reset.mgmt.stored = none ∧
    (0x21 : BitVec 6) ≠ 0 ∧ ({ w0 with alarm := some ⟨5, 1, 1, 0⟩ } : State).alarm ≠ none := by decide +kernel

/-- A core whose state changes in each of the ways the events make it. -/
theorem witness_CoreAndSliceEvents :
    let drained := one { thr with life := .parked .drain }
    let sp (w : Nat) (m : List MatCmd) (late : List LateWrite := []) : State :=
      one { thr with life := .parked .drain } { spcfg := some (0, w), mq := m, lateq := late }
    let read : CopyRun := { row := 0, got := [(1, false), (2, false)] }
    let dir : State := { w0 with dir := [(1, ⟨some 2, [], 0, none, []⟩)] }
    let sheet : State := { one thr { sheets := [(0, [(0, 0x8001000000000004)]), (1, [(0, 0x8005000000000000)])] } with time := 5 }
    (w0.up = true ∧ w0.liveCore 0 = true ∧ (w0.coreAt 0).flight = none ∧ w0.tested 0 = 2700 ∧ w0.mhz 0 = 2700 ∧ 2600 % 25 = 0 ∧
      w0.allowed 0 = 2700 ∧ w0.liveCore 767 = false) ∧ drained.up = true ∧
    (∀ w ∈ [5, 6, 0], ((sp w []).coreAt 0).spcfg = some (0, w) ∧ ((sp w []).coreAt 0).mq = [] ∧ ((sp w []).coreAt 0).cq = [] ∧ ((sp w []).coreAt 0).lateq = [] ∧
      ((sp w []).thread 0 0).life = .parked .drain ∧ ((sp w []).coreAt 0).ways = 6) ∧ ((sp 5 (mqOf 1 (.acczero 0))).coreAt 0).mq ≠ [] ∧
    ((sp 5 [] [⟨ctx0, 9, 0, .acc (.store 8 7), none, none⟩]).coreAt 0).lateq ≠ [] ∧
    (tget dir.dir 1 {} = ⟨some 2, [], 0, none, []⟩ ∧ (tget dir.dir 5 {}).owner = none) ∧
    (let own : State := { holding .mod with dir := [(1, ⟨some 0, [], 0, none, []⟩)] }
     (tget own.dir 1 {}).owner = some 0 ∧ ∀ e ∈ (own.coreAt 0).l1, e.1 = 1 ∧ e.2.st = .mod ∧ e.2.via.priv = false) ∧
    (((copier [] false 0 (some read)).coreAt 0).cq.head?.bind (fun m => m.run) = some read ∧ read.got[8 / 8]? = some (2, false)) ∧
    (let w := word (tget (sheet.sheetAt (.core 0) 0) 0 0)
     bitOf w 63 = true ∧ fld w 48 8 = 1 ∧ (fld w 0 16).testBit 2 = true ∧ (fld w 0 16).testBit 1 = false) ∧
    (let w := word (tget (sheet.sheetAt (.core 0) 1) 0 0)
     bitOf w 63 = true ∧ fld w 48 8 = 5) ∧
    bitOf (word (tget (sheet.sheetAt (.core 0) 7) 0 0)) 63 = false ∧
    (let x : Tab Nat := [(0, 0x8008000000000004)]
     let gap := one thr { sheets := [(1, x)], issued := [(2, 7)] }
     (gap.coreAt 0).sheets = [(1, x)] ∧ gap.sheetAt (.core 0) 1 = x ∧ bitOf (word (tget x 0 0)) 63 = true ∧ fld (word (tget x 0 0)) 48 8 = 8 ∧
       (fld (word (tget x 0 0)) 0 16).testBit 2 = true ∧ tget? (gap.coreAt 0).issued 2 = some 7) := by
  decide +kernel

/-- A scratchpad that cannot grow over a line that waits for its upgrade, the home of a line, and a core whose bath lets its
partition change. -/
theorem witness_CoreAndSliceEvents_waits :
    let rp : State := { one { thr with life := .parked .drain, launch := some 4 } { repart := some (0, .p4) } with
      binds := [(0, ({ valid := true, state := 1, launch := 4 } : BindRec))] }
    (let up := (holding .sm).modCore 0 fun k => { k with spcfg := some (0, 7) }
     (up.coreAt 0).ways < 7 ∧ (up.coreAt 0).l1.any (fun e => e.2.st == .sm) = true) ∧
    homedAt (homeSlice 64 false) 64 = true ∧ homedAt (homeSlice 64 false + 1) 64 = false ∧ homeSlice 64 false < 127 ∧
    ((rp.coreAt 0).repart = some (0, .p4) ∧ (∀ v ∈ (rp.coreAt 0).liveSlots, v = 0) ∧ (rp.coreAt 0).mq = [] ∧ (rp.coreAt 0).cq = [] ∧
      (rp.coreAt 0).lateq = [] ∧ (rp.coreAt 0).kw = [] ∧ (rp.coreAt 0).flight = none) ∧
    relReady .pod (rp.thread 0 0).outs = true ∧ (rp.thread 0 0).life = .parked .drain ∧
    (rp.thread 0 0).held = false ∧ (rp.thread 0 0).launch = some 4 ∧ (rp.bind 0 0).launch = 4 ∧ (rp.bind 0 0).valid = true ∧
    (rp.bind 0 0).state = 1 := by
  decide +kernel

/-! ### Host frames and launches -/

/-- A frame of source 1. -/
def frame (typ seq : Nat) (b : FrameBody) : Frame := ⟨1, 1, typ, true, true, seq, 0, b⟩

/-- A launch record of ASID 0 on group 3, one thread on each core, ten tiles. -/
def record : List Word := [0x400000, 3 * 2 ^ 22, 10 + 2 ^ 32, 1, 0x401000, 0x402000, 0x402000, 0]

/-- A device whose memory holds that record at 0x500000, and whose group 3 is cores 0 and 1. -/
def launching : State :=
  { w0 with
    mem := mput 0x500000 (record.flatMap fun w => leBytes 8 w.toNat) [], groups := [(3, 3)],
    mgmt := { ptbase := [(0, 0x100000)], policy := [(0, (0x8000, 0x171F0000))] } }

/-- The five words of a timed entry for that record. -/
def timed (rule : Nat) : List Word := [100, 20000, 0x500000, word (2 ^ 63 + rule * 2 ^ 61), if rule = 2 then 0x1000 else 0]

/-- With no directory entry, no message and no line in an L1, every line is quiet. -/
theorem quiet_lines (s : State) (h : s.dir = [] ∧ s.net = [] ∧ s.cores.all (fun c => c.2.l1.isEmpty) = true) (l : Nat) :
    s.lineQuiet l = true := by
  have hl : ∀ c ∈ s.cores, tget? c.2.l1 l = none := fun c hc => by
    have := List.all_eq_true.1 h.2.2 c hc
    rw [List.isEmpty_iff] at this; rw [this]; rfl
  simp only [State.lineQuiet, State.dirAt, h.1, h.2.1, Bool.and_eq_true, List.all_eq_true]
  exact ⟨⟨⟨rfl, rfl⟩, fun _ hm => absurd hm (by simp)⟩, fun c hc => by rw [hl c hc]⟩

/-- Such a state is read in place, under every ASID, and every request of a host may be performed there. -/
theorem quiet_reads (s : State) (h : s.dir = [] ∧ s.net = [] ∧ s.cores.all (fun c => c.2.l1.isEmpty) = true) (asid off n : Nat) :
    readsInPlace s asid off n ∧ s.underQuiet asid off n = true := by
  refine ⟨fun l _ => .inr (.inr ?_), List.all_eq_true.2 fun l _ => by simp [quiet_lines s h l]⟩
  rw [State.dirAt, h.1]; exact ⟨rfl, rfl⟩

theorem witness_HostFrames_inPlace (off n : Nat) : readsInPlace launching 0 off n := (quiet_reads launching ⟨rfl, rfl, rfl⟩ 0 off n).1

theorem witness_HostFrames :
    (∀ x ∈ [(1, FrameBody.memwr 0x7DFFFFFFFF [7]), (1, .memwr 0x7E20000000 [7]), (2, .memrd 0x7DFFFFE000 8192), (3, .launch 0x500000),
      (3, .launch 0x7E00000000), (4, .ttset 63 true (timed 2)),
      (6, .mgmt .identity), (6, .mgmt (.setDevnum 32767)), (6, .mgmt .erase), (2, .memrd 0x8000000000 1), (1, .memwr 0x7FFFFFFFFF [7, 7]), (2, .memrd 0x7FFFFFFFFF 2)], inTurn launching (frame x.1 9 x.2) x.1) ∧
    inTurn (poolWith 5 9) (frame 1 9 (.memwr 0x7C00000004 [7, 7])) 1 ∧
    inTurn { launching with bring := 3, bringFail := some (4, 77) } (frame 6 9 (.mgmt .identity)) 6 ∧
    (0x7FFFFFFFFF / 2 ^ 39 = launching.devnum ∧ (0x7FFFFFFFFF + 2 - 1) / 2 ^ 39 ≠ launching.devnum) ∧
    (∀ a ∈ [0x7DFFFFFFFF, 0x7E20000000], a / 2 ^ 39 = launching.devnum ∧ (a + 1 - 1) / 2 ^ 39 = launching.devnum ∧ ¬ (paOff a < 0x7E20000000 ∧ 0x7E00000000 < paOff a + 1) ∧
      ∀ o ∈ poolWords a 1, launching.typeOf o = 0) ∧
    (paOff 0x7DFFFFFFFF < 0x7E20000000 ∧ 0x7E00000000 < paOff 0x7DFFFFFFFF + 2 ∧ paOff 0x7E1FFFFFFF < 0x7E20000000 ∧
      0x7E00000000 < paOff 0x7E1FFFFFFF + 1 ∧ 0x8000000000 / 2 ^ 39 ≠ launching.devnum) ∧
    (0x7C00000000 ∈ poolWords 0x7C00000004 2 ∧ (poolWith 5 9).typeOf 0x7C00000000 ≠ 0 ∧ 0x7C00000004 / 2 ^ 39 = (poolWith 5 9).devnum) ∧
    (launching.bringFail = none ∧ launching.readRecord 0 0x500000 = some record ∧ launching.recordReason record 0 = none ∧
      launching.freeLaunch = some 0 ∧ launching.readRecord 0 0x500001 = none ∧ w0.recordReason record 0 = some 5) ∧
    (launching.ttOk (timed 0) = true ∧ launching.ttOk (timed 2) = true ∧ launching.time.toNat ≤ ((timed 0).getD 0 0).toNat) ∧
    sysLegal 0x006 0x100000 = true ∧
    (headerOk (frame 7 0 (.ack 0xC1 0 0 true)) = true ∧ launching.accepts (frame 7 0 (.ack 0xC1 0 0 true)) = true ∧
      ackOk 0xC1 0 0 true = true ∧ headerOk (frame 9 0 .bad) = false) ∧
    (let h : HostSrc := ⟨100, 90, [(100, ⟨1, 0x82, 100, 0, 0, []⟩)], [], []⟩
     let s : State := { launching with sources := [(1, h)] }
     tget? s.sources 1 = some h ∧ h.h < 2 ^ 32 ∧ (h.replies.find? fun r => r.1 == 100) = some (100, ⟨1, 0x82, 100, 0, 0, []⟩) ∧
       inTurn s (frame 2 101 (.memrd 0 1)) 2) ∧
    (let h : HostSrc := ⟨100, 90, [], [(0, frame 2 102 (.memrd 0 1))], []⟩
     let s : State := { launching with sources := [(1, h)], time := 100000 }
     tget? s.sources 1 = some h ∧ h.held = (0, frame 2 102 (.memrd 0 1)) :: [] ∧ h.active = [] ∧
       (∀ x ∈ h.held, x.2.seq ≠ (h.h + 1) % 2 ^ 32) ∧ 0 + 100000 ≤ s.time.toNat ∧ s.alarm = none) := by
  have hf (s : State) (x : Nat × FrameBody) (n : Nat) (h : headerOk (frame x.1 n x.2) = true ∧ n < 2 ^ 32 ∧ s.alarm = none ∧
      (s.bring = 8 ∨ x.1 = 6) ∧ s.mayPerform (frame x.1 n x.2) = true ∧ tget? s.sources 1 = none ∧ s.sources.length < 64) :
      inTurn s (frame x.1 n x.2) x.1 :=
    ⟨h.1, rfl, h.2.1, h.2.2.1, h.2.2.2.1, h.2.2.2.2.1, .inl h.2.2.2.2.2⟩
  refine ⟨fun x hx => hf _ x 9 ?_, hf _ (1, _) 9 (by decide +kernel), hf _ (6, _) 9 (by decide +kernel), by decide +kernel, by decide +kernel,
    by decide +kernel, by decide +kernel, by decide +kernel, by decide +kernel, by decide +kernel, by decide +kernel, ?_, by decide +kernel⟩
  · revert x; decide +kernel
  · exact ⟨rfl, by decide, rfl, rfl, rfl, by decide, rfl, .inl rfl, rfl, .inr ⟨_, rfl, rfl, rfl, by decide⟩⟩

/-- Bind records, requests for tiles, a core whose threads have ended, and a timed entry that is due. -/
theorem witness_LaunchEvents :
    let e : LaunchEnt := ⟨record, [0, 1], [(0, ⟨0, 5⟩), (1, ⟨5, 0⟩)], 1, none, false, [], [], [], [], none, false, []⟩
    let bal : LaunchEnt := { e with words := record.set 1 (word (3 * 2 ^ 22 + 2 ^ 30)) }
    let b : BindRec := { valid := true, launch := 4, rank := 1 }
    let s : State := { launching with binds := [(17, ({ b with rank := 0 } : BindRec)), (16, b)], launches := [(4, e)] }
    let done : State := { launching with
      binds := [(0, ({ valid := true, state := 2, launch := 4 } : BindRec))], launches := [(4, e)], cores := [(0, {})] }
    let x : TtEnt := { start := 100, period := 20000, record := 0x500000, valid := true, next := some 100, src := 1 }
    let t : State := { launching with tt := [(5, x)], time := 100 }
    (∀ z ∈ [true, false], ({ valid := true, launch := 4, rank := 1, smode := true, own := none, zeroOk := z } : BindWrite).own = none) ∧
    s.up = true ∧ (s.bind 1 0 = b ∧ tget? s.launches b.launch = some e ∧ b.valid = true ∧ b.state = 0 ∧ e.parts.idxOf? 1 = some b.rank ∧
      s.canStart 1 0 e = true ∧ s.mustEvict 1 e = false ∧ e.images = []) ∧ (e.parts.idxOf? 1 ≠ some (s.bind 1 1).rank) ∧
    (w0.bind 1 0).valid = false ∧
    (tget e.ranges 0 ⟨0, 0⟩ = ⟨0, 5⟩ ∧ tget e.ranges 1 ⟨0, 0⟩ = ⟨5, 0⟩ ∧ recBal e.words = false ∧ recBal bal.words = true ∧
      (e.ranges.map (·.1)).Pairwise (· < ·) ∧ ∀ k ∈ e.ranges, k.2.left ≤ 5 ∧ (k.2.left = 5 → 0 ≤ k.1)) ∧
    ((done.launches.find? fun x => done.coreEnded 0 x.1 x.2) = some (4, e) ∧ (∀ x ∈ s.launches, s.coreEnded 0 x.1 x.2 = false)) ∧
    (t.tt = [(5, x)] ∧ x.next = some 100 ∧ x.valid = true ∧ 100 ≤ t.time.toNat ∧ x.launch = none ∧
      (t.recordRead x.asid x.record).readRecord x.asid x.record = some record ∧ t.recordReason record x.asid = none ∧ t.freeLaunch = some 0) := by
  decide +kernel

/-- A launch whose counter DONE lies at 0x402000, a SYNC page, and whose one thread on core 0 has ended. -/
def ending : State :=
  let at_ (a v : Nat) (m : List Host.Cell) := mput a (leBytes 8 v) m
  { launching with
    mem := at_ 0x100000 0x200001 (at_ 0x200000 0x300001 (at_ 0x300010 0x301001 (at_ 0x301010 0x7C00000637 []))),
    binds := [(0, ({ valid := true, state := 2, launch := 4 } : BindRec))], cores := [(0, {})],
    launches := [(4, ⟨record, [0, 1], [], 1, none, false, [], [], [], [], none, false, []⟩)] }

theorem witness_LaunchEvents_done :
    (let x := ending.walkWith [] 0 (tget ending.mgmt.ptbase 0 0) 0x402000 true { r := true, w := true }
     x.leaf = .found 1 0x301010 0x7C00000637 ∧ x.lines.all ending.lineQuiet = true) ∧
    pteBit 0x7C00000637 5 = true ∧ ending.classifies 0x7C00000637 = false ∧ isMesh (recWord record 5) = false ∧
    paDev ((leafEntry 0 0x402000 1 0x301010 0x7C00000637 false false).pa 0x402000) = ending.devnum ∧
    ending.podGone.contains ending.devnum = false ∧
    (ending.launches.find? fun x => ending.coreEnded 0 x.1 x.2).map (·.1) = some 4 := by decide +kernel

/-! ### The debug unit and pre-emption -/

/-- A debug frame of source 1. -/
def debugs (op : DebugOp) : Frame := frame 5 9 (.debug op)

/-- Slot 0 of core 0. -/
def slot0 : DebugSel := ⟨0, 0, 0, true⟩

/-- A held thread of launch 4 that waits in CNT.WAIT, with its request. -/
def waits : State :=
  let r := typed0 0 0 9 .cntWait 0x26 7 (.wait 0)
  { one { thr with
      held := true, life := .parked .reply, wait := some ⟨.typed, 9, 1, 2654285, 4, 0x10000, 7, .none, [], none⟩,
      outs := [⟨9, 4, false, 0x10000, 0x26, .none, noLine, .home, 0⟩] } with
    net := [⟨.core 0, pool0, .typed r⟩] }

/-- The same request as an entry of its counter. -/
def entered : State :=
  { waits with net := [], waiters := [⟨1, .waiter, 0, typed0 0 0 9 .cntWait 0x26 7 (.wait 0), 7, 0, false⟩] }

/-- A launch on cores 0 and 1 with one thread. -/
def running : State :=
  { launching with
    cores := [(0, { threads := [(0, { thr with launch := some 4 })] })], binds := [(0, ({ valid := true, state := 1, launch := 4 } : BindRec))],
    launches := [(4, ⟨record, [0, 1], [], 1, none, false, [0], [], [], [], none, false, []⟩)] }

/-- The launch is being saved for request 9 of source 1. -/
def saved : State :=
  { running with
    launches := [(4, ⟨record, [0, 1], [], 1, none, false, [0], [], [], [], some (0x600000, some (1, 9)), false, []⟩)],
    sources := [(1, ⟨8, 8, [], [], [(9, 1)]⟩)] }

/-- The record at 0x500000, an image of slot 0 of rank 0 at 0x600000, and its list; `w0` is the image's first word, below 2^16. -/
def restoring (w0 : Nat) : State :=
  { launching with
    mem := [(0x500002, 0x40), (0x50000A, 0xC0), (0x500010, 10), (0x500014, 1), (0x500018, 1), (0x500021, 0x10), (0x500022, 0x40),
      (0x500029, 0x20), (0x50002A, 0x40), (0x500031, 0x20), (0x500032, 0x40), (0x600000, BitVec.ofNat 8 w0),
      (0x600001, BitVec.ofNat 8 (w0 / 256)), (0x600009, 0x14), (0x600040, 8), (0x600042, 0x40), (0x6000B0, 0xFF), (0x6000B1, 0xFF),
      (0x6000B2, 0xFF), (0x6000B3, 0xFF), (0x6000C8, 0xFF), (0x6000C9, 0xFF), (0xE00000, 0xFF), (0xE00001, 0xFF), (0xE00002, 0xFF), (0xE00003, 0xFF),
      (0xE00004, 0xFF), (0xE00005, 0xFF), (0xE00006, 0xFF), (0xE00007, 0xFF), (0xE00008, 1), (0xE00010, 0xFF), (0xE00011, 0xFF),
      (0xE00012, 0xFF), (0xE00013, 0xFF), (0xE00014, 0xFF), (0xE00015, 0xFF), (0xE00016, 0xFF), (0xE00017, 0xFF)] }

theorem debugs_inTurn (op : DebugOp) (s : State) (h : s.alarm = none ∧ s.bring = 8 ∧ tget? s.sources 1 = none ∧ s.sources.length < 64)
    (q : s.dir = [] ∧ s.net = [] ∧ s.cores.all (fun c => c.2.l1.isEmpty) = true ∨ s.mayPerform (debugs op) = true) :
    inTurn s (debugs op) 5 := by
  refine ⟨rfl, rfl, show 9 < 2 ^ 32 by decide, h.1, .inl h.2.1, q.elim (fun still => ?_) id, .inl h.2.2⟩
  cases op
  case resume record base list => exact List.all_eq_true.2 fun x _ => (quiet_reads s still _ _ _).2
  all_goals rfl

/-- A thread whose LDSY on an empty word has been cancelled before it reached its SSP. -/
def cancelled : State :=
  { one { thr with
      life := .parked .reply, wait := some ⟨.typed, 9, 1, 0x45, 4, 0x10000, 0, .none, [], none⟩,
      outs := [⟨9, 4, false, 0x10000, 0x22, .none, noLine, .home, 0⟩] } with
    net := [⟨.core 0, pool0, .typed (typed0 0 0 9 .ldsy 0x22 0 (.wait 0))⟩], cancels := [⟨0, 0, 0, 9⟩] }

theorem witness_DebugEvents_word : wordInstr (2654285) = some (.cntWait (.wait 0) false 5 4 0) := rfl

theorem witness_DebugEvents_cancelled :
    heads cancelled (.core 0) pool0 (.typed (typed0 0 0 9 .ldsy 0x22 0 (.wait 0))) [] ∧
    (wordInstr 0x45).map recordable = some true ∧ poolWord (paOff 0x7C00000000) ∧
    (cancelled.cancels.contains ⟨cancelled.devnum, 0, 0, 9⟩ = true ∧ cancelled.sspBad 0 0x7C00000000 = false ∧
      cancelled.tag 0x7C00000000 = 0 ∧ cancelled.room 0x7C00000000 1 = true ∧ cancelled.waiters = []) :=
  ⟨⟨rfl, rfl, [], [], rfl, rfl, by simp⟩, by decide +kernel, by unfold poolWord; decide, by decide +kernel⟩

theorem witness_DebugEvents :
    (inTurn w0 (debugs (.hold slot0)) 5 ∧ inTurn launching (debugs (.hold slot0)) 5 ∧ inTurn waits (debugs (.cancel slot0)) 5 ∧
      inTurn entered (debugs (.cancel slot0)) 5 ∧ (∀ cls n full, inTurn waits (debugs (.write slot0 cls n 0 full)) 5) ∧ inTurn running (debugs (.preempt 4 0x600000)) 5 ∧
      ∀ n, inTurn (restoring n) (debugs (.resume 0x500000 0x600000 0xE00000)) 5) ∧
    (slot0.zeroOk = true ∧ w0.liveCore 0 = true ∧ (w0.thread 0 0).live = true ∧ w0.saving (w0.thread 0 0) = false ∧
      (w0.thread 0 0).held = false) ∧
    ((one { thr with held := true }).thread 0 0).held = true ∧ ((one thr { flight := some 0 }).coreAt 0).flight ≠ none ∧
    (w0.liveCore 4000 = false ∧ (w0.thread 0 5).live = false) ∧
    (Part.gRegs .p16 = 32 ∧ Part.vRegs .p16 = 16 ∧ w0.members 0 = [] ∧ launching.members 3 = [0, 1]) ∧
    ([0, 1, 0x1001, 0].all (sysLegal 0x060) = true ∧ [0, 0, 8, 0].all (sysLegal 0x064) = true) ∧
    ((holding .mod).liveCore 0 = true ∧ (holding .mod).coreAt 0 ≠ {}) ∧
    (controlOk true (word (2 ^ 63 + 2 ^ 48)) = true ∧ controlOk true (word (2 ^ 63 + 2 ^ 51)) = true ∧
      controlOk true (word (2 ^ 63 + 9 * 2 ^ 48)) = false) ∧
    ((waits.thread 0 0).held = true ∧ waits.saving (waits.thread 0 0) = false ∧ (waits.coreAt 0).flight = none ∧
      recordable (.cntWait (.wait 0) false 5 4 0) = true ∧
      waits.net.any (typedInFlight waits.devnum 0 0 9) = true ∧ waits.waiters = [] ∧
      waits.cancels.contains ⟨waits.devnum, 0, 0, 9⟩ = false ∧ (entered.waiters.find? fun y => y.kind == .waiter && y.req.by entered.devnum 0 0 9).map (·.no) = some 1) ∧
    (let size := listOff 2 + 16 * 2
     let carved (off : Nat) : Bool := decide (0 < size ∧ off < 0x7E20000000 ∧ 0x7E00000000 < off + size)
     running.flights = [] ∧ (∀ b ∈ [0x600000, 0x7E20000000, 0x7DFFFFF000, 0x7FFFFFF000], b / 2 ^ 39 = running.devnum ∧ b % 4096 = 0) ∧
       (∀ b ∈ [0x600000, 0x7E20000000], (b + size - 1) / 2 ^ 39 = running.devnum ∧ carved (paOff b) = false) ∧
       (0x7DFFFFF000 + size - 1) / 2 ^ 39 = running.devnum ∧ carved (paOff 0x7DFFFFF000) = true ∧
       (0x7FFFFFF000 + size - 1) / 2 ^ 39 ≠ running.devnum) ∧
    (paOff 0x7E1FFFFFC0 < 0x7E20000000 ∧ 0x7E00000000 < paOff 0x7E1FFFFFC0 + 64 ∧
      0x8000000000 / 2 ^ 39 ≠ (restoring 0x201).devnum) := by
  refine ⟨⟨debugs_inTurn _ _ (by decide +kernel) (.inr rfl), debugs_inTurn _ _ (by decide +kernel) (.inr rfl),
    debugs_inTurn _ _ (by decide +kernel) (.inr rfl), debugs_inTurn _ _ (by decide +kernel) (.inr rfl),
    fun _ _ _ => debugs_inTurn _ _ (by decide +kernel) (.inr rfl), debugs_inTurn _ _ (by decide +kernel) (.inr rfl),
    fun n => debugs_inTurn _ _ ⟨rfl, rfl, rfl, show 0 < 64 by decide⟩ (.inl ⟨rfl, rfl, rfl⟩)⟩, ?_⟩
  decide +kernel

/-- The bytes of a line. -/
def line64 (x : Line) : List Byte := (List.range 64).map (lineByte x)

theorem peek_in_line (s : State) (a l : Nat) : ∀ n k, k + n ≤ 64 →
    s.peekBytes a (64 * l + k) n = (List.range' k n).map (lineByte (s.peekLine a l).data)
  | 0, _, _ => rfl
  | n + 1, k, h => by
    have h1 : (64 * l + k) / 64 = l := by omega
    have h2 : (64 * l + k) % 64 = k := by omega
    simp only [State.peekBytes, h1, h2, List.range'_succ, List.map_cons, ← peek_in_line s a l n (k + 1) (by omega), Nat.add_assoc]

theorem peek_append (s : State) (a : Nat) : ∀ m n off, s.peekBytes a off (m + n) = s.peekBytes a off m ++ s.peekBytes a (off + m) n
  | 0, n, off => by simp [State.peekBytes]
  | m + 1, n, off => by
    rw [show m + 1 + n = (m + n) + 1 by omega]
    simp only [State.peekBytes, List.cons_append, peek_append s a m n (off + 1), Nat.add_assoc, Nat.add_comm 1 m]

theorem peek_lines (s : State) (a l : Nat) : ∀ m, s.peekBytes a (64 * l) (64 * m) = (List.range m).flatMap fun i => line64 (s.peekLine a (l + i)).data
  | 0 => rfl
  | m + 1 => by
    rw [Nat.mul_succ, peek_append, peek_lines s a l m, List.range_succ, List.flatMap_append]
    have h := peek_in_line s a (l + m) 64 0 (by omega)
    rw [Nat.add_zero, Nat.mul_add] at h
    simp [h, line64, List.range_eq_range']

/-- The first lines of the image. -/
def head16 : List Line :=
  [1 + 2 * 2 ^ 8 + 0x1400 * 2 ^ 64, 0x400008, 0xFFFFFFFF * 2 ^ 384, 0xFFFF * 2 ^ 64, 0, 0, 0, 0, 0, 0, 0, 0, 0, 0, 0, 0]

/-- The line of the list: no tiles left to either rank, and slot 0 of rank 0. -/
def listLine : Line := 2 ^ 64 - 1 + 2 ^ 64 + (2 ^ 64 - 1) * 2 ^ 128

/-- The bytes of those lines. -/
def head1024 : List Byte :=
  let zeros (n : Nat) : List Byte := List.replicate n 0
  [1, 2] ++ zeros 7 ++ [0x14] ++ zeros 54 ++ [8, 0, 0x40] ++ zeros 109 ++ [0xFF, 0xFF, 0xFF, 0xFF] ++ zeros 20 ++ [0xFF, 0xFF] ++ zeros 822

theorem head_bytes : head16.flatMap line64 = head1024 := by decide +kernel

/-- What RESUME reads of the list and the image. -/
theorem restoring_lines :
    (∀ n ∈ [0x201, 0x202], ((restoring n).peekLine 0 0x38000).data = listLine ∧
      ((restoring n).peekLine 0 0x18000).data = BitVec.ofNat 512 (n + 0x1400 * 2 ^ 64)) ∧
    ((List.range 16).map fun i => ((restoring 0x201).peekLine 0 (0x18000 + i)).data) = head16 ∧
    ((List.range 64).map fun i => ((restoring 0x201).peekLine 0 (0x18010 + i)).data) = List.replicate 64 0 := by decide +kernel

theorem zero_lines (n : Nat) : (List.replicate n (0 : Line)).flatMap line64 = List.replicate (64 * n) 0 := by
  have hz : line64 0 = List.replicate 64 0 := by decide +kernel
  induction n with
  | zero => rfl
  | succ n ih => rw [List.replicate_succ, List.flatMap_cons, ih, hz, List.replicate_append_replicate, Nat.mul_succ, Nat.add_comm]

theorem restoring_raw (n : Nat) (h : n ∈ [0x201, 0x202]) :
    (restoring n).readImages 0 0x600000 ((restoring n).peekBytes 0 (paOff 0xE00000) 32) 2 =
      [(0, 0, (restoring n).peekBytes 0 0x600000 0x1400)] := by
  have hl : (restoring n).peekBytes 0 (paOff 0xE00000) 32 = (List.range' 0 32).map (lineByte listLine) := by
    rw [show paOff 0xE00000 = 64 * 0x38000 + 0 by decide, peek_in_line (restoring n) 0 0x38000 32 0 (by decide), (restoring_lines.1 n h).1]
  have hs : ((List.range 2).flatMap fun r => ((List.range 16).filter fun t =>
      (listEntry ((List.range' 0 32).map (lineByte listLine)) r).2.testBit t).map fun t => (r, t)) = [(0, 0)] := by
    decide +kernel
  have hw : imageLength (word8 ((restoring n).peekBytes 0 0x600000 8) 0) = 0x1400 := by
    have hp := peek_in_line (restoring n) 0 0x18000 8 0 (by decide)
    rw [(restoring_lines.1 n h).2] at hp
    rw [show 0x600000 = 64 * 0x18000 + 0 from rfl, hp]
    clear hp hl
    revert n; decide +kernel
  have key (F : Nat → Nat → Nat × Nat × List Byte) : ((List.range 2).flatMap fun r => ((List.range 16).filter fun t =>
      (listEntry ((List.range' 0 32).map (lineByte listLine)) r).2.testBit t).map fun t => F r t) = [F 0 0] := by
    have hr := congrArg (List.map fun x => F x.1 x.2) hs
    simpa only [List.map_flatMap, List.map_map, List.map_cons, List.map_nil, Function.comp_def] using hr
  rw [hl]
  refine (key _).trans ?_
  simp only [show paOff 0x600000 + imageOff 0 0 = 0x600000 by decide, hw]

/-- What RESUME reads lies in place. -/
theorem witness_DebugEvents_inPlace (n : Nat) :
    ∀ x ∈ (restoring n).resumeReads 0 0x500000 0x600000 0xE00000, readsInPlace (restoring n) 0 x.1 x.2 :=
  fun _ _ => (quiet_reads (restoring n) ⟨rfl, rfl, rfl⟩ _ _ _).1

/-- An image that RESUME takes, and one with another version. -/
theorem witness_DebugEvents_resume :
    let raw (s : State) := s.readImages 0 0x600000 (s.peekBytes 0 (paOff 0xE00000) 32) 2
    (∀ n ∈ [0x201, 0x202], (restoring n).readRecord 0 0x500000 = some record ∧ (restoring n).recordReason record 0 = none ∧
      (restoring n).freeLaunch = some 0 ∧ (restoring n).members (recGroup record) = [0, 1]) ∧ 0x600000 + listOff 2 = 0xE00000 ∧
    (∃ x, raw (restoring 0x201) = [x] ∧ (restoring 0x201).imageWrong record [0, 1] x = none) ∧
    (∃ x, raw (restoring 0x202) = [x] ∧ (restoring 0x202).imageWrong record [0, 1] x = some 1) ∧
    (restoring 0x201).recordReason record 1 ≠ none := by
  refine ⟨by decide +kernel, by decide +kernel, ⟨_, restoring_raw _ (by decide), ?_⟩, ⟨_, restoring_raw _ (by decide), ?_⟩,
    by decide +kernel⟩
  · have h : (restoring 0x201).peekBytes 0 0x600000 0x1400 = head1024 ++ List.replicate 0x1000 0 := by
      have hp := peek_append (restoring 0x201) 0 1024 0x1000 0x600000
      have hz := zero_lines 64
      rw [← restoring_lines.2.2, List.flatMap_map, ← peek_lines (restoring 0x201) 0 0x18010 64] at hz
      rw [← head_bytes, ← restoring_lines.2.1, List.flatMap_map, ← peek_lines (restoring 0x201) 0 0x18000 16, ← hz]
      exact hp
    rw [h]
    decide +kernel
  · have h : (restoring 0x202).peekBytes 0 0x600000 0x1400 =
        (List.range' 0 8).map (lineByte (BitVec.ofNat 512 (0x202 + 0x1400 * 2 ^ 64))) ++ (restoring 0x202).peekBytes 0 0x600008 0x13F8 := by
      have hp := peek_append (restoring 0x202) 0 8 0x13F8 0x600000
      rw [← (restoring_lines.1 0x202 (by decide)).2, ← peek_in_line (restoring 0x202) 0 0x18000 8 0 (by decide)]
      exact hp
    rw [h]
    decide +kernel

theorem witness_DebugEvents_save :
    (∃ e, tget? saved.launches 4 = some e ∧ e.save = some (0x600000, some (1, 9)) ∧ e.timed = none ∧ e.firmware = false ∧ e.adding = [] ∧
      ((saved.holdLaunch 4 e).cancelAll 4 e).saveQuiet 4 0x600000 e = true ∧
      ∀ n ∈ e.parts, (saved.coreAt n).mq = [] ∧ (saved.coreAt n).cq = [] ∧ (saved.coreAt n).shadow = none ∧
        (saved.coreAt n).lateq = [] ∧ (saved.coreAt n).kw = [] ∧ ∀ v < 16, (saved.thread n v).live = true →
        (saved.thread n v).launch = some 4 ∧ (saved.thread n v).life = .runnable ∧ (saved.thread n v).wait = none ∧
        (saved.thread n v).outs = [] ∧ (saved.thread n v).owed = none ∧ (saved.thread n v).deferred = [] ∧
        (saved.thread n v).reissue = none ∧ (saved.thread n v).aside = []) ∧
    saved.flights = [] ∧ (∃ h, tget? saved.sources 1 = some h ∧ h.active = [(9, 1)] ∧ h.held = []) :=
  ⟨⟨_, rfl, by decide +kernel⟩, rfl, ⟨_, rfl, rfl, rfl⟩⟩

/-- A request for a tile at the distributor, and timed entries of each rule whose last launch has not ended. -/
theorem witness_LaunchEvents_more :
    let s := msg (.core 1) .dispatch (.tnext asker 4) running
    let x (rule : Nat) (missed : Bool) : TtEnt :=
      { start := 100, period := 20000, record := 0x500000, valid := true, rule := rule, next := some 100, src := 1, launch := some 4,
        waiting := if missed then some 100 else none, save := 0x1000 }
    heads s (.core 1) .dispatch (.tnext asker 4) [] ∧ localWho s asker ∧ (tget? s.launches 4).isSome = true ∧
    (∀ rule ∈ [0, 1, 2], ∀ w ∈ [true, false], let t : State := { running with tt := [(5, x rule w)], time := 100 }
      t.tt = [(5, x rule w)] ∧ (x rule w).next = some 100 ∧ 100 ≤ t.time.toNat ∧ (x rule w).rule = rule ∧ t.flights = [] ∧
        ((tget? t.launches 4).map (·.save)) = some none) ∧
    (let late (time : Word) : State := { running with tt := [(5, { x 0 false with period := 0 })], time := time, locked := true }
     ∀ t ∈ [2000, 2101], (late (word t)).up = true ∧ (late (word t)).locked = true ∧ (late (word t)).waiters = [] ∧
       (100 + 2000 ≤ (late (word t)).time.toNat ↔ t = 2101)) ∧
    ({ launching with tt := [(5, { x 0 false with launch := none })], time := 100, groups := [] } : State).recordReason record 0 = some 5 :=
  ⟨heads_msg rfl rfl, ⟨rfl, by decide, rfl⟩, by decide +kernel, by decide +kernel, by decide +kernel, by decide +kernel⟩

/-! ### Memory encryption -/

/-- The AES-256 example of FIPS 197, appendix C.3: encryption. -/
theorem test_aes256_encrypt :
    aesEnc (List.range 32) ((List.range 16).map (17 * ·)) = beBytes 16 0x8ea2b7ca516745bfeafc49904b496089 := by decide +kernel

/-- The same example: decryption. -/
theorem test_aes256_decrypt :
    aesDec (List.range 32) (beBytes 16 0x8ea2b7ca516745bfeafc49904b496089) = (List.range 16).map (17 * ·) := by decide +kernel

/-! ### Failed parts -/

/-- A thread of core 0 that has asked device 5 for a double word, 50 ms before. -/
def asking : State :=
  { one { thr with outs := [⟨9, 0, true, 0x2008, 0x18, .g 4 3 false, noLine, .pod 5, 0⟩], gst := [(4, .pending 9 .load 0x2008)] } with
    podOut := [⟨3, 5, .request 0 0 9 0 none (.access (5 * 2 ^ 39 + 64) false (.load 8)), 0, false⟩], time := 50000000 }

/-- A launch on cores 0 and 1, with no page table registered and nothing on its way. -/
def calm : State := { running with mgmt := {} }

theorem witness_RecoveryEvents :
    (calm.alarm = none ∧ calm.liveCore 0 = true ∧ (calm.coreAt 0).l1 = [] ∧ (calm.coreAt 0).mq = [] ∧
      (calm.coreAt 0).cq = [] ∧ (calm.coreAt 0).flight = none ∧ calm.flights = [] ∧ (calm.coreAt 0).joins = [] ∧
      (calm.coreAt 0).lateq = [] ∧ (calm.coreAt 0).inbox = [] ∧ calm.mgmt.ptbase = [] ∧
      (∀ x ∈ (calm.coreAt 0).threads, x.2.outs = []) ∧ calm.waiters = [] ∧ calm.podOut = [] ∧
      ∃ e, calm.launches = [(4, e)] ∧ 0 ∈ e.parts ∧ 0 ∉ e.closed ∧ e.save = none ∧ ∃ n ∈ e.parts, n ≠ 0 ∧ n ∉ e.closed) ∧
    (State.liveCore { w0 with cores := [(767, { fenced := true })] } 767 = false ∧ ({ fenced := true } : Core).fencing = none) ∧
    (asking.up = true ∧ 5 ≠ asking.devnum ∧ asking.podGone.contains 5 = false ∧
      ({ asking with podGone := [5] } : State).podGone.contains 5 = true ∧
      asking.podOut.any (fun m => m.asks 5 0 0 9) = true ∧ asking.streams 0 0 = false ∧
      (((asking.thread 0 0).outs.find? fun o => o.id == 9).map (·.dst)) = some (.g 4 3 false) ∧
      (asking.thread 0 0).gs 4 = .pending 9 .load 0x2008 ∧ (asking.thread 0 0).wait = none ∧ (asking.thread 0 0).live = true ∧
      asking.net = [] ∧ asking.progress = [] ∧ asking.waiters = [] ∧ (asking.cores.map (·.1)).Nodup) ∧
    (threadReply asking 0 9 (.value 77) ∧ threadReply asking 0 9 (.trap 0x12 0 0)) := by
  refine ⟨⟨by decide +kernel, by decide +kernel, rfl, rfl, rfl, rfl, rfl, rfl, rfl, rfl, rfl, by decide +kernel, rfl, rfl, ?_⟩, by decide +kernel,
    by decide +kernel, ?_⟩
  · exact ⟨_, rfl, by decide +kernel⟩
  · exact ⟨⟨by decide +kernel, rfl, rfl⟩, by decide +kernel, rfl, rfl⟩

end Sys2Proof.Tests
end

section
/-! SUPPORT. Tables, lists and memories that an update maps or cuts, and the fields of MERRLOG (R376). -/

namespace Sys2Proof.Machine

open Sys2Proof

/-! ### Tables and lists -/

/-- A table whose values are all mapped, when the default is mapped to itself. -/
theorem tget_map {α : Type} (f : α → α) (t : Tab α) (k : Nat) (d : α) (hd : f d = d) :
    tget (t.map fun e => (e.1, f e.2)) k d = f (tget t k d) := by
  induction t with
  | nil => exact hd.symm
  | cons e r ih =>
    simp only [List.map_cons, tget, ih]
    split <;> rfl

/-- Inserting a number adds that number alone. -/
theorem mem_insertNat {n w : Nat} {l : List Nat} : w ∈ insertNat n l ↔ w = n ∨ w ∈ l := by
  induction l with
  | nil => simp [insertNat]
  | cons m r ih =>
    simp only [insertNat]
    split
    · simp
    · split
      · rename_i h; subst h; simp
      · rw [List.mem_cons, ih, List.mem_cons]; exact or_left_comm

/-- Memory cut at an address reads as before below it, and zero from it on. -/
theorem mread_filter_lt (m : List Host.Cell) (n a : Nat) :
    mread (m.filter fun e => decide (e.1 < n)) a = if a < n then mread m a else 0 := by
  induction m with
  | nil => simp [mread]
  | cons e r ih =>
    by_cases hn : e.1 < n
    · simp only [List.filter_cons, hn, decide_true, if_true, mread, ih]
      split
      · rename_i h; rw [if_pos (h ▸ hn)]
      · rfl
    · simp only [List.filter_cons, hn, decide_false, Bool.false_eq_true, if_false, mread, ih]
      by_cases ha : a < n
      · rw [if_pos ha, if_pos ha, if_neg (by omega)]
      · rw [if_neg ha, if_neg ha]

/-! ### MERRLOG (R376) -/

theorem toNat_merrNote (w : Word) (unit loc n : Nat) {cls : Nat} (h : cls < 4) : (merrNote w unit cls loc n).toNat =
    2 ^ 63 + unit % 8 * 2 ^ 60 + cls * 2 ^ 58 + min 65535 (fld w 32 16 + n) * 2 ^ 32 + loc % 2 ^ 21 := by
  simp only [merrNote, word, BitVec.toNat_ofNat]
  omega

/-- The entry is valid. -/
theorem bitOf_merrNote (w : Word) (unit loc n : Nat) {cls : Nat} (h : cls < 4) :
    bitOf (merrNote w unit cls loc n) 63 = true := by
  rw [bitOf, ← BitVec.testBit_toNat, toNat_merrNote w unit loc n h, Nat.testBit_eq_decide_div_mod_eq, decide_eq_true_eq]
  omega

/-- The unit of the most recent error. -/
theorem fld_merrNote_unit (w : Word) (unit loc n : Nat) {cls : Nat} (h : cls < 4) :
    fld (merrNote w unit cls loc n) 60 3 = unit % 8 := by
  rw [fld, toNat_merrNote w unit loc n h]; omega

/-- The class of the most recent error. -/
theorem fld_merrNote_cls (w : Word) (unit loc n : Nat) {cls : Nat} (h : cls < 4) :
    fld (merrNote w unit cls loc n) 58 2 = cls := by
  rw [fld, toNat_merrNote w unit loc n h]; omega

/-- The count of corrected errors. -/
theorem fld_merrNote_count (w : Word) (unit loc n : Nat) {cls : Nat} (h : cls < 4) :
    fld (merrNote w unit cls loc n) 32 16 = min 65535 (fld w 32 16 + n) := by
  rw [fld, toNat_merrNote w unit loc n h]; omega

end Sys2Proof.Machine
end

section
/-! SUPPORT. The reset state (R38, R350). -/

namespace Sys2Proof.Machine

open Sys2Proof

/-- Every core position is as a fresh core after reset. -/
theorem coreAt_reset (c : Nat) : State.reset.coreAt c = {} := rfl

/-- Every thread slot is as a fresh thread after reset. -/
theorem thread_reset (c u : Nat) : State.reset.thread c u = {} := rfl

/-- Settles O1: every core and thread of the reset state is a fresh one. -/
theorem resetState : Obligations.ResetState := by
  unfold Obligations.ResetState
  simp only [coreAt_reset, thread_reset]
  simp [State.reset]

/-- Settles O2: home memory and the table of cores are empty after reset. -/
theorem resetMemoriesCanonical : Obligations.ResetMemoriesCanonical :=
  memoriesCanonical_empty rfl rfl

end Sys2Proof.Machine
end

section
/-! SUPPORT. Bring-up, time and the security alarm (R30, R38, R330, R374). -/

namespace Sys2Proof.Machine

open Sys2Proof

/-! ### The fuse summary (R30) -/

/-- A live position of a package is at most 3,100 MHz (R27). -/
theorem fuseOk_speed {e : BitVec 32} (h : fuseOk e = true) (hl : bitOf e 31 = true) : fld e 0 16 ≤ 3100 := by
  simp only [fuseOk, hl, if_true, Bool.and_eq_true, decide_eq_true_eq] at h
  exact h.1.2

/-- The sum of the speeds of some positions. -/
theorem sum_speed_le {l : List (BitVec 32)} (h : ∀ e ∈ l, fld e 0 16 ≤ 3100) (a : Nat) :
    l.foldl (fun a e => a + fld e 0 16) a ≤ a + 3100 * l.length := by
  induction l generalizing a with
  | nil => simp
  | cons e r ih =>
    have he := h e List.mem_cons_self
    have hr := ih (fun x hx => h x (List.mem_cons_of_mem _ hx)) (a + fld e 0 16)
    simp only [List.foldl_cons, List.length_cons]
    omega

/-- The count of live positions in the summary: the sum of 768 speeds does not reach its field. -/
theorem fld_fuseSummary_count {l : List (BitVec 32)} (hl : l.length = 768) (h : ∀ e ∈ l, fuseOk e = true) :
    fld (fuseSummary l) 22 10 = (l.filter fun e => bitOf e 31).length % 1024 := by
  have hsum := sum_speed_le (l := l.filter fun e => bitOf e 31) (fun e he =>
    fuseOk_speed (h e (List.mem_filter.1 he).1) (List.mem_filter.1 he).2) 0
  have hlen := List.length_filter_le (fun e : BitVec 32 => bitOf e 31) l
  change (fuseSummary l).toNat / 2 ^ 22 % 2 ^ 10 = _
  simp only [fuseSummary, BitVec.toNat_ofNat]
  omega

/-- The fuses of a shipped package. -/
theorem fusesOk_entries {f : Fuses} (h : fusesOk f = true) : f.speed.length = 768 ∧ ∀ e ∈ f.speed, fuseOk e = true := by
  simp only [fusesOk, Bool.and_eq_true, beq_iff_eq, List.all_eq_true] at h
  exact h.1.1

/-! ### Bring-up (R38) -/

/-- The state that COLD_RESET leaves with the fuses of a shipped package. -/
def State.fused (s : State) (f : Fuses) : State :=
  { State.reset with
    speed := f.speed ++ [fuseSummary f.speed], bypass := (List.range 768).filter fun c => !bitOf (f.speed.getD c 0) 31,
    boots := s.boots + 1, mgmt := { stored := s.mgmt.stored }, agenda := s.agenda, focus := s.focus }

theorem exec_coldReset {f : Fuses} (h : fusesOk f = true) (s : State) : exec (.coldReset f) s = .next (s.fused f) := by
  change execColdReset f s = _
  simp only [execColdReset, h]
  rfl

/-- The speed table holds the fuses of every position. -/
theorem speedAt_fused {f : Fuses} (hl : f.speed.length = 768) (s : State) {c : Nat} (hc : c < 768) :
    (s.fused f).speedAt c = f.speed.getD c 0 := by
  change (f.speed ++ [fuseSummary f.speed]).getD c 0 = _
  rw [List.getD_eq_getElem?_getD, List.getElem?_append_left (hl ▸ hc), List.getD_eq_getElem?_getD]

/-- Entry 768 of the speed table is the summary (R30). -/
theorem speedAt_fused_summary {f : Fuses} (hl : f.speed.length = 768) (s : State) :
    (s.fused f).speedAt 768 = fuseSummary f.speed := by
  simp [State.speedAt, State.fused, ← hl]

/-- The dead positions are bypassed. -/
theorem mem_bypass_fused {f : Fuses} (s : State) {c : Nat} (hc : c < 768) :
    c ∈ (s.fused f).bypass ↔ bitOf (f.speed.getD c 0) 31 = false := by
  simp [State.fused, hc]

/-- Bring-up stands before a step. -/
theorem before_iff {s : State} {n : Nat} : s.before n = true ↔ s.bring + 1 = n ∧ s.bringFail = none ∧ s.alarm = none := by
  simp [State.before, and_assoc]

theorem exec_ptpFirstLock (ns : Word) (s : State) : exec (.ptpFirstLock ns) s = .next (if s.before 6 then
    { s with time := ns, frac := 0, ppm := 0, locked := true, bring := 6 } else s) := by
  change execPtpFirstLock ns s = _
  unfold execPtpFirstLock
  split <;> rfl

/-- With a stored number the release takes it when bring-up stands before step 7. -/
theorem exec_bringUpRelease_stored {s : State} {n : Nat} (h : s.mgmt.stored = some n) : exec .bringUpRelease s =
    .next (if s.before 7 then { s with devnum := n, bring := 8, groups := [], tt := [], cores := [] } else s) := by
  change execBringUpRelease s = _
  simp only [execBringUpRelease, h]
  split <;> rfl

/-- Without a stored number the release waits. -/
theorem exec_bringUpRelease_none {s : State} (h : s.mgmt.stored = none) : exec .bringUpRelease s = .next s := by
  change execBringUpRelease s = _
  simp only [execBringUpRelease, h]

/-! ### TIME (R330) -/

theorem clampInt_bounds {b : Int} (hb : 0 ≤ b) (i : Int) :
    -b ≤ clampInt b i ∧ clampInt b i ≤ b ∧ (-b ≤ i → i ≤ b → clampInt b i = i) := by
  unfold clampInt
  split
  · omega
  · split <;> omega

/-- After the first lock a message changes the rate alone. -/
theorem exec_ptpMessage {s : State} (hl : s.locked = true) (ha : s.alarm = none) (ppm : Int) :
    exec (.ptpMessage ppm) s = .next { s with ppm := clampInt 200 ppm, holdover := false } := by
  change execPtpMessage ppm s = _
  simp [execPtpMessage, hl, ha]

/-- After the first lock the loss of the grandmaster changes the rate alone. -/
theorem exec_grandmasterLoss {s : State} (hl : s.locked = true) (ha : s.alarm = none) : exec .grandmasterLoss s =
    .next { s with ppm := clampInt 10 (Config.oscillator s.txn), holdover := true, txn := s.txn + 1 } := by
  change execGrandmasterLoss s = _
  simp [execGrandmasterLoss, hl, ha]

/-! ### The security alarm (R374) -/

/-- The first alarm with a cause: what it erases, what it keeps, and its notice. -/
theorem raiseAlarm_first {s : State} {causes : BitVec 6} (hs : s.alarm = none) (hc : causes ≠ 0) (dies : BitVec 4) (reading : Nat) :
    let t := s.raiseAlarm causes dies reading
    (∃ a, t.alarm = some a ∧ a.time = s.time ∧ a.causes = causes ∧ a.dies = dies) ∧ t.rootKey = false ∧ t.cores = [] ∧
      t.dir = [] ∧ t.waiters = [] ∧ t.net = [] ∧ t.podOut = [] ∧ t.mem = s.mem ∧
      ∃ n, t.notices = s.notices ++ [n] ∧ n.typ = 0xC3 ∧ t.hostOut = s.hostOut ++ [n.out] := by
  have hif : (causes = 0 || s.alarm.isSome) = false := by simpa [hs] using hc
  simp only [State.raiseAlarm, hif]
  exact ⟨⟨_, rfl, rfl, rfl, rfl⟩, rfl, rfl, rfl, rfl, rfl, rfl, rfl, _, rfl, rfl, rfl⟩

/-- An alarm that has been raised stands. -/
theorem raiseAlarm_again {s : State} (hs : s.alarm ≠ none) (causes : BitVec 6) (dies : BitVec 4) (reading : Nat) :
    s.raiseAlarm causes dies reading = s := by
  obtain ⟨a, ha⟩ := Option.ne_none_iff_exists'.1 hs
  simp [State.raiseAlarm, ha]

/-- Settles O55: each event by what it does when it is due, and by the step that is not due otherwise. -/
theorem bringUpTimeAlarm : Obligations.BringUpTimeAlarm := by
  intro s
  refine ⟨fun f hf => ?reset, fun ns hb hf ha => ?lock, fun ns h => ?noLock, fun n hn hb hf ha => ?release, fun h => ?noRelease,
    fun ppm hl ha => ?ptp, fun hl ha => ?loss, fun causes dies reading ha hc => ?alarm,
    fun causes dies reading ha => congrArg _ (raiseAlarm_again ha causes dies reading)⟩
  case reset =>
    obtain ⟨hlen, hall⟩ := fusesOk_entries hf
    refine ⟨_, exec_coldReset hf s, rfl, rfl, rfl, rfl, rfl, rfl, rfl, rfl, rfl, rfl, rfl,
      fun c hc => speedAt_fused hlen s hc, ?_, fun c hc => mem_bypass_fused s hc⟩
    rw [speedAt_fused_summary hlen, fld_fuseSummary_count hlen hall]
  case lock => rw [exec_ptpFirstLock, if_pos (before_iff.2 ⟨by omega, hf, ha⟩)]
  case noLock =>
    rw [exec_ptpFirstLock, if_neg]
    rw [before_iff]
    rintro ⟨hb, hf, -⟩
    exact h.elim (fun h => h (by omega)) fun h => h hf
  case release => rw [exec_bringUpRelease_stored hn, if_pos (before_iff.2 ⟨by omega, hf, ha⟩)]
  case noRelease =>
    cases hn : s.mgmt.stored with
    | none => exact exec_bringUpRelease_none hn
    | some n =>
      rw [exec_bringUpRelease_stored hn, if_neg]
      rw [before_iff]
      rintro ⟨-, hf, -⟩
      exact h.elim (fun h => by simp [hn] at h) fun h => h hf
  case ptp => exact ⟨_, exec_ptpMessage hl ha ppm, clampInt_bounds (by decide) ppm⟩
  case loss =>
    obtain ⟨hlo, hhi, -⟩ := clampInt_bounds (b := 10) (by decide) (Config.oscillator s.txn)
    exact ⟨_, exec_grandmasterLoss hl ha, hlo, hhi⟩
  case alarm =>
    obtain ⟨⟨a, hal, hat, hac, had⟩, hrest⟩ := raiseAlarm_first ha hc dies reading
    exact ⟨_, a, rfl, hal, hat, hac, had, hrest⟩

end Sys2Proof.Machine
end

section
/-! SUPPORT. Clocks and the doorbell (R31, R37, R351). -/

namespace Sys2Proof.Machine

open Sys2Proof

/-- The frequency that management allows depends on the speed table and the core's own limit. -/
theorem allowed_congr {s t : State} {n : Nat} (hs : t.speed = s.speed) (hm : (t.coreAt n).mhz = (s.coreAt n).mhz) :
    t.allowed n = s.allowed n := by
  simp only [State.allowed, State.tested, State.speedAt, hs, hm]

/-- The cores are what the table of cores holds. -/
theorem coreAt_congr {s t : State} (h : t.cores = s.cores) (c : Nat) : t.coreAt c = s.coreAt c := by
  rw [State.coreAt, h, State.coreAt]

/-- A change of a core that keeps its limit. -/
theorem allowed_modCore {f : Core → Core} (hf : ∀ k, (f k).mhz = k.mhz) (s : State) (c n : Nat) :
    (s.modCore c f).allowed n = s.allowed n := by
  refine allowed_congr rfl ?_
  by_cases hn : n = c
  · rw [hn, coreAt_modCore, hf]
  · rw [coreAt_modCore_ne hn]

/-- A core in no flight runs at the frequency that management allows. -/
theorem mhz_free {s : State} {c : Nat} (h : (s.coreAt c).flight = none) : s.mhz c = s.allowed c := by
  simp only [State.mhz, h]

/-- The clock of a core in no flight is its own. -/
theorem clocked_free {s : State} {c : Nat} (h : (s.coreAt c).flight = none) : s.clocked c = [c] := by
  simp only [State.clocked, h]

/-- The notes of changed frequencies allow every core what it was allowed. -/
@[simp] theorem allowed_noteFreq (before after : State) (l : List Nat) (n : Nat) :
    (State.noteFreq before after l).allowed n = after.allowed n := by
  refine List.foldlRecOn (motive := fun t : State => t.allowed n = after.allowed n) l _ rfl fun t ht c _ => ?_
  split
  · exact ht
  · rw [allowed_modCore, ht]
    exact fun _ => rfl

/-- The limit that management sets on a core, which is none at its tested frequency. -/
def State.limited (s : State) (c mhz : Nat) : State :=
  s.modCore c fun k => { k with mhz := if mhz = s.tested c then none else some mhz }

/-- A set frequency is a limit, of which the cores of the same clock are told. -/
theorem setFreq_eq (s : State) (c mhz : Nat) : s.setFreq c mhz = State.noteFreq s (s.limited c mhz) (s.clocked c) := rfl

theorem coreAt_limited (s : State) (c mhz : Nat) :
    (s.limited c mhz).coreAt c = { s.coreAt c with mhz := if mhz = s.tested c then none else some mhz } := coreAt_modCore ..

theorem coreAt_limited_ne {c n : Nat} (h : n ≠ c) (s : State) (mhz : Nat) : (s.limited c mhz).coreAt n = s.coreAt n :=
  coreAt_modCore_ne h ..

theorem allowed_limited (s : State) (c mhz : Nat) : (s.limited c mhz).allowed c = mhz := by
  rw [State.allowed, coreAt_limited]
  dsimp only
  split
  · rename_i h; exact h.symm
  · rfl

/-- The core that a frequency is set for is allowed it. -/
@[simp] theorem allowed_setFreq (s : State) (c mhz : Nat) : (s.setFreq c mhz).allowed c = mhz := by
  rw [setFreq_eq, allowed_noteFreq, allowed_limited]

/-- Another core is allowed what it was. -/
theorem allowed_setFreq_ne {c n : Nat} (h : n ≠ c) (s : State) (mhz : Nat) : (s.setFreq c mhz).allowed n = s.allowed n := by
  rw [setFreq_eq, allowed_noteFreq]
  exact allowed_congr rfl (by rw [coreAt_limited_ne h])

/-- A core in no flight takes a frequency, and its live threads are told when it differs (R351). -/
theorem setFreq_free {s : State} {c : Nat} (h : (s.coreAt c).flight = none) (mhz : Nat) : s.setFreq c mhz =
    if s.mhz c = mhz then s.limited c mhz else (s.limited c mhz).modCore c fun k => k.post 1 := by
  have hm : (s.limited c mhz).mhz c = mhz := by
    rw [mhz_free (by rw [coreAt_limited]; exact h), allowed_limited]
  rw [setFreq_eq, clocked_free h, State.noteFreq, List.foldl_cons, List.foldl_nil, hm]
  rfl

/-- Another core is as before when a core in no flight takes a frequency. -/
theorem coreAt_setFreq_free_ne {s : State} {c n : Nat} (h : (s.coreAt c).flight = none) (hn : n ≠ c) (mhz : Nat) :
    (s.setFreq c mhz).coreAt n = s.coreAt n := by
  rw [setFreq_free h]
  split
  · exact coreAt_limited_ne hn ..
  · rw [coreAt_modCore_ne hn, coreAt_limited_ne hn]

/-- The frequency of a core in no flight is the one it takes. -/
theorem mhz_setFreq_free {s : State} {c : Nat} (h : (s.coreAt c).flight = none) (mhz : Nat) :
    (s.setFreq c mhz).mhz c = mhz := by
  rw [mhz_free, allowed_setFreq]
  rw [setFreq_free h]
  split
  · rw [coreAt_limited]; exact h
  · rw [coreAt_modCore, coreAt_limited]; exact h

/-- A posted bit is pending in every live thread. -/
theorem mem_threads_post {k : Core} {bit : Nat} {e : Nat × Thread} (he : e ∈ k.threads) (hl : e.2.live = true) :
    (e.1, { e.2 with intpend := setBit e.2.intpend bit true }) ∈ (k.post bit).threads :=
  List.mem_map.2 ⟨e, he, by rw [if_pos hl]⟩

/-- A frequency in the range of R31 holds for a live core. -/
theorem exec_freqChange_due {c mhz : Nat} {s : State} (hc : c < 768) (hu : s.up = true) (hl : s.liveCore c = true)
    (h25 : mhz % 25 = 0) (hlo : 1500 ≤ mhz) (hhi : mhz ≤ s.tested c) : exec (.freqChange c mhz) s = .next (s.setFreq c mhz) := by
  change execFreqChange c mhz s = _
  simp only [execFreqChange, coreOk, hc, hu, hl, h25, hlo, hhi, decide_true, Bool.and_self, Bool.not_true, Bool.false_eq_true,
    if_false, if_true]

/-- A frequency outside the range of R31 changes nothing. -/
theorem exec_freqChange_outside {c mhz : Nat} {s : State} (hc : c < 768) (h : s.tested c < mhz ∨ mhz < 1500) :
    exec (.freqChange c mhz) s = .next s := by
  change execFreqChange c mhz s = _
  simp only [execFreqChange, coreOk, hc, decide_true, Bool.not_true, Bool.false_eq_true, if_false, Bool.and_eq_true,
    decide_eq_true_eq]
  exact if_neg (by omega)

/-- A core of a hot die is lowered by one step, while it stays above the least frequency (R31, R37). -/
def State.lowered (s : State) (c : Nat) : State := if 1525 ≤ s.allowed c then s.setFreq c (s.allowed c - 25) else s

theorem allowed_lowered (s : State) (c : Nat) :
    (s.lowered c).allowed c = if 1525 ≤ s.allowed c then s.allowed c - 25 else s.allowed c := by
  unfold State.lowered
  split
  · exact allowed_setFreq ..
  · rfl

theorem allowed_lowered_ne {c n : Nat} (h : n ≠ c) (s : State) : (s.lowered c).allowed n = s.allowed n := by
  unfold State.lowered
  split
  · exact allowed_setFreq_ne h ..
  · rfl

/-- Each core that is named is lowered once, and the others keep their frequency. -/
theorem allowed_foldl_lowered {l : List Nat} (hl : l.Nodup) (s : State) (n : Nat) :
    (l.foldl State.lowered s).allowed n = if n ∈ l ∧ 1525 ≤ s.allowed n then s.allowed n - 25 else s.allowed n := by
  induction l generalizing s with
  | nil => simp
  | cons c r ih =>
    obtain ⟨hc, hr⟩ := List.nodup_cons.1 hl
    rw [List.foldl_cons, ih hr]
    by_cases hn : n = c
    · subst hn
      simp only [hc, false_and, if_false, allowed_lowered, List.mem_cons_self, true_and]
    · simp only [allowed_lowered_ne hn, List.mem_cons, hn, false_or]

/-- The live cores of a die. -/
def State.liveOnDie (s : State) (d : Nat) : List Nat := (List.range 768).filter fun c => dieOf c == d && s.liveCore c

theorem mem_liveOnDie {s : State} {d n : Nat} (hn : n < 768) : n ∈ s.liveOnDie d ↔ dieOf n = d ∧ s.liveCore n = true := by
  simp [State.liveOnDie, hn]

theorem nodup_liveOnDie (s : State) (d : Nat) : (s.liveOnDie d).Nodup := List.Pairwise.filter _ List.nodup_range

/-- A hot die lowers its live cores and no other. -/
theorem allowed_throttled (s : State) (d : Nat) {n : Nat} (hn : n < 768) :
    ((s.liveOnDie d).foldl State.lowered s).allowed n =
      if dieOf n = d ∧ s.liveCore n = true ∧ 1525 ≤ s.allowed n then s.allowed n - 25 else s.allowed n := by
  simp only [allowed_foldl_lowered (nodup_liveOnDie s d), mem_liveOnDie hn, and_assoc]

theorem exec_dieThrottle {d : Nat} {s : State} (hd : d < 4) (hu : s.up = true) :
    exec (.dieThrottle d) s = .next ((s.liveOnDie d).foldl State.lowered s) := by
  change execDieThrottle d s = _
  rw [execDieThrottle, if_neg (by omega), if_pos hu]
  rfl

theorem exec_firmwareDoorbell {c : Nat} (s : State) (hc : c < 768) :
    exec (.firmwareDoorbell c) s = .next (s.modCore c fun k => k.post 0) := by
  change execFirmwareDoorbell c s = _
  simp [execFirmwareDoorbell, coreOk, hc]

end Sys2Proof.Machine
end

section
/-! SUPPORT. Changes in stop bath: SPCFG and REPART (R243, R307). -/

namespace Sys2Proof.Machine

open Sys2Proof

/-! ### Lines that leave an L1 -/

/-- A state differs from another at one core in the L1's lines, with the home memory as it was. -/
def l1Only (c : Nat) (s t : State) : Prop := (∃ l, t.coreAt c = { s.coreAt c with l1 := l }) ∧ t.mem = s.mem

theorem l1Only_refl (c : Nat) (s : State) : l1Only c s s := ⟨⟨_, rfl⟩, rfl⟩

theorem l1Only_trans {c : Nat} {s t u : State} (h : l1Only c s t) (g : l1Only c t u) : l1Only c s u := by
  obtain ⟨⟨l, hl⟩, hm⟩ := h
  obtain ⟨⟨n, hn⟩, gm⟩ := g
  exact ⟨⟨n, by rw [hn, hl]⟩, gm.trans hm⟩

theorem l1Only_setLine (s : State) (c line : Nat) (l : L1Line) : l1Only c s (s.setLine c line l) :=
  ⟨⟨_, by rw [State.setLine, coreAt_modCore]⟩, rfl⟩

theorem l1Only_dropLine (s : State) (c line : Nat) : l1Only c s (s.dropLine c line) :=
  ⟨⟨_, by rw [State.dropLine, coreAt_modCore]⟩, rfl⟩

theorem l1Only_send (s : State) (c : Nat) (a b : Node) (x : Body) : l1Only c s (s.send a b x) := ⟨⟨_, rfl⟩, rfl⟩

/-- A line that leaves an L1 changes the L1's lines and the messages alone. -/
theorem l1Only_evictLine (s : State) (c line : Nat) : l1Only c s (s.evictLine c line) := by
  unfold State.evictLine
  split
  · exact l1Only_refl c s
  · split
    · exact l1Only_trans (l1Only_setLine ..) (l1Only_send ..)
    · exact l1Only_trans (l1Only_setLine ..) (l1Only_send ..)
    · exact l1Only_trans (l1Only_setLine ..) (l1Only_send ..)
    · exact l1Only_dropLine ..
    · exact l1Only_refl c s

/-- So do the lines that no longer fit. -/
theorem l1Only_fitL1 (s : State) (c : Nat) : l1Only c s (s.fitL1 c) := by
  refine List.foldlRecOn (motive := l1Only c s) _ _ (l1Only_refl c s) fun t ht line _ => ?_
  split
  · split
    · exact l1Only_trans ht (l1Only_evictLine ..)
    · exact ht
  · exact ht

/-! ### SPCFG (R243) -/

/-- A smaller scratchpad loses the bytes of the ways that leave. -/
theorem coreAt_resize_shrink {s : State} {c w : Nat} (h : w < (s.coreAt c).ways) (evicted : List Nat) :
    (s.resize c w evicted).coreAt c = { s.coreAt c with
      ways := w, spm := (s.coreAt c).spm.filter (fun e => decide (e.1 < w * 131072)),
      spmBad := (s.coreAt c).spmBad.filter (fun i => decide (i < w * 16384)) } := by
  simp only [State.resize, if_pos h, coreAt_setCore]

/-- A scratchpad that does not shrink changes the ways and the L1's lines alone. -/
theorem coreAt_resize_grow {s : State} {c w : Nat} (h : (s.coreAt c).ways ≤ w) :
    ∃ l, (s.resize c w []).coreAt c = { s.coreAt c with ways := w, l1 := l } := by
  rw [State.resize, if_neg (by omega)]
  split
  · obtain ⟨⟨l, hl⟩, -⟩ := l1Only_fitL1 (s.modCore c fun k => { k with ways := w }) c
    rw [coreAt_modCore] at hl
    exact ⟨l, hl⟩
  · have hw : w = (s.coreAt c).ways := by omega
    exact ⟨(s.coreAt c).l1, by rw [hw]⟩

/-- No change of size writes home memory. -/
theorem mem_resize (s : State) (c w : Nat) : (s.resize c w []).mem = s.mem := by
  unfold State.resize
  dsimp only
  split
  · rfl
  · split
    · exact (l1Only_fitL1 (s.modCore c fun k => { k with ways := w }) c).2
    · rfl

/-- A line of the L1 awaits an upgrade. -/
def Core.upgrades (k : Core) : Bool := k.l1.any fun e => e.2.st == .sm || e.2.st == .om

theorem upgrades_iff {k : Core} : k.upgrades = true ↔ ∃ e ∈ k.l1, e.2.st = .sm ∨ e.2.st = .om := by
  simp [Core.upgrades]

theorem upgrades_eq_false {k : Core} : k.upgrades = false ↔ ∀ e ∈ k.l1, e.2.st ≠ .sm ∧ e.2.st ≠ .om := by
  simp [Core.upgrades]

/-- The core of an SPCFG whose drains are over, before its size changes. -/
def Core.drainedSpcfg (k : Core) : Core := { k with cq := [], spcfg := none }

/-- An SPCFG with empty queues, which does not grow over a line that awaits an upgrade, takes its size, and its thread goes on. -/
theorem exec_spcfgApply_ready {s : State} {c u w : Nat} (hc : c < 768) (hs : (s.coreAt c).spcfg = some (u, w))
    (hm : (s.coreAt c).mq = []) (hq : (s.coreAt c).cq = []) (hl : (s.coreAt c).lateq = [])
    (hg : (s.coreAt c).ways < w → (s.coreAt c).upgrades = false) (evicted : List Nat) : exec (.spcfgApply c evicted) s =
      .next (((s.setCore c (s.coreAt c).drainedSpcfg).resize c w evicted).drained c u) := by
  change execSpcfgApply c evicted s = _
  have hg' : (decide ((s.coreAt c).ways < w) && (s.coreAt c).l1.any fun e => e.2.st == .sm || e.2.st == .om) = false := by
    by_cases h : (s.coreAt c).ways < w
    · rw [show ((s.coreAt c).l1.any fun e => e.2.st == .sm || e.2.st == .om) = false from hg h, Bool.and_false]
    · rw [decide_eq_false h, Bool.false_and]
  have hcq (f : CopyCmd → CopyCmd) : (s.modCore c fun k => { k with cq := k.cq.map f, spcfg := none }) =
      s.setCore c (s.coreAt c).drainedSpcfg := by
    rw [State.modCore, hq]; rfl
  simp only [execSpcfgApply, coreOk, hc, decide_true, Bool.not_true, Bool.false_eq_true, if_false, hs, hcq]
  rw [hq, hm, hl, hg']
  rfl

/-- An SPCFG waits for the queues and for upgrades. -/
theorem exec_spcfgApply_waits {s : State} {c u w : Nat} (hc : c < 768) (hs : (s.coreAt c).spcfg = some (u, w))
    (h : (s.coreAt c).mq ≠ [] ∨ (s.coreAt c).lateq ≠ [] ∨ ((s.coreAt c).ways < w ∧ (s.coreAt c).upgrades = true))
    (evicted : List Nat) : exec (.spcfgApply c evicted) s = .next s := by
  change execSpcfgApply c evicted s = _
  have hb : ((decide ((s.coreAt c).ways < w) && (s.coreAt c).upgrades) || !(s.coreAt c).mq.isEmpty ||
      !(s.coreAt c).lateq.isEmpty) = true := by
    rcases h with h | h | ⟨h, h'⟩
    · simp [h]
    · simp [h]
    · simp [h, h']
  simp only [execSpcfgApply, coreOk, hc, decide_true, Bool.not_true, Bool.false_eq_true, if_false, hs]
  rw [if_pos]
  rw [Bool.or_assoc, Bool.or_assoc, ← Bool.or_assoc (decide _ && _)]
  exact (Bool.or_eq_true _ _).mpr (.inr hb)

/-- The thread of an SPCFG goes on behind it; the rest of its core is as it was. -/
theorem drained_parked {s : State} {c u : Nat} (h : (s.thread c u).life = .parked .drain) : s.drained c u =
    s.setThread c u { s.thread c u with life := .runnable, pc := (s.thread c u).pc + 4 } := by
  rw [State.drained, State.modThread, if_pos h]

/-- A thread is what the threads of its core hold. -/
theorem thread_congr {s t : State} {c : Nat} (h : (t.coreAt c).threads = (s.coreAt c).threads) (u : Nat) :
    t.thread c u = s.thread c u := by
  rw [State.thread, h, State.thread]

/-- What an SPCFG leaves: the ways it asked for, home memory as it was, and its thread behind it. -/
def spcfgDone (s : State) (c u w : Nat) (t : State) : Prop :=
  (t.coreAt c).ways = w ∧ (t.coreAt c).spcfg = none ∧ t.mem = s.mem ∧
    t.thread c u = { s.thread c u with life := .runnable, pc := (s.thread c u).pc + 4 }

/-- A drained core that has its size is done once its thread goes on, which keeps the scratchpad. -/
theorem spcfgDone_drained {s r : State} {c u w : Nat} {m : List Host.Cell} {b : List Nat} {l : Tab L1Line}
    (hr : r.coreAt c = { (s.coreAt c).drainedSpcfg with ways := w, spm := m, spmBad := b, l1 := l }) (hm : r.mem = s.mem)
    (hd : (s.thread c u).life = .parked .drain) :
    spcfgDone s c u w (r.drained c u) ∧ ((r.drained c u).coreAt c).spm = m := by
  have hth : r.thread c u = s.thread c u := thread_congr (by rw [hr]; rfl) u
  rw [drained_parked (hth ▸ hd), hth]
  refine ⟨⟨?_, ?_, hm, thread_setThread ..⟩, ?_⟩ <;> rw [coreAt_setThread, hr]
  rfl

/-- An SPCFG to fewer ways. -/
theorem spcfgDone_shrink {s : State} {c u w : Nat} (hw : w < (s.coreAt c).ways) (hd : (s.thread c u).life = .parked .drain) :
    let t := ((s.setCore c (s.coreAt c).drainedSpcfg).resize c w []).drained c u
    spcfgDone s c u w t ∧ (t.coreAt c).spm = (s.coreAt c).spm.filter fun e => decide (e.1 < w * 131072) := by
  have hr := coreAt_resize_shrink (s := s.setCore c (s.coreAt c).drainedSpcfg) (c := c) (w := w) (by rw [coreAt_setCore]; exact hw) []
  rw [coreAt_setCore] at hr
  exact spcfgDone_drained hr (mem_resize ..) hd

/-- An SPCFG to no fewer ways. -/
theorem spcfgDone_grow {s : State} {c u w : Nat} (hw : (s.coreAt c).ways ≤ w) (hd : (s.thread c u).life = .parked .drain) :
    let t := ((s.setCore c (s.coreAt c).drainedSpcfg).resize c w []).drained c u
    spcfgDone s c u w t ∧ (t.coreAt c).spm = (s.coreAt c).spm := by
  obtain ⟨l, hr⟩ := coreAt_resize_grow (s := s.setCore c (s.coreAt c).drainedSpcfg) (c := c) (w := w)
    (by rw [coreAt_setCore]; exact hw)
  rw [coreAt_setCore] at hr
  exact spcfgDone_drained hr (mem_resize ..) hd

/-! ### REPART (R307) -/

/-- A REPART waits for the matrix queue. -/
theorem exec_repartApply_waits {s : State} {c u : Nat} {p : Part} (hc : c < 768) (hr : (s.coreAt c).repart = some (u, p))
    (hm : (s.coreAt c).mq ≠ []) : exec (.repartApply c) s = .next s := by
  change execRepartApply c s = _
  simp [execRepartApply, coreOk, hc, hr, hm]

/-- The end of a thread is noted outside the cores and the home memory. -/
theorem noteEnd_frame (s : State) (c u state cause : Nat) :
    (s.noteEnd c u state cause).cores = s.cores ∧ (s.noteEnd c u state cause).mem = s.mem := by
  unfold State.noteEnd
  split
  · exact ⟨rfl, rfl⟩
  · dsimp only
    split
    · split <;> exact ⟨rfl, rfl⟩
    · exact ⟨rfl, rfl⟩

/-- A running record that is bound to the thread's launch takes the state of its end (R334). -/
theorem bind_noteEnd {s : State} {c u l : Nat} (hl : (s.thread c u).launch = some l) (hv : (s.bind c u).valid = true)
    (hb : (s.bind c u).launch = l) (h1 : (s.bind c u).state = 1) (state cause : Nat) :
    (s.noteEnd c u state cause).bind c u = { s.bind c u with state := state, cause := cause } := by
  have hif : ((s.bind c u).valid && (s.bind c u).launch == l && ((s.bind c u).state == 1 ||
    (state == 3 && (s.bind c u).state != 0))) = true := by simp [hv, hb, h1]
  simp only [State.noteEnd, hl, hif, if_true]
  split <;> simp [State.bind, State.setBind]

/-- A quiet core starts anew in another partition, and its thread's record is as the note of its end leaves it. -/
def State.repartitioned (s : State) (c u : Nat) (p : Part) : State :=
  (s.endThread c u 2 0).modCore c fun k => { k with part := p, repart := none, threads := [] }

theorem repartitioned_frame (s : State) (c u : Nat) (p : Part) :
    (s.repartitioned c u p).coreAt c = { s.coreAt c with part := p, repart := none, threads := [] } ∧
      (s.repartitioned c u p).mem = s.mem ∧ (s.repartitioned c u p).bind c u = (s.noteEnd c u 2 0).bind c u := by
  obtain ⟨hc, hm⟩ := noteEnd_frame s c u 2 0
  refine ⟨?_, hm, rfl⟩
  rw [State.repartitioned, coreAt_modCore, State.endThread, State.modThread, coreAt_setThread, coreAt_congr hc]

/-- A quiet REPART ends its thread, and the core starts anew in the partition. -/
theorem exec_repartApply_quiet {s : State} {c u : Nat} {p : Part} (hc : c < 768) (hr : (s.coreAt c).repart = some (u, p))
    (hv : ∀ v ∈ (s.coreAt c).liveSlots, v = u) (hm : (s.coreAt c).mq = []) (hq : (s.coreAt c).cq = [])
    (hl : (s.coreAt c).lateq = []) (hk : (s.coreAt c).kw = []) (hf : (s.coreAt c).flight = none)
    (ho : relReady .pod (s.thread c u).outs = true) (hd : (s.thread c u).life = .parked .drain)
    (hh : (s.thread c u).held = false) : exec (.repartApply c) s = .next (s.repartitioned c u p) := by
  change execRepartApply c s = _
  have hall : ((s.coreAt c).liveSlots.all fun i => i == u) = true := by
    simpa only [List.all_eq_true, beq_iff_eq] using hv
  simp only [execRepartApply, coreOk, hc, decide_true, Bool.not_true, Bool.false_eq_true, if_false, hr, hall, hm, hq, hl, hk, hf,
    ho, hd, hh, List.isEmpty_nil, Option.isNone_none, beq_self_eq_true, Bool.and_self, Bool.not_false]
  rfl

end Sys2Proof.Machine
end

section
/-! SUPPORT. Background checking, rebuilt directory entries and contact sheets (R375, R376, R402, R403). -/

namespace Sys2Proof.Machine

open Sys2Proof

/-! ### Background checking (R375, R376) -/

theorem exec_scrub_core {c : Nat} (hc : c < 768) (f : Scrubbed) (s : State) :
    exec (.scrub (.core c) f) s = .next (s.scrubCore c f) := by
  change execScrub (.core c) f s = _
  simp only [execScrub, coreOk, hc, decide_true, if_true]

theorem exec_scrub_slice {n : Nat} (hn : n < 128) (f : Scrubbed) (s : State) :
    exec (.scrub (.slice n) f) s = .next (s.scrubSlice n f) := by
  change execScrub (.slice n) f s = _
  simp only [execScrub, hn, if_true]

/-- The progress of a copy command once the word of its row at a place is poison. -/
def CopyRun.poisonedAt (r : CopyRun) (i : Nat) (w : Nat × Bool) : CopyRun := { r with got := r.got.set i (w.1, true) }

/-- The started head command of a core. -/
theorem copyHead_some {s : State} {c : Nat} {r : CopyRun} (h : (s.coreAt c).cq.head?.bind (fun m => m.run) = some r) :
    ∃ m l, (s.coreAt c).cq = m :: l ∧ s.copyHead c = some (m, r) := by
  obtain ⟨m, hm, hr⟩ := Option.bind_eq_some_iff.1 h
  obtain ⟨l, hl⟩ := List.head?_eq_some_iff.1 hm
  exact ⟨m, l, hl, by simp only [State.copyHead, hl, hr, Option.map_some]⟩

/-- A damaged word of the staging buffer is poison in the row that has been read (log entry 108). -/
theorem scrubCore_staging {s : State} {c off : Nat} {r : CopyRun} {w : Nat × Bool} {m : CopyCmd} {l : List CopyCmd}
    (hq : (s.coreAt c).cq = m :: l) (hr : s.copyHead c = some (m, r)) (hw : r.got[off / 8]? = some w) :
    (s.scrubCore c (.stagingWord off)).coreAt c = { s.coreAt c with
      cq := { m with run := some (r.poisonedAt (off / 8) w) } :: l, merrlog := merrNote (s.coreAt c).merrlog 4 1 off 0 } ∧
      (s.scrubCore c (.stagingWord off)).mem = s.mem := by
  simp only [State.scrubCore, hr, hw, State.setRun, coreAt_modCore, hq]
  exact ⟨rfl, rfl⟩

/-- A word of a slice's own that cannot be corrected is poison, and an error of the slice. -/
theorem exec_scrub_homeWord {n : Nat} (hn : n < 128) (off : Nat) (s : State) : exec (.scrub (.slice n) (.homeWord off)) s =
    .next (if homedAt n off then { s with
      memBad := insertNat (off % 2 ^ 39 / 8) s.memBad, sliceErr := tset n (tget s.sliceErr n 0 + 1) s.sliceErr } else s) :=
  exec_scrub_slice hn ..

/-- A word of a stack's own that cannot be corrected is poison, and an error of the stack. -/
theorem exec_scrub_hbmWord {n : Nat} (hn : n < 128) (off : Nat) (s : State) : exec (.scrub (.slice n) (.hbmWord off)) s =
    .next (if homedAt n off then { s with
      memBad := insertNat (off % 2 ^ 39 / 8) s.memBad, hbmErr := tset (n / 16) (tget s.hbmErr (n / 16) 0 + 1) s.hbmErr } else s) :=
  exec_scrub_slice hn ..

/-! ### DIRECTORY_REBUILD (R375) -/

/-- A core without a line loses none. -/
theorem loseLine_empty (line : Nat) : ({} : Core).loseLine line = {} := rfl

/-- The dirty copies of a line that cannot be read are lost at every core. -/
def State.lost (s : State) (line : Nat) : State := { s with cores := s.cores.map fun e => (e.1, e.2.loseLine line) }

theorem coreAt_lost (s : State) (line c : Nat) : (s.lost line).coreAt c = (s.coreAt c).loseLine line :=
  tget_map (Core.loseLine line) s.cores c {} (loseLine_empty line)

/-- A modified line that cannot be read is poison throughout. -/
theorem tget?_l1_loseLine {k : Core} {line : Nat} {l : L1Line} (h : tget? k.l1 line = some l) (hs : l.st = .mod)
    (hp : l.via.priv = false) : tget? (k.loseLine line).l1 line = some { l with lv := { l.lv with bad := 0xFF } } := by
  simp only [Core.loseLine, h, hs, hp, L1St.dirty, Bool.not_false, Bool.and_self, if_true, tget?_tset_same]

/-- The home's request that recalls a line from every L1. -/
def State.recallReq (s : State) (line : Nat) : HomeReq :=
  ⟨⟨s.devnum, 0, 0, 0⟩, (s.dirAt line).asid, line, false, false, .flush⟩

/-- A recall of a line with copies waits for its sharers and its owner. -/
theorem conflicts_recallReq (s : State) (line : Nat) (b : Bool) :
    (s.dirAt line).conflicts (s.recallReq line) b = ((s.dirAt line).sharers, (s.dirAt line).owner) := by
  simp [DirEnt.conflicts, State.recallReq]

/-- A recall of a line that only its owner holds asks the owner for it. -/
theorem homeArrive_recall_owner {s : State} {line o : Nat} (ho : (s.dirAt line).owner = some o) (hs : (s.dirAt line).sharers = [])
    (hb : (s.dirAt line).busy = none) (hq : (s.dirAt line).queue = []) : s.homeArrive (s.recallReq line) =
      (s.setDir line { s.dirAt line with busy := some ⟨s.recallReq line, [o], none⟩ }).send (lineSlice line) (.core o)
        (.fwd line true .home) := by
  have hc := conflicts_recallReq s line (s.marked line)
  rw [ho, hs] at hc
  have hline : (s.recallReq line).line = line := rfl
  have hpriv : ((s.recallReq line).priv || (s.recallReq line).sync) = false := rfl
  simp [State.homeArrive, State.homeBegin, hpriv, hline, hb, hq, hc]

/-- A recall of an owned line leaves every core as it is until its messages arrive. -/
theorem cores_homeArrive_recall {s : State} {line o : Nat} (ho : (s.dirAt line).owner = some o) :
    (s.homeArrive (s.recallReq line)).cores = s.cores := by
  have hc := conflicts_recallReq s line (s.marked line)
  rw [ho] at hc
  have hline : (s.recallReq line).line = line := rfl
  have hpriv : ((s.recallReq line).priv || (s.recallReq line).sync) = false := rfl
  simp only [State.homeArrive, State.homeBegin, hpriv, hline, hc, Bool.false_eq_true, if_false, Option.isNone_some, Bool.and_false]
  split
  · rfl
  · exact List.foldlRecOn (motive := fun t : State => t.cores = s.cores) _ _ rfl fun t ht _ _ => ht

/-- An entry without copies needs no rebuilding. -/
theorem exec_directoryRebuild_empty {s : State} {line : Nat} (ho : (s.dirAt line).owner = none)
    (hs : (s.dirAt line).sharers = []) (lost : Bool) : exec (.directoryRebuild ⟨line, lost⟩) s = .next s := by
  change execDirectoryRebuild ⟨line, lost⟩ s = _
  simp [execDirectoryRebuild, ho, hs]

/-- An owned line is recalled. -/
theorem exec_directoryRebuild_owned {s : State} {line o : Nat} (ho : (s.dirAt line).owner = some o) :
    exec (.directoryRebuild ⟨line, false⟩) s = .next (s.homeArrive (s.recallReq line)) := by
  change execDirectoryRebuild ⟨line, false⟩ s = _
  simp only [execDirectoryRebuild, ho, Option.isNone_some, Bool.false_and, Bool.false_eq_true, if_false]
  rfl

/-- An owned line whose dirty copy cannot be read is recalled once the copy is poison. -/
theorem exec_directoryRebuild_lost {s : State} {line o : Nat} (ho : (s.dirAt line).owner = some o) :
    exec (.directoryRebuild ⟨line, true⟩) s = .next ((s.lost line).homeArrive ((s.lost line).recallReq line)) := by
  change execDirectoryRebuild ⟨line, true⟩ s = _
  simp only [execDirectoryRebuild, ho, Option.isNone_some, Bool.false_and, Bool.false_eq_true, if_false, if_true]
  rfl

/-! ### Contact sheets (R402, R403) -/

/-- What a sheet holds after a sample. -/
theorem sheetSample_words (t : Sheet) (v : Nat) :
    let y := sheetSample t v
    let b := 4 + binOf (fld (word (tget t 0 0)) 40 5) v
    tget y 0 0 = tget t 0 0 ∧ tget y 1 0 = (tget t 1 0 + 1) % 2 ^ 64 ∧ tget y 2 0 = min (tget t 2 0) v ∧
      tget y 3 0 = max (tget t 3 0) v ∧ tget y b 0 = min (2 ^ 32 - 1) (tget t b 0 + 1) := by
  dsimp only [sheetSample]
  generalize hb : 4 + binOf (fld (word (tget t 0 0)) 40 5) v = b
  have h4 : 4 ≤ b := by omega
  refine ⟨?_, ?_, ?_, ?_, ?_⟩
  · rw [tget_tset_ne (by omega), tget_tset_ne (by decide), tget_tset_ne (by decide), tget_tset_ne (by decide)]
  · rw [tget_tset_ne (by omega), tget_tset_ne (by decide), tget_tset_ne (by decide), tget_tset_same]
  · rw [tget_tset_ne (by omega), tget_tset_ne (by decide), tget_tset_same, tget_tset_ne (by decide)]
  · rw [tget_tset_ne (by omega), tget_tset_same, tget_tset_ne (by decide), tget_tset_ne (by decide)]
  · rw [tget_tset_same, tget_tset_ne (by omega), tget_tset_ne (by omega), tget_tset_ne (by omega)]

/-- A core's sheet reads as it was written. -/
theorem sheetAt_setSheet_core (s : State) (c i : Nat) (t : Sheet) : (s.setSheet (.core c) i t).sheetAt (.core c) i = t := by
  simp only [State.sheetAt, State.setSheet, coreAt_modCore, tget_tset_same]

/-- The source that a sheet's control word selects (R403). -/
def sheetSource (t : Sheet) : Nat := fld (word (tget t 0 0)) 48 8

/-- A sheet of a core admits a sample of a slot: its source measures no thread, or the filter names the slot (R402; log entry 101). -/
def sheetAdmits (t : Sheet) (slot : Nat) : Prop :=
  sheetSource t = 5 ∨ sheetSource t = 6 ∨ sheetSource t = 7 ∨ (fld (word (tget t 0 0)) 0 16).testBit slot = true

/-- A sheet of a core takes a sample when it is enabled and admits the slot. -/
theorem sheetTakes_core {s : State} {c i slot : Nat} : s.sheetTakes (.core c) i slot = true ↔
    bitOf (word (tget (s.sheetAt (.core c) i) 0 0)) 63 = true ∧ sheetAdmits (s.sheetAt (.core c) i) slot := by
  simp only [State.sheetTakes, slotSource, sheetAdmits, sheetSource, Bool.and_eq_true, Bool.or_eq_true, Bool.not_eq_true',
    Bool.and_eq_false_iff, bne_eq_false_iff_eq, or_assoc]

/-- The sample of a core's sheet: the depth of the matrix queue, the lines that carry PM, or what the event brings (R403). -/
theorem sheetValue_core (s : State) (c source z : Nat) : s.sheetValue (.core c) source z =
    if source = 5 then (s.coreAt c).mq.length else if source = 6 then ((s.coreAt c).l1.filter fun e => e.2.pm).length else z := by
  unfold State.sheetValue
  split
  case h_1 h => cases h; rfl
  case h_2 h => cases h; rfl
  case h_3 h => cases h
  case h_4 h => cases h
  case h_5 h5 h6 _ _ => rw [if_neg (h5 c rfl), if_neg (h6 c rfl)]

/-- What the event does with a sheet of a core and the value of its source. -/
theorem exec_contactSheetSample_core {c i : Nat} (hc : c < 768) (hi : i < 8) (slot : Nat) {z v : Nat} {s : State}
    (hv : s.sheetValue (.core c) (sheetSource (s.sheetAt (.core c) i)) z = v) (hlt : v < 2 ^ 64) :
    exec (.contactSheetSample (.core c) i ⟨slot, z⟩) s = .next
      (if sheetSource (s.sheetAt (.core c) i) ≠ 8 ∧ s.sheetTakes (.core c) i slot = true then
        s.setSheet (.core c) i (sheetSample (s.sheetAt (.core c) i) v) else s) := by
  change execContactSheetSample (.core c) i ⟨slot, z⟩ s = _
  rw [sheetSource] at hv
  simp only [execContactSheetSample, coreOk, hc, hi, hv, hlt, decide_true, Bool.and_true, Bool.not_true, Bool.false_eq_true,
    if_false, ownSource, sheetSource, Bool.and_eq_true, Bool.not_eq_true', beq_eq_false_iff_ne]
  exact (apply_ite Host.Outcome.next _ _ _).symm

/-- The only sheet of a core, when it measures the gaps of a slot, takes the gap that an issue of the slot ends (R403). -/
theorem sheetAt_noteIssue {s : State} {c i slot n : Nat} {x : Sheet} (hk : (s.coreAt c).sheets = [(i, x)])
    (hb : bitOf (word (tget x 0 0)) 63 = true) (ha : sheetAdmits x slot) (h8 : sheetSource x = 8)
    (hn : tget? (s.coreAt c).issued slot = some n) (now_ : Nat) :
    (s.noteIssue c slot now_).sheetAt (.core c) i = sheetSample x (word now_ - word n).toNat ∧
      (s.noteIssue c slot now_).mem = s.mem := by
  have hx : s.sheetAt (.core c) i = x := by simp [State.sheetAt, hk, tget]
  have ht : s.sheetTakes (.core c) i slot = true := sheetTakes_core.2 (by rw [hx]; exact ⟨hb, ha⟩)
  have hs : s.sample (.core c) 8 slot (word now_ - word n).toNat =
      s.setSheet (.core c) i (sheetSample x (word now_ - word n).toNat) := by
    have h8' : (fld (word (tget x 0 0)) 48 8 == 8) = true := beq_iff_eq.2 h8
    simp only [State.sample, State.sheetsOf, hk, tkeys, List.map_cons, List.map_nil, List.foldl_cons, List.foldl_nil, hx, ht, h8',
      BitVec.isLt, decide_true, Bool.and_self, if_true]
  simp only [State.noteIssue, hn, hs]
  refine ⟨?_, rfl⟩
  simp only [State.sheetAt, coreAt_modCore]
  exact sheetAt_setSheet_core s c i _

/-! ### The events at a core or a slice -/

/-- Settles O56: each event by its equation where it is due, and by what the state it gives then holds. -/
theorem coreAndSliceEvents : Obligations.CoreAndSliceEvents := by
  intro s c hc k
  refine ⟨fun mhz hu hl hf h25 hlo hhi => ?freq, fun mhz h => exec_freqChange_outside hc h, fun d hd hu => ?throttle, ?doorbell,
    fun u w hs hm hq hl hd => ?spcfg,
    fun u w hs h => exec_spcfgApply_waits hc hs (h.imp_right (Or.imp_right (And.imp_right upgrades_iff.2))) [],
    fun u p hr hv hm hq hl hk hf ho hd hh => ?repart, fun u p hr hm => exec_repartApply_waits hc hr hm,
    fun unit loc n hun => ?corrected, fun off => ?spmWord, fun off r w hr hw => ?staging,
    fun n m hn => ⟨exec_scrub_slice hn _ s, exec_scrub_slice hn _ s⟩, fun n off hn => ?poisons,
    fun line o d hd ho hsh hb hq => ?rebuild, fun line l ho hl hst hp => ?lost,
    fun line lost ho hsh => exec_directoryRebuild_empty ho hsh lost,
    fun i slot z v hi => ?sheet⟩
  case freq =>
    refine ⟨_, exec_freqChange_due hc hu hl h25 hlo hhi, mhz_setFreq_free hf mhz, fun n hn => coreAt_setFreq_free_ne hf hn mhz,
      fun hne e he hle => ?_, fun heq => ?_⟩
    · rw [setFreq_free hf, if_neg (Ne.symm hne), coreAt_modCore, coreAt_limited]
      exact mem_threads_post he hle
    · rw [setFreq_free hf, if_pos heq.symm, coreAt_limited]
  case throttle =>
    refine ⟨_, exec_dieThrottle hd hu, fun n hn => ?_⟩
    rw [allowed_throttled s d hn]
    refine ⟨fun hdn hln h => if_pos ⟨hdn, hln, h⟩, fun h => if_neg ?_⟩
    rintro ⟨hdn, hln, hlow⟩
    rcases h with h | h | h
    · exact h hdn
    · exact absurd (hln.symm.trans h) (by decide)
    · omega
  case doorbell =>
    refine ⟨_, exec_firmwareDoorbell s hc, fun n hn => coreAt_modCore_ne hn .., ?_⟩
    rw [coreAt_modCore]; rfl
  case spcfg =>
    refine ⟨fun hw => ?_, fun hw hup => ?_⟩
    · obtain ⟨hdone, hspm⟩ := spcfgDone_shrink hw hd
      exact ⟨_, exec_spcfgApply_ready hc hs hm hq hl (fun h => absurd h (Nat.lt_asymm hw)) [], hdone, fun a => by
        rw [hspm, mread_filter_lt]⟩
    · obtain ⟨hdone, hspm⟩ := spcfgDone_grow hw hd
      exact ⟨_, exec_spcfgApply_ready hc hs hm hq hl (fun _ => upgrades_eq_false.2 hup) [], hdone, hspm⟩
  case repart =>
    obtain ⟨hcore, hmem, hbind⟩ := repartitioned_frame s c u p
    refine ⟨_, exec_repartApply_quiet hc hr hv hm hq hl hk hf ho hd hh, ?_, ?_, ?_, hmem, ?_, fun n hl hv hb h1 => ?_⟩
    iterate 4 rw [hcore]
    rw [hbind, bind_noteEnd hl hv hb h1]
  case corrected =>
    refine ⟨_, exec_scrub_core hc _ s, rfl, ?_⟩
    rw [State.scrubCore, coreAt_modCore]
    refine ⟨rfl, rfl, bitOf_merrNote _ _ _ _ (by decide), ?_, fld_merrNote_cls _ _ _ _ (by decide),
      fld_merrNote_count _ _ _ _ (by decide)⟩
    rw [fld_merrNote_unit _ _ _ _ (by decide)]; omega
  case spmWord =>
    refine ⟨_, exec_scrub_core hc _ s, ?_⟩
    rw [State.scrubCore, coreAt_modCore]
    exact ⟨rfl, fun w => mem_insertNat, fld_merrNote_cls _ _ _ _ (by decide)⟩
  case staging =>
    obtain ⟨m, l, hq, hh⟩ := copyHead_some hr
    obtain ⟨hcore, hmem⟩ := scrubCore_staging hq hh hw
    refine ⟨_, r.poisonedAt (off / 8) w, exec_scrub_core hc _ s, hmem, ?_, rfl, ?_, ?_⟩ <;> rw [hcore]
    · rfl
    · exact fld_merrNote_unit _ _ _ _ (by decide)
    · exact fld_merrNote_cls _ _ _ _ (by decide)
  case poisons =>
    have hhome := exec_scrub_homeWord hn off s
    have hstack := exec_scrub_hbmWord hn off s
    refine ⟨⟨fun h => ?_, fun h => ?_⟩, fun h => ?_, fun h => ?_⟩
    · rw [hhome, if_pos h]
      exact ⟨_, rfl, rfl, rfl, fun w => mem_insertNat, tget_tset_same .., rfl⟩
    · rw [hhome, if_neg (by simp [h])]
    · rw [hstack, if_pos h]
      exact ⟨_, rfl, rfl, rfl, fun w => mem_insertNat, tget_tset_same .., rfl⟩
    · rw [hstack, if_neg (by simp [h])]
  case rebuild =>
    subst hd
    have hev := exec_directoryRebuild_owned ho
    rw [homeArrive_recall_owner ho hsh hb hq] at hev
    exact ⟨_, _, hev, tget_tset_same .., rfl, rfl, rfl, rfl⟩
  case lost =>
    refine ⟨_, exec_directoryRebuild_lost ho, ?_⟩
    rw [coreAt_congr (cores_homeArrive_recall (s := s.lost line) ho), coreAt_lost]
    exact tget?_l1_loseLine hl hst hp
  case sheet =>
    intro x w source hv hlt admits sampled
    have hev := exec_contactSheetSample_core hc hi slot ((sheetValue_core s c _ z).trans hv.symm) hlt
    refine ⟨fun hb ha h8 => ⟨s.setSheet (.core c) i (sheetSample x v), ?_, rfl, ?_⟩, fun n now_ hk hb ha h8 hn => ?_, fun h => ?_⟩
    · rw [hev, if_pos ⟨h8, sheetTakes_core.2 ⟨hb, ha⟩⟩]
    · rw [sheetAt_setSheet_core]
      exact sheetSample_words x v
    · obtain ⟨hsheet, hmem⟩ := sheetAt_noteIssue hk hb ha h8 hn now_
      refine ⟨hmem, ?_⟩
      rw [hsheet]
      exact sheetSample_words x _
    · rw [hev, if_neg]
      rintro ⟨h8, ht⟩
      obtain ⟨hb, ha⟩ := sheetTakes_core.1 ht
      rcases h with h | h | h
      · exact absurd (hb.symm.trans h) (by decide)
      · exact h ha
      · exact h8 h

end Sys2Proof.Machine
end

section
/-! SUPPORT. Rounding of an exact magnitude to an integer (R115). -/

namespace Sys2Proof.Machine

open Sys2Proof

/-! ### Rounding to an integer -/

/-- The integer part is the integer that RZ and the modes that round the magnitude down choose. -/
theorem integerPart_bounds (m d : Nat) : m / 2 ^ d * 2 ^ d ≤ m ∧ m < (m / 2 ^ d + 1) * 2 ^ d :=
  ⟨Nat.div_mul_le_self .., by rw [Nat.mul_comm]; exact Nat.lt_mul_div_succ m (Nat.two_pow_pos d)⟩

/-- The integer part, plus one when a fraction is left, is the integer that the modes that round the magnitude up choose. -/
theorem ceiling_bounds (m d : Nat) :
    let y := if m % 2 ^ d != 0 then m / 2 ^ d + 1 else m / 2 ^ d
    m ≤ y * 2 ^ d ∧ y * 2 ^ d < m + 2 ^ d := by
  have hpos := Nat.two_pow_pos d
  have hm := Nat.div_add_mod' m (2 ^ d)
  have hr := Nat.mod_lt m hpos
  by_cases h : m % 2 ^ d = 0
  · simp only [h, bne_self_eq_false, Bool.false_eq_true, if_false]
    omega
  · simp only [bne_iff_ne.2 h, if_true, Nat.succ_mul]
    omega

/-- The integer part, plus one when the fraction is above a half or is a half over an odd integer part, is what RNE chooses. -/
theorem nearestEven_bounds (neg : Bool) (m d : Nat) : roundsTo .rne neg m d (roundNat .rne neg m d).1 := by
  have hm := Nat.div_add_mod' m (2 ^ d)
  have hr := Nat.mod_lt m (Nat.two_pow_pos d)
  by_cases up : 2 * (m % 2 ^ d) > 2 ^ d ∨ 2 * (m % 2 ^ d) = 2 ^ d ∧ m / 2 ^ d % 2 = 1
  · have hy : (roundNat .rne neg m d).1 = m / 2 ^ d + 1 := if_pos (by simpa using up)
    rw [hy, roundsTo, Nat.succ_mul (m / 2 ^ d)]
    omega
  · have hy : (roundNat .rne neg m d).1 = m / 2 ^ d := if_neg (by simpa using up)
    rw [hy, roundsTo]
    omega

/-- `roundNat` answers the integer that the mode chooses (R115). -/
theorem roundNat_roundsTo (rm : Rounding) (neg : Bool) (m d : Nat) : roundsTo rm neg m d (roundNat rm neg m d).1 := by
  cases rm with
  | rne => exact nearestEven_bounds neg m d
  | rz => exact integerPart_bounds m d
  | ru =>
    cases neg with
    | false => simpa [roundsTo, roundNat] using ceiling_bounds m d
    | true => simpa [roundsTo, roundNat] using integerPart_bounds m d
  | rd =>
    cases neg with
    | false => simpa [roundsTo, roundNat] using integerPart_bounds m d
    | true => simpa [roundsTo, roundNat] using ceiling_bounds m d

/-- A rounding is inexact when a fraction is left. -/
theorem roundNat_inexact (rm : Rounding) (neg : Bool) (m d : Nat) : (roundNat rm neg m d).2 = true ↔ ¬ 2 ^ d ∣ m := by
  simp [roundNat, Nat.dvd_iff_mod_eq_zero]

/-- Settles O19: the integer by the bounds of its mode, the mark by the remainder. -/
theorem roundingModes : Obligations.RoundingModes :=
  fun rm neg m d => ⟨roundNat_roundsTo rm neg m d, roundNat_inexact rm neg m d⟩

end Sys2Proof.Machine
end

section
/-! SUPPORT. The frame of the vector instructions and the width tag that VGET clears (R59, R153, R323). -/

namespace Sys2Proof.Machine

open Sys2Proof

/-- VGET writes the lane that g[B] names to g[D] (R153). -/
theorem vget_gives {z : Size} {y : Bool} {b : GReg} {a : VReg} {d : GReg} {s : State}
    (h : canIssue (.vget z y b a d) s = true) :
    gives (.vget z y b a d) s ((s.wg d (word (s.vl a (sizeBits z) ((s.rg b).toNat % (512 / sizeBits z))))).advance 4) := by
  unfold gives exec execVget
  exact issue_ready h _

/-- The thread after the WATCH traps of one destination. -/
theorem th_watchDsts_one (s t : State) (r : RegClass × Nat) (maj : Nat) :
    (State.watchDsts s t [r] maj).th = t.th.transition r.1 r.2 maj (s.regSt r.1 r.2) (t.regSt r.1 r.2) := by
  simp [State.watchDsts]

/-- VGET gives g[D] the width tag of its value: a tag 00 that STRM.POS gave the register (log entry 2) is no longer noted. -/
theorem tag00_of_vget {z : Size} {y : Bool} {b : GReg} {a : VReg} {d : GReg} {s t : State} (hd : d.val ≠ 0)
    (h : canIssue (.vget z y b a d) s = true) (ht : exec (.vget z y b a d) s = .next t) :
    t.th.tag00 = s.th.tag00.filter (· != d.val) := by
  have hg : exec _ s = _ := vget_gives h
  obtain rfl := Host.Outcome.next.inj (ht.symm.trans hg)
  rw [show dstsOf (.vget z y b a d) = [gdst d] from rfl, th_watchDsts_one, Thread.transition_tag00, advance_eq, wg_eq]
  simp [Thread.putG, hd]

/-- A thread that read its stream position into g3: the register has the width tag 00 of STRM.POS (R323). -/
def positionRead : State := State.reset.setTh { tag00 := [3] }

/-- Refutes O24: VGET to g3, whose width tag 00 STRM.POS had given, gives g3 the tag of its new value and so
changes `Thread.tag00`, a field that `Thread.rest` compares. -/
theorem not_vectorFrame : ¬ Obligations.VectorFrame := by
  intro frame
  have hissue : canIssue (.vget .b false 4 2 3) positionRead = true := by decide
  obtain ⟨t, hexec, _, hrest, _⟩ := frame (.vget .b false 4 2 3) positionRead rfl hissue
  have hkept : t.th.tag00 = [3] := congrArg Thread.tag00 hrest
  have hcleared : t.th.tag00 = [] := tag00_of_vget (by decide) hissue hexec
  exact absurd (hkept.symm.trans hcleared) (by decide)

end Sys2Proof.Machine
end

section
/-! SUPPORT. The lane-wise floating instructions (R116, R120, R143, R145). -/

namespace Sys2Proof.Machine

open Sys2Proof

/-- Instruction `i` gives lane j of v[D] the bits and the flags of `g j` where the mask m[M] is 1. -/
def givesLanes (i : Instr) (s : State) (m : Reg8) (d : VReg) (w : Nat) (g : Nat → Nat × Flags) : Prop :=
  ∃ l fl, gives i s ((s.setTh ((s.th.putV d l).raise fl)).advance 4) ∧
    lanesAre l w (fun j => if bitOf (s.th.mv m) j then (g j).1 % 2 ^ w else lane (s.rv d) w j) ∧
    flagsOf (s.th.mv m) (512 / w) (fun j => (g j).2) fl

/-- A lane-wise floating instruction that may issue gives its lanes, in the mode FPFLAGS.RM. -/
theorem vfOp_givesLanes {i : Instr} {m : Reg8} {srcs : List VReg} {d : VReg} {reads : Bool} {k : FType}
    {f : Rounding → Nat → Nat × Flags} {s : State} (hexec : exec i s = vfOp i m srcs d reads k f s)
    (hissue : { instr := i, srcs := srcs.map vsrc, dsts := [vdst d], reads := readDst m d reads } = issueOf i)
    (h : canIssue i s = true) : givesLanes i s m d (FType.fmt k).width (f s.th.rm) := by
  refine ⟨_, _, ?_, fun j hj => lane_mergeLanes (s.th.mv m) (s.rv d) _ j _ hj, fun n _ => bitOf_laneFlags ..⟩
  rw [gives, hexec, vfOp, hissue, issue_ready h]
  simp only [wv_eq, modTh_eq, th_setTh, setTh_setTh]
  rfl

/-- One of the five arithmetic instructions gives the exact results of the lanes of A, B and D, rounded once. -/
theorem vfArith_givesLanes {i : Instr} {m : Reg8} {b a d : VReg} {reads : Bool} {k : FType} {s : State}
    (f : Rounding → FVal → FVal → FVal → Option FVal) (hexec : exec i s = vfArith i m b a d reads k f s)
    (hissue : { instr := i, srcs := [a, b].map vsrc, dsts := [vdst d], reads := readDst m d reads } = issueOf i)
    (h : canIssue i s = true) : givesLanes i s m d (FType.fmt k).width fun j =>
      let x (r : VReg) := (FType.fmt k).val (lane (s.rv r) (FType.fmt k).width j)
      (FType.fmt k).finish s.th.rm (f s.th.rm (x a) (x b) (x d)) :=
  vfOp_givesLanes (f := fun rm n => (FType.fmt k).finish rm (f rm ((FType.fmt k).val (s.vl a (FType.fmt k).width n))
    ((FType.fmt k).val (s.vl b (FType.fmt k).width n)) ((FType.fmt k).val (s.vl d (FType.fmt k).width n)))) hexec hissue h

/-- VMIN and VMAX give the minimum and the maximum of the lanes of A and B, and no flag. -/
theorem vfMinmax_givesLanes {i : Instr} {m : Reg8} {b a d : VReg} {k : FType} {s : State} (wantMax : Bool)
    (hexec : exec i s = vfOp i m [a, b] d false k (fun _ n => ((FType.fmt k).minmax wantMax
      (s.vl a (FType.fmt k).width n) (s.vl b (FType.fmt k).width n), 0)) s)
    (hissue : { instr := i, srcs := [a, b].map vsrc, dsts := [vdst d], reads := readDst m d false } = issueOf i)
    (h : canIssue i s = true) : givesLanes i s m d (FType.fmt k).width fun j =>
      ((FType.fmt k).minmax wantMax (lane (s.rv a) (FType.fmt k).width j) (lane (s.rv b) (FType.fmt k).width j), 0) :=
  vfOp_givesLanes (f := fun _ n => ((FType.fmt k).minmax wantMax
      (s.vl a (FType.fmt k).width n) (s.vl b (FType.fmt k).width n), 0)) hexec hissue h

/-- VUN gives its function of the lanes of A (R146). -/
theorem vun_givesLanes {m : Reg8} {f : VFn} {a d : VReg} {k : FType} {s : State} (h : canIssue (.vun m f a d k) s = true) :
    givesLanes (.vun m f a d k) s m d (FType.fmt k).width fun j =>
      vunLane (FType.fmt k) f (lane (s.rv a) (FType.fmt k).width j) :=
  vfOp_givesLanes (srcs := [a]) (reads := false) (f := fun _ n => vunLane (FType.fmt k) f (s.vl a (FType.fmt k).width n)) rfl
    (by rw [readDst_false]; rfl) h

end Sys2Proof.Machine
end

section
/-! SUPPORT. The functions of VUN on NaN, infinities, zeros and negative operands, and how a bf16 result is written (R146). -/

namespace Sys2Proof.Machine

open Sys2Proof

/-- A bf16 result as VUN writes it into a lane of a format: as it is, or rounded once more (R146). -/
def writeLane (ft : Fmt) (y : Nat × Flags) : Nat × Flags :=
  if ft = Fmt.bf16 then y else ((ft.round .rne (Fmt.bf16.val y.1)).1, y.2 ||| (ft.round .rne (Fmt.bf16.val y.1)).2)

/-- The six functions of VUN round to bf16 and then write the lane. -/
theorem vunLane_rounds {f : VFn} (ha : f ≠ .abs) (hn : f ≠ .neg) (ft : Fmt) (code : Nat) :
    vunLane ft f code = writeLane ft (Fmt.bf16.finish .rne (vunVal f (ft.val code))) := by
  cases f with
  | abs => exact absurd rfl ha
  | neg => exact absurd rfl hn
  | _ => rfl

/-! ### What is written of a special result -/

theorem writeLane_nan (k : FType) : writeLane (FType.fmt k) (Fmt.bf16.finish .rne (some .nan)) = ((FType.fmt k).canon, 0) := by
  cases k <;> decide

theorem writeLane_invalid (k : FType) :
    writeLane (FType.fmt k) (Fmt.bf16.finish .rne none) = ((FType.fmt k).canon, Flags.invalid) := by
  cases k <;> decide

theorem writeLane_inf (k : FType) (n : Bool) : writeLane (FType.fmt k) (Fmt.bf16.finish .rne (some (.inf n))) =
    ((FType.fmt k).code n ((FType.fmt k).inf.getD 0), 0) := by
  cases k <;> cases n <;> decide

theorem writeLane_zero (k : FType) (n : Bool) :
    writeLane (FType.fmt k) (Fmt.bf16.finish .rne (some (.fin n 0 0))) = ((FType.fmt k).code n 0, 0) := by
  cases k <;> cases n <;> decide

theorem writeLane_one (k : FType) (n : Bool) : writeLane (FType.fmt k) (Fmt.bf16.finish .rne (some (.fin n 1 0))) =
    ((FType.fmt k).code n ((FType.fmt k).bias * 2 ^ (FType.fmt k).m), 0) := by
  cases k <;> cases n <;> decide

/-- A NaN operand gives the canonical NaN, of all eight functions. -/
theorem vunLane_nan {k : FType} {code : Nat} (hv : (FType.fmt k).val code = .nan) (f : VFn) :
    vunLane (FType.fmt k) f code = ((FType.fmt k).canon, 0) := by
  cases f with
  | abs | neg => simp [vunLane, hv]
  | _ => rw [vunLane_rounds (by decide) (by decide), hv]; exact writeLane_nan k

/-- ABS clears the sign bit of an operand that is no NaN. -/
theorem vunLane_abs {ft : Fmt} {code : Nat} (hv : ft.val code ≠ .nan) :
    vunLane ft .abs code = (code % 2 ^ (ft.width - 1), 0) := by
  rw [Fmt.width, Nat.add_assoc, Nat.add_sub_cancel_left]; exact if_neg hv

/-- NEG inverts the sign bit of an operand that is no NaN. -/
theorem vunLane_neg {ft : Fmt} {code : Nat} (hv : ft.val code ≠ .nan) :
    vunLane ft .neg code = ((code + 2 ^ (ft.width - 1)) % 2 ^ ft.width, 0) := by
  rw [Fmt.width, Nat.add_assoc, Nat.add_sub_cancel_left, Nat.pow_add 2 1]; exact if_neg hv

/-- One of the six functions on an operand of known value. -/
theorem vunLane_of_val {k : FType} {code : Nat} {v : FVal} (hv : (FType.fmt k).val code = v) (f : VFn)
    (ha : f ≠ .abs := by decide) (hn : f ≠ .neg := by decide) :
    vunLane (FType.fmt k) f code = writeLane (FType.fmt k) (Fmt.bf16.finish .rne (vunVal f v)) := by
  rw [vunLane_rounds ha hn, hv]

theorem vunLane_of_result {k : FType} {code : Nat} {v r : FVal} {f : VFn} (hv : (FType.fmt k).val code = v)
    (hr : vunVal f v = some r) (ha : f ≠ .abs := by decide) (hn : f ≠ .neg := by decide) :
    vunLane (FType.fmt k) f code = writeLane (FType.fmt k) (Fmt.bf16.round .rne r) := by
  rw [vunLane_of_val hv f ha hn, hr]; rfl

/-- LOG2, RSQ and SQRT of a negative operand that is not zero are invalid. -/
theorem vunVal_negative {f : VFn} {m : Nat} (hm : m ≠ 0) (e : Int) (hf : f = .log2 ∨ f = .rsq ∨ f = .sqrt) :
    vunVal f (.fin true m e) = none := by
  rcases hf with rfl | rfl | rfl <;> simp [vunVal, hm]

/-- The integer of a finite value has one bit more than the format's fraction. -/
theorem val_fin_lt {ft : Fmt} {code m : Nat} {n : Bool} {e : Int} (h : ft.val code = .fin n m e) : m < 2 ^ (ft.m + 1) := by
  rw [Fmt.val] at h
  split at h
  · cases h
  · split at h
    · cases h
    · split at h
      case isTrue hsub =>
        cases h
        have := (Nat.div_eq_zero_iff_lt (Nat.two_pow_pos _)).1 hsub
        omega
      case isFalse =>
        cases h
        have := Nat.mod_lt (code % 2 ^ (ft.e + ft.m)) (Nat.two_pow_pos ft.m)
        omega

/-- A finite value of the three formats has an integer of at most 24 bits. -/
theorem val_fin_lt_24 {k : FType} {code m : Nat} {n : Bool} {e : Int} (h : (FType.fmt k).val code = .fin n m e) : m < 2 ^ 24 :=
  Nat.lt_of_lt_of_le (val_fin_lt h) (Nat.pow_le_pow_right (by decide) (by cases k <;> decide))

end Sys2Proof.Machine
end

section
/-! SUPPORT. Powers of two as rational numbers, and the place of a value's highest bit. -/

namespace Sys2Proof.Machine

open Sys2Proof

theorem two_zpow_pos (e : Int) : (0 : Rat) < 2 ^ e := Rat.zpow_pos (by decide)

theorem two_zpow_add (a b : Int) : (2 : Rat) ^ (a + b) = 2 ^ a * 2 ^ b := Rat.zpow_add (by decide) a b

theorem two_zpow_natCast (k : Nat) : (2 : Rat) ^ (k : Int) = (2 ^ k : Nat) := by
  rw [Rat.zpow_natCast, Rat.natCast_pow]; rfl

theorem two_zpow_neg_mul (e : Int) : (2 : Rat) ^ (-e) * 2 ^ e = 1 := by
  rw [← two_zpow_add, Int.add_left_neg, Rat.zpow_zero]

/-- Halving the unit doubles the number. -/
theorem double_mul_two_zpow (x : Rat) (e : Int) : 2 * x * 2 ^ (e - 1) = x * 2 ^ e := by
  have h : (2 : Rat) ^ e = 2 ^ (e - 1) * 2 := by
    rw [← Rat.zpow_add_one (by decide), Int.sub_add_cancel]
  rw [h]; grind

theorem two_zpow_le {a b : Int} (h : a ≤ b) : (2 : Rat) ^ a ≤ 2 ^ b := by
  obtain ⟨k, rfl⟩ := Int.le.dest h
  have hone : (1 : Rat) ≤ (2 ^ k : Nat) := Rat.natCast_le_natCast.2 Nat.one_le_two_pow
  rw [two_zpow_add, two_zpow_natCast]
  simpa using Rat.mul_le_mul_of_nonneg_left hone (Rat.le_of_lt (two_zpow_pos a))

/-- A greater power of two has a greater exponent. -/
theorem lt_of_two_zpow_lt {a b : Int} (h : (2 : Rat) ^ a < 2 ^ b) : a < b :=
  Int.lt_of_not_ge fun hle => Rat.not_le.2 h (two_zpow_le hle)

theorem two_zpow_lt_succ (e : Int) : (2 : Rat) ^ e < 2 ^ (e + 1) := by
  have hpos := two_zpow_pos e
  rw [Rat.zpow_add_one (by decide)]
  grind

/-- A power of two that is not smaller has no smaller exponent. -/
theorem le_of_two_zpow_le {a b : Int} (h : (2 : Rat) ^ a ≤ 2 ^ b) : a ≤ b :=
  Int.le_of_not_gt fun hlt => Rat.not_le.2 (two_zpow_lt_succ b) (Rat.le_trans (two_zpow_le hlt) h)

theorem mul_two_zpow_inj {x y : Rat} {e : Int} (h : x * 2 ^ e = y * 2 ^ e) : x = y := by
  have hunit := two_zpow_neg_mul e
  grind

/-- The place of the highest bit of m × 2^e bounds its value. -/
theorem value_bounds {m : Nat} (hm : m ≠ 0) (e : Int) :
    (2 : Rat) ^ ((Nat.log2 m : Int) + e) ≤ m * 2 ^ e ∧ (m * 2 ^ e : Rat) < 2 ^ ((Nat.log2 m : Int) + e + 1) := by
  have hlow : ((2 ^ Nat.log2 m : Nat) : Rat) ≤ m := Rat.natCast_le_natCast.2 (Nat.log2_self_le hm)
  have hhigh : (m : Rat) < (2 ^ (Nat.log2 m + 1) : Nat) := Rat.natCast_lt_natCast.2 Nat.lt_log2_self
  have hnext : (Nat.log2 m : Int) + e + 1 = (Nat.log2 m + 1 : Nat) + e := by omega
  rw [hnext, two_zpow_add, two_zpow_add, two_zpow_natCast, two_zpow_natCast]
  exact ⟨Rat.mul_le_mul_of_nonneg_right hlow (Rat.le_of_lt (two_zpow_pos e)), Rat.mul_lt_mul_of_pos_right hhigh (two_zpow_pos e)⟩

end Sys2Proof.Machine
end

section
/-! SUPPORT. The values that RCP, SQRT and RSQ round: exact, or odd multiples beside the exact value (R146). -/

namespace Sys2Proof.Machine

open Sys2Proof

/-! ### A value cut off with a sticky last bit -/

/-- q × 2^z stands for the number that `g` takes to `aim`: it is that number when q is even, and shares the open interval between
its even neighbours with it when q is odd, with q of 21 bits or more. -/
def standsFor (g : Rat → Rat) (aim : Rat) (q : Nat) (z : Int) : Prop :=
  2 ^ 20 ≤ q ∧ (q % 2 = 0 → g (q * 2 ^ z) = aim) ∧ (q % 2 = 1 → g ((q - 1) * 2 ^ z) < aim ∧ aim < g ((q + 1) * 2 ^ z))

/-- An integer part n of 20 bits or more, with whether more follows, stands for the number. On multiples of 2^e the function is
an integer function `p` in units of 2^u, and the aim is `a` such units. -/
theorem jam_standsFor {g : Rat → Rat} {aim : Rat} {p : Nat → Nat} {a n : Nat} {e u : Int} {more : Bool}
    (hg : ∀ x : Nat, g (x * 2 ^ e) = p x * 2 ^ u) (haim : aim = a * 2 ^ u) (hn : 2 ^ 19 ≤ n)
    (hexact : more = false → p n = a) (hmore : more = true → p n < a ∧ a < p (n + 1)) :
    ∃ q z, jam n more e = .fin false q z ∧ standsFor g aim q z := by
  subst haim
  cases more with
  | false =>
    refine ⟨2 * n, e - 1, rfl, by omega, fun _ => ?_, fun h => by omega⟩
    rw [Rat.natCast_mul, Rat.natCast_ofNat, double_mul_two_zpow, hg, hexact rfl]
  | true =>
    refine ⟨2 * n + 1, e - 1, rfl, by omega, fun h => by omega, fun _ => ?_⟩
    obtain ⟨hbelow, habove⟩ := hmore rfl
    have hcast : ((2 * n + 1 : Nat) : Rat) = 2 * n + 1 := by rw [Rat.natCast_add, Rat.natCast_mul]; rfl
    have hlow : ((2 * n + 1 : Nat) : Rat) - 1 = 2 * n := by grind
    have hhigh : ((2 * n + 1 : Nat) : Rat) + 1 = 2 * (n + 1 : Nat) := by grind [Rat.natCast_add]
    rw [hlow, hhigh, double_mul_two_zpow, double_mul_two_zpow, hg, hg]
    exact ⟨Rat.mul_lt_mul_of_pos_right (Rat.natCast_lt_natCast.2 hbelow) (two_zpow_pos u),
      Rat.mul_lt_mul_of_pos_right (Rat.natCast_lt_natCast.2 habove) (two_zpow_pos u)⟩

/-! ### RCP -/

theorem rcpOf_standsFor {m : Nat} (hm : m ≠ 0) (e : Int) :
    ∃ q z, rcpOf m e = .fin false q z ∧ standsFor (fun y => m * 2 ^ e * y) 1 q z := by
  have hpos := Nat.pos_of_ne_zero hm
  have hsize : 2 ^ 19 * m ≤ 2 ^ (Nat.log2 m + 20) := by
    have := @Nat.lt_log2_self m
    rw [show Nat.log2 m + 20 = Nat.log2 m + 1 + 19 from rfl, Nat.pow_add 2 (Nat.log2 m + 1) 19]
    omega
  simp only [rcpOf]
  generalize Nat.log2 m + 20 = k at *
  have hdiv := Nat.div_add_mod (2 ^ k) m
  have hmod := Nat.mod_lt (2 ^ k) hpos
  refine jam_standsFor (p := fun x => m * x) (a := 2 ^ k) (u := -(k : Int)) (fun x => ?_) ?_ ?_ (fun h => ?_) (fun h => ?_)
  · have hunit : (2 : Rat) ^ (-(k : Int)) = 2 ^ e * 2 ^ (-(k : Int) - e) := by
      rw [← two_zpow_add]; congr 1; omega
    rw [hunit, Rat.natCast_mul]; grind
  · rw [← two_zpow_natCast, Rat.mul_comm, two_zpow_neg_mul]
  · exact (Nat.le_div_iff_mul_le hpos).2 hsize
  · have h := bne_eq_false_iff_eq.1 h
    omega
  · have h := bne_iff_ne.1 h
    rw [Nat.mul_succ]
    omega

/-! ### The integer square root -/

/-- The root found bit by bit is the integer part of the root, when the bits that are left reach beyond it. -/
theorem isqrt_bounds {n : Nat} : ∀ {i r : Nat}, r * r ≤ n → n < (r + 2 ^ i) * (r + 2 ^ i) →
    isqrt n i r * isqrt n i r ≤ n ∧ n < (isqrt n i r + 1) * (isqrt n i r + 1)
  | 0, _, hlow, hhigh => ⟨hlow, hhigh⟩
  | i + 1, r, hlow, hhigh => by
    have hsum : r + 2 ^ i + 2 ^ i = r + 2 ^ (i + 1) := by rw [Nat.pow_succ]; omega
    rw [isqrt]
    split
    case isTrue h => exact isqrt_bounds h (by rwa [hsum])
    case isFalse h => exact isqrt_bounds hlow (Nat.lt_of_not_le h)

/-- From zero, `i` bits are enough for the root of a number below 4^i. -/
theorem isqrt_zero_bounds {n i : Nat} (h : n < 2 ^ i * 2 ^ i) :
    isqrt n i 0 * isqrt n i 0 ≤ n ∧ n < (isqrt n i 0 + 1) * (isqrt n i 0 + 1) :=
  isqrt_bounds (Nat.zero_le n) (by rwa [Nat.zero_add])

/-- A number whose square is not above n is not above the integer part of the root of n. -/
theorem le_root {k n r : Nat} (hk : k * k ≤ n) (hr : n < (r + 1) * (r + 1)) : k ≤ r := by
  refine Nat.le_of_not_lt fun hlt => ?_
  have hsq : (r + 1) * (r + 1) ≤ k * k := Nat.mul_le_mul hlt hlt
  omega

/-! ### SQRT and RSQ -/

/-- A function of m × 2^e that doubles m for an odd e has a property of the value that it has for an even e. -/
theorem evenExponent {f : Nat → Int → FVal} {P : Rat → FVal → Prop} {b : Nat}
    (hodd : ∀ m e, e % 2 ≠ 0 → f m e = f (2 * m) (e - 1))
    (heven : ∀ m e, e % 2 = 0 → m ≠ 0 → m < 2 * b → P (m * 2 ^ e) (f m e))
    {m : Nat} (hm : m ≠ 0) (hb : m < b) (e : Int) : P (m * 2 ^ e) (f m e) := by
  by_cases he : e % 2 = 0
  · exact heven m e he hm (by omega)
  · have hvalue : (m * 2 ^ e : Rat) = (2 * m : Nat) * 2 ^ (e - 1) := by
      rw [Rat.natCast_mul, Rat.natCast_ofNat, double_mul_two_zpow]
    rw [hodd m e he, hvalue]
    exact heven (2 * m) (e - 1) (by omega) (by omega) (by omega)

theorem sqrtOf_odd (m : Nat) (e : Int) (h : e % 2 ≠ 0) : sqrtOf m e = sqrtOf (2 * m) (e - 1) := by
  have h' : (e - 1) % 2 = 0 := by omega
  simp only [sqrtOf, h, h', if_true, if_false]

theorem rsqOf_odd (m : Nat) (e : Int) (h : e % 2 ≠ 0) : rsqOf m e = rsqOf (2 * m) (e - 1) := by
  have h' : (e - 1) % 2 = 0 := by omega
  simp only [rsqOf, h, h', if_true, if_false]

theorem sqrtOf_even_standsFor (m : Nat) (e : Int) (he : e % 2 = 0) (hm : m ≠ 0) (hb : m < 2 * 2 ^ 24) :
    ∃ q z, sqrtOf m e = .fin false q z ∧ standsFor (fun y => y * y) (m * 2 ^ e) q z := by
  obtain ⟨hlow, hhigh⟩ := isqrt_zero_bounds (n := m * 2 ^ 40) (i := 40) (by omega)
  simp only [sqrtOf, he, if_true]
  refine jam_standsFor (p := fun x => x * x) (a := m * 2 ^ 40) (u := e - 40) (fun x => ?_) ?_ ?_ (fun h => ?_) (fun h => ?_)
  · have hunit : (2 : Rat) ^ (e - 40) = 2 ^ (e / 2 - 20) * 2 ^ (e / 2 - 20) := by
      rw [← two_zpow_add]; congr 1; omega
    rw [hunit, Rat.natCast_mul]; grind
  · have hunit : (2 : Rat) ^ e = (2 ^ 40 : Nat) * 2 ^ (e - 40) := by
      rw [← two_zpow_natCast, ← two_zpow_add]; congr 1; omega
    rw [hunit, Rat.natCast_mul, Rat.mul_assoc]
  · exact le_root (by omega) hhigh
  · exact bne_eq_false_iff_eq.1 h
  · exact ⟨Nat.lt_of_le_of_ne hlow (bne_iff_ne.1 h), hhigh⟩

theorem rsqOf_even_standsFor (m : Nat) (e : Int) (he : e % 2 = 0) (hm : m ≠ 0) (hb : m < 2 * 2 ^ 24) :
    ∃ q z, rsqOf m e = .fin false q z ∧ standsFor (fun y => m * 2 ^ e * (y * y)) 1 q z := by
  have hpos := Nat.pos_of_ne_zero hm
  obtain ⟨hlow, hhigh⟩ := isqrt_zero_bounds (n := 2 ^ 80 / m) (i := 41) (Nat.lt_of_le_of_lt (Nat.div_le_self _ _) (by decide))
  have hlow' := (Nat.le_div_iff_mul_le hpos).1 hlow
  have hhigh' := (Nat.div_lt_iff_lt_mul hpos).1 hhigh
  simp only [rsqOf, he, if_true]
  refine jam_standsFor (p := fun x => x * x * m) (a := 2 ^ 80) (u := -80) (fun x => ?_) ?_ ?_ (fun h => ?_) (fun h => ?_)
  · have hunit : (2 : Rat) ^ (-80 : Int) = 2 ^ e * (2 ^ (-(e / 2) - 40) * 2 ^ (-(e / 2) - 40)) := by
      rw [← two_zpow_add, ← two_zpow_add]; congr 1; omega
    rw [hunit, Rat.natCast_mul, Rat.natCast_mul]; grind
  · rw [← two_zpow_natCast, Rat.mul_comm]
    exact (two_zpow_neg_mul 80).symm
  · exact le_root ((Nat.le_div_iff_mul_le hpos).2 (by omega)) hhigh
  · exact bne_eq_false_iff_eq.1 h
  · exact ⟨Nat.lt_of_le_of_ne hlow' (bne_iff_ne.1 h), hhigh'⟩

theorem sqrtOf_standsFor {m : Nat} (hm : m ≠ 0) (hb : m < 2 ^ 24) (e : Int) :
    ∃ q z, sqrtOf m e = .fin false q z ∧ standsFor (fun y => y * y) (m * 2 ^ e) q z :=
  evenExponent (P := fun u v => ∃ q z, v = .fin false q z ∧ standsFor (fun y => y * y) u q z)
    sqrtOf_odd sqrtOf_even_standsFor hm hb e

theorem rsqOf_standsFor {m : Nat} (hm : m ≠ 0) (hb : m < 2 ^ 24) (e : Int) :
    ∃ q z, rsqOf m e = .fin false q z ∧ standsFor (fun y => m * 2 ^ e * (y * y)) 1 q z :=
  evenExponent (P := fun u v => ∃ q z, v = .fin false q z ∧ standsFor (fun y => u * (y * y)) 1 q z)
    rsqOf_odd rsqOf_even_standsFor hm hb e

end Sys2Proof.Machine
end

section
/-! SUPPORT. EXP2 of integers and beyond bf16's range, and LOG2 of powers of two (R146). -/

namespace Sys2Proof.Machine

open Sys2Proof

/-! ### EXP2 -/

/-- A value has its highest bit at 2^9 or above exactly when it is 512 or more. -/
theorem nine_le_iff {m : Nat} (hm : m ≠ 0) (e : Int) : (Nat.log2 m : Int) + e ≥ 9 ↔ (512 : Rat) ≤ m * 2 ^ e := by
  obtain ⟨hlow, hhigh⟩ := value_bounds hm e
  have h9 : (512 : Rat) = 2 ^ (9 : Int) := (two_zpow_natCast 9).symm
  rw [h9]
  refine ⟨fun h => Rat.le_trans (two_zpow_le h) hlow, fun h => ?_⟩
  have := lt_of_two_zpow_lt (Rat.not_le.1 fun hle => Rat.not_le.2 hhigh (Rat.le_trans hle h))
  omega

/-- A value that is a natural number has it as its integer part, and no fraction. -/
theorem integer_parts {m j : Nat} {e : Int} (hu : (m * 2 ^ e : Rat) = j) :
    (if e ≥ 0 then m * 2 ^ e.toNat else m / 2 ^ (-e).toNat) = j ∧ (if e ≥ 0 then 0 else m % 2 ^ (-e).toNat) = 0 := by
  by_cases he : e ≥ 0
  · have hpow : (2 : Rat) ^ e = (2 ^ e.toNat : Nat) := by rw [← two_zpow_natCast, Int.toNat_of_nonneg he]
    rw [hpow, ← Rat.natCast_mul] at hu
    rw [if_pos he, if_pos he]
    exact ⟨Rat.natCast_inj.1 hu, rfl⟩
  · have hpow : (2 : Rat) ^ (-e) = (2 ^ (-e).toNat : Nat) := by rw [← two_zpow_natCast, Int.toNat_of_nonneg (by omega)]
    have hm : (m : Rat) = j * 2 ^ (-e) := by
      rw [← hu, Rat.mul_assoc, Rat.mul_comm (2 ^ e), two_zpow_neg_mul, Rat.mul_one]
    rw [hpow, ← Rat.natCast_mul] at hm
    rw [if_neg he, if_neg he, Rat.natCast_inj.1 hm]
    exact ⟨Nat.mul_div_cancel _ (Nat.two_pow_pos _), Nat.mul_mod_left ..⟩

/-- EXP2 of an integer is exact. -/
theorem exp2Of_integer {m j : Nat} {e : Int} (hm : m ≠ 0) (hu : (m * 2 ^ e : Rat) = j) (hj : j < 512) (n : Bool) :
    exp2Of n m e = .fin false 1 (if n then -(j : Int) else j) := by
  have hsmall : ¬ (Nat.log2 m : Int) + e ≥ 9 := by
    rw [nine_le_iff hm, hu]
    exact Rat.not_le.2 (Rat.natCast_lt_natCast.2 hj)
  obtain ⟨hwhole, hfrac⟩ := integer_parts hu
  simp only [exp2Of, hsmall, if_false, hfrac, if_true, hwhole]

/-- For EXP2 of a value of 512 or more stands a power outside bf16's range. -/
theorem exp2Of_large {m : Nat} {e : Int} (hm : m ≠ 0) (hu : (512 : Rat) ≤ m * 2 ^ e) (n : Bool) :
    exp2Of n m e = jam 1 true (if n then -400 else 400) := by
  rw [exp2Of, if_pos ((nine_le_iff hm e).2 hu)]
  cases n <;> rfl

/-- Those powers underflow and overflow in bf16. -/
theorem finish_outOfRange (n : Bool) : Fmt.bf16.finish .rne (some (jam 1 true (if n then -400 else 400))) =
    if n then (0, Flags.underflow ||| Flags.inexact) else (0x7F80, Flags.overflow ||| Flags.inexact) := by
  cases n <;> decide +kernel

/-! ### LOG2 -/

/-- A value that is a power of two has one bit, at the place of its exponent. -/
theorem powerOfTwo_parts {m : Nat} {e j : Int} (hm : m ≠ 0) (hu : (m * 2 ^ e : Rat) = 2 ^ j) :
    m = 2 ^ Nat.log2 m ∧ (Nat.log2 m : Int) + e = j := by
  obtain ⟨hlow, hhigh⟩ := value_bounds hm e
  rw [hu] at hlow hhigh
  have hlt := lt_of_two_zpow_lt hhigh
  have hle := le_of_two_zpow_le hlow
  have hj : (Nat.log2 m : Int) + e = j := by omega
  refine ⟨?_, hj⟩
  rw [← hj, two_zpow_add, two_zpow_natCast] at hu
  exact Rat.natCast_inj.1 (mul_two_zpow_inj hu)

/-- LOG2 of a power of two is exact. -/
theorem log2Of_powerOfTwo {m : Nat} {e j : Int} (hm : m ≠ 0) (hu : (m * 2 ^ e : Rat) = 2 ^ j) :
    log2Of m e = .fin (decide (j < 0)) j.natAbs 0 := by
  obtain ⟨hpow, hj⟩ := powerOfTwo_parts hm hu
  simp only [log2Of, hj, if_pos hpow]

end Sys2Proof.Machine
end

section
/-! SUPPORT. What VUN gives on infinities, zeros and finite values, and the statement on the lane-wise floating instructions
(R145, R146). -/

namespace Sys2Proof.Machine

open Sys2Proof

/-! ### Infinities and zeros -/

theorem vunLane_exp2_inf {k : FType} {code : Nat} {n : Bool} (hv : (FType.fmt k).val code = .inf n) :
    vunLane (FType.fmt k) .exp2 code =
      if n then ((FType.fmt k).code false 0, 0) else ((FType.fmt k).code false ((FType.fmt k).inf.getD 0), 0) := by
  cases n with
  | true => exact (vunLane_of_val hv .exp2).trans (writeLane_zero k false)
  | false => exact (vunLane_of_val hv .exp2).trans (writeLane_inf k false)

theorem vunLane_log2_sqrt_inf {k : FType} {f : VFn} (hf : f = .log2 ∨ f = .sqrt) {code : Nat} {n : Bool}
    (hv : (FType.fmt k).val code = .inf n) : vunLane (FType.fmt k) f code =
      if n then ((FType.fmt k).canon, Flags.invalid) else ((FType.fmt k).code false ((FType.fmt k).inf.getD 0), 0) := by
  rcases hf with rfl | rfl <;> cases n with
  | true => exact (vunLane_of_val hv _).trans (writeLane_invalid k)
  | false => exact (vunLane_of_val hv _).trans (writeLane_inf k false)

theorem vunLane_rsq_inf {k : FType} {code : Nat} {n : Bool} (hv : (FType.fmt k).val code = .inf n) :
    vunLane (FType.fmt k) .rsq code =
      if n then ((FType.fmt k).canon, Flags.invalid) else ((FType.fmt k).code false 0, 0) := by
  cases n with
  | true => exact (vunLane_of_val hv .rsq).trans (writeLane_invalid k)
  | false => exact (vunLane_of_val hv .rsq).trans (writeLane_zero k false)

/-! ### Finite values -/

/-- A lane holds the rounding of a value with sign `n` that stands for the number that `g` takes to `aim`. -/
def roundsNear (ft : Fmt) (c : Nat × Flags) (n : Bool) (g : Rat → Rat) (aim : Rat) : Prop :=
  ∃ (q : Nat) (z : Int), 2 ^ 20 ≤ q ∧ c = writeLane ft (Fmt.bf16.round .rne (.fin n q z)) ∧
    (q % 2 = 0 → g (q * 2 ^ z) = aim) ∧ (q % 2 = 1 → g ((q - 1) * 2 ^ z) < aim ∧ aim < g ((q + 1) * 2 ^ z))

theorem roundsNear_of_standsFor {ft : Fmt} {c : Nat × Flags} {n : Bool} {g : Rat → Rat} {aim : Rat} {q : Nat} {z : Int}
    (hc : c = writeLane ft (Fmt.bf16.round .rne (.fin n q z))) (hq : standsFor g aim q z) : roundsNear ft c n g aim :=
  ⟨q, z, hq.1, hc, hq.2⟩

section
variable {k : FType} {code : Nat} {n : Bool} {m : Nat} {e : Int}

theorem vunLane_rcp (hv : (FType.fmt k).val code = .fin n m e) (hm : m ≠ 0) :
    roundsNear (FType.fmt k) (vunLane (FType.fmt k) .rcp code) n (fun y => m * 2 ^ e * y) 1 := by
  obtain ⟨q, z, hvalue, hq⟩ := rcpOf_standsFor hm e
  have hval : vunVal .rcp (.fin n m e) = some (.fin n q z) := by
    cases n <;> simp [vunVal, hm, hvalue, FVal.neg]
  exact roundsNear_of_standsFor (vunLane_of_result hv hval) hq

theorem vunLane_sqrt (hv : (FType.fmt k).val code = .fin false m e) (hm : m ≠ 0) :
    roundsNear (FType.fmt k) (vunLane (FType.fmt k) .sqrt code) false (fun y => y * y) (m * 2 ^ e) := by
  obtain ⟨q, z, hvalue, hq⟩ := sqrtOf_standsFor hm (val_fin_lt_24 hv) e
  have hval : vunVal .sqrt (.fin false m e) = some (.fin false q z) := by simp [vunVal, hm, hvalue]
  exact roundsNear_of_standsFor (vunLane_of_result hv hval) hq

theorem vunLane_rsq (hv : (FType.fmt k).val code = .fin false m e) (hm : m ≠ 0) :
    roundsNear (FType.fmt k) (vunLane (FType.fmt k) .rsq code) false (fun y => m * 2 ^ e * (y * y)) 1 := by
  obtain ⟨q, z, hvalue, hq⟩ := rsqOf_standsFor hm (val_fin_lt_24 hv) e
  have hval : vunVal .rsq (.fin false m e) = some (.fin false q z) := by simp [vunVal, hm, hvalue]
  exact roundsNear_of_standsFor (vunLane_of_result hv hval) hq

theorem vunLane_exp2_integer (hv : (FType.fmt k).val code = .fin n m e) (hm : m ≠ 0) {j : Nat} (hu : (m * 2 ^ e : Rat) = j)
    (hj : j < 512) : vunLane (FType.fmt k) .exp2 code =
      writeLane (FType.fmt k) (Fmt.bf16.round .rne (.fin false 1 (if n then -(j : Int) else j))) :=
  vunLane_of_result hv (by rw [vunVal, if_neg hm, exp2Of_integer hm hu hj])

theorem vunLane_exp2_large (hv : (FType.fmt k).val code = .fin n m e) (hm : m ≠ 0) (hu : (512 : Rat) ≤ m * 2 ^ e) :
    vunLane (FType.fmt k) .exp2 code = writeLane (FType.fmt k)
      (if n then (0, Flags.underflow ||| Flags.inexact) else (0x7F80, Flags.overflow ||| Flags.inexact)) := by
  rw [vunLane_of_val hv .exp2, vunVal, if_neg hm, exp2Of_large hm hu, finish_outOfRange]

theorem vunLane_log2_powerOfTwo (hv : (FType.fmt k).val code = .fin false m e) (hm : m ≠ 0) {j : Int}
    (hu : (m * 2 ^ e : Rat) = 2 ^ j) : vunLane (FType.fmt k) .log2 code =
      writeLane (FType.fmt k) (Fmt.bf16.round .rne (.fin (decide (j < 0)) j.natAbs 0)) :=
  vunLane_of_result hv (by simp [vunVal, hm, log2Of_powerOfTwo hm hu])

end

/-! ### The lane-wise floating instructions -/

/-- Settles O20: the lanes by what `vfOp` gives, VUN by its value on each kind of operand. That EXP2 between −134 and −133 rounds up
to bf16's smallest subnormal is the model's choice (log entry 135), and so is `vunVal` where it is not exact (log entry 9). -/
theorem floatVectorResults : Obligations.FloatVectorResults := by
  rintro m b a d k f s _ rfl
  refine ⟨
    vfArith_givesLanes (fun rm x y _ => x.add rm y) rfl (by rw [readDst_false]; rfl),
    vfArith_givesLanes (fun rm x y _ => x.add rm y.neg) rfl (by rw [readDst_false]; rfl),
    vfArith_givesLanes (fun _ x y _ => x.mul y) rfl (by rw [readDst_false]; rfl),
    vfArith_givesLanes (fun rm x y z => FVal.fma rm x y z) rfl (by rw [readDst_true]; rfl),
    vfArith_givesLanes (fun rm x y z => FVal.fma rm x.neg y z) rfl (by rw [readDst_true]; rfl),
    vfMinmax_givesLanes false rfl (by rw [readDst_false]; rfl),
    vfMinmax_givesLanes true rfl (by rw [readDst_false]; rfl), vun_givesLanes, fun code _ => ⟨
      fun hv => vunLane_nan hv f, fun hv => ⟨?abs, ?neg⟩, fun n hv => ?inf, fun n e hv => ?zero,
      fun m e hv hm hf => ?negative, fun ha hn => vunLane_rounds ha hn .., fun n m e hv hm => ?finite⟩⟩
  case abs => rintro rfl; exact vunLane_abs hv
  case neg => rintro rfl; exact vunLane_neg hv
  case inf =>
    refine ⟨?_, fun hf => vunLane_log2_sqrt_inf hf hv, ?_, ?_, ?_⟩ <;> rintro rfl
    · exact vunLane_exp2_inf hv
    · exact vunLane_rsq_inf hv
    · exact (vunLane_of_val hv .rcp).trans (writeLane_zero k n)
    · exact (vunLane_of_val hv .tanh).trans (writeLane_one k n)
  case zero =>
    refine ⟨?_, ?_, ?_, ?_⟩
    · rintro rfl; exact (vunLane_of_val hv .exp2).trans (writeLane_one k false)
    · rintro rfl; exact (vunLane_of_val hv .log2).trans (writeLane_inf k true)
    · rintro (rfl | rfl) <;> exact (vunLane_of_val hv _).trans (writeLane_inf k n)
    · rintro (rfl | rfl) <;> exact (vunLane_of_val hv _).trans (writeLane_zero k n)
  case negative =>
    obtain ⟨ha, hn⟩ : f ≠ .abs ∧ f ≠ .neg := by rcases hf with rfl | rfl | rfl <;> decide
    rw [vunLane_of_val hv f ha hn, vunVal_negative hm e hf]
    exact writeLane_invalid k
  case finite =>
    refine ⟨?rcp, ?sqrt, ?rsq, ?integer, ?large, ?power⟩
    case rcp => rintro rfl; exact vunLane_rcp hv hm
    case sqrt => rintro rfl rfl; exact vunLane_sqrt hv hm
    case rsq => rintro rfl rfl; exact vunLane_rsq hv hm
    case integer => rintro j rfl hu hj; exact vunLane_exp2_integer hv hm hu hj
    case large => rintro rfl hu; exact vunLane_exp2_large hv hm hu
    case power => rintro j rfl rfl hu; exact vunLane_log2_powerOfTwo hv hm hu

end Sys2Proof.Machine
end

section
/-! SUPPORT. The word operations of R131 as operations on bit vectors. -/

namespace Sys2Proof.Machine

open Sys2Proof

/-! ### Words and signed values -/

/-- The word of a word's number. -/
@[simp] theorem word_toNat (w : Word) : word w.toNat = w := by
  rw [word, BitVec.ofNat_toNat, BitVec.setWidth_eq]

/-- The low bits of a number as a signed integer are those of a bit vector. -/
theorem signedOf_eq_toInt (w v : Nat) : signedOf w v = (BitVec.ofNat w v).toInt := by
  rw [BitVec.toInt_eq_toNat_cond, BitVec.toNat_ofNat, signedOf]
  cases w with
  | zero => simp [Nat.mod_one]
  | succ w =>
    have hhalf : v % 2 ^ (w + 1) < 2 ^ w ↔ 2 * (v % 2 ^ (w + 1)) < 2 ^ (w + 1) := by rw [Nat.pow_succ]; omega
    simp only [Nat.add_sub_cancel, hhalf]

/-- A bit vector as a signed integer. -/
@[simp] theorem signedOf_toNat {w : Nat} (x : BitVec w) : signedOf w x.toNat = x.toInt := by
  rw [signedOf_eq_toInt, BitVec.ofNat_toNat, BitVec.setWidth_eq]

/-- Sign extension of the low bits of a word (R131). -/
theorem sextLow_eq (p : Word) (n : Nat) : sextLow p n = (p.setWidth n).signExtend 64 := by
  rw [sextLow, signedOf_eq_toInt, BitVec.ofNat_toNat]; rfl

/-- The low bits of an integer's word are the integer's own. -/
theorem toNat_wordI_mod {w : Nat} (hw : w ≤ 64) (i : Int) : (wordI i).toNat % 2 ^ w = (BitVec.ofInt w i).toNat := by
  have hdvd : ((2 ^ w : Nat) : Int) ∣ (2 ^ 64 : Nat) := Int.natCast_dvd_natCast.mpr (Nat.pow_dvd_pow 2 hw)
  have hnonneg : 0 ≤ i % (2 ^ 64 : Nat) := Int.emod_nonneg i (by decide)
  rw [wordI, BitVec.toNat_ofInt, BitVec.toNat_ofInt, ← Int.emod_emod_of_dvd i hdvd,
    Int.toNat_emod hnonneg (Int.natCast_nonneg _), Int.toNat_natCast]

/-! ### Shifts and rotations -/

/-- The low six bits are an amount below 64. -/
theorem amount_lt (q : Word) : amount q < 64 := Nat.mod_lt _ (by decide)

theorem shlW_eq (p : Word) (n : Nat) : shlW p n = p <<< n := by
  apply BitVec.eq_of_toNat_eq
  rw [shlW, word, BitVec.toNat_ofNat, BitVec.toNat_shiftLeft, Nat.shiftLeft_eq]

theorem shrW_eq (p : Word) (n : Nat) : shrW p n = p >>> n := by
  rw [shrW, ← Nat.shiftRight_eq_div_pow, ← BitVec.toNat_ushiftRight, word_toNat]

theorem shaW_eq (p : Word) (n : Nat) : shaW p n = p.sshiftRight n := by
  rw [shaW, signedOf_toNat, ← Int.shiftRight_eq_div_pow]; rfl

theorem rotW_eq (p : Word) {n : Nat} (h : n < 64) : rotW p n = p.rotateRight n := by
  have hsplit : 2 ^ 64 = 2 ^ n * 2 ^ (64 - n) := by rw [← Nat.pow_add]; congr 1; omega
  have hhigh : p.toNat <<< (64 - n) % 2 ^ 64 = (p.toNat % 2 ^ n) <<< (64 - n) := by
    rw [Nat.shiftLeft_eq, Nat.shiftLeft_eq, hsplit, Nat.mul_mod_mul_right]
  have hlow : p.toNat >>> n < 2 ^ (64 - n) := by
    rw [Nat.shiftRight_eq_div_pow]
    exact Nat.div_lt_of_lt_mul (hsplit ▸ p.isLt)
  have hrot : (p.rotateRight n).toNat = p.toNat / 2 ^ n + p.toNat % 2 ^ n * 2 ^ (64 - n) := by
    rw [BitVec.toNat_rotateRight, Nat.mod_eq_of_lt h, hhigh, Nat.or_comm, ← Nat.shiftLeft_add_eq_or_of_lt hlow, Nat.add_comm,
      Nat.shiftRight_eq_div_pow, Nat.shiftLeft_eq]
  rw [rotW, ← hrot, word_toNat]

/-! ### Counts of bits -/

/-- The number of bits below `n` that are 1. -/
theorem length_filter_bitOf (p : Word) (n : Nat) : ((List.range n).filter fun i => bitOf p i).length = p.cpopNatRec n 0 := by
  induction n with
  | zero => rfl
  | succ n ih =>
    rw [List.range_succ, List.filter_append, List.length_append, ih, BitVec.cpopNatRec_succ, Nat.zero_add,
      BitVec.cpopNatRec_eq (p.getLsbD n).toNat]
    cases hn : p.getLsbD n <;> simp [bitOf, hn]

theorem popcW_eq (p : Word) : popcW p = p.cpop := by
  rw [popcW, length_filter_bitOf]; rfl

/-- The highest bit of a word that is not 0 stands `clz` bits below bit 63. -/
theorem clzW_eq (p : Word) : clzW p = p.clz := by
  unfold clzW
  split
  case isTrue h => rw [h]; decide
  case isFalse h =>
    have hc : p.clz.toNat < 64 := BitVec.clz_lt_iff_ne_zero.mpr h
    have hlog : p.toNat.log2 = 63 - p.clz.toNat := by
      have hlow : 2 ^ (63 - p.clz.toNat) ≤ p.toNat := BitVec.two_pow_sub_clz_le_toNat_of_ne_zero (by decide) h
      have hhigh : p.toNat < 2 ^ (63 - p.clz.toNat + 1) := by
        rw [show 63 - p.clz.toNat + 1 = 64 - p.clz.toNat by omega]
        exact BitVec.toNat_lt_two_pow_sub_clz
      exact (Nat.log2_eq_iff (Nat.ne_zero_of_lt (Nat.lt_of_lt_of_le (Nat.two_pow_pos _) hlow))).mpr ⟨hlow, hhigh⟩
    apply BitVec.eq_of_toNat_eq
    rw [hlog, word, BitVec.toNat_ofNat]
    omega

/-! ### Multiplication and division -/

theorem divW_eq (p q : Word) : divW p q = if q = 0 then BitVec.allOnes 64 else p.sdiv q := by
  unfold divW
  split
  · decide
  · apply BitVec.eq_of_toInt_eq
    rw [signedOf_toNat, signedOf_toNat, wordI, BitVec.toInt_ofInt, BitVec.toInt_sdiv]

theorem remW_eq (p q : Word) : remW p q = if q = 0 then p else p.srem q := by
  rw [remW, signedOf_toNat, signedOf_toNat, ← BitVec.toInt_srem, wordI, BitVec.ofInt_toInt]

theorem divnW_eq (p q : Word) : divnW p q = if q = 0 then BitVec.allOnes 64 else p / q := by
  rw [divnW, ← BitVec.toNat_udiv, word_toNat]
  rfl

theorem remnW_eq (p q : Word) : remnW p q = if q = 0 then p else p % q := by
  rw [remnW, ← BitVec.toNat_umod, word_toNat]

theorem mulhW_eq (p q : Word) : mulhW p q = BitVec.ofInt 64 (p.toInt * q.toInt / 2 ^ 64) := by
  rw [mulhW, signedOf_toNat, signedOf_toNat]; rfl

end Sys2Proof.Machine
end

section
/-! SUPPORT. Results of the scalar instructions and of their 16-bit forms (R84, R131 to R139, R142), and the width tag that
a write of g[D] clears (R59, R323). -/

namespace Sys2Proof.Machine

open Sys2Proof

/-! ### One issue, one effect -/

/-- An instruction that may issue gives the state that its own effect leaves. -/
theorem gives_of_issue {i : Instr} {body : State → State} {s t : State} (hexec : exec i s = issue (issueOf i) body s)
    (ht : body s = t) (h : canIssue i s = true) : gives i s t := by
  rw [gives, hexec, issue_ready h, ht]

/-- An instruction whose own effect is to write g[D] and to move on. -/
theorem wg_gives {i : Instr} {d : GReg} {n : Nat} {w : Word} {s : State} (f : State → Word)
    (hexec : exec i s = issue (issueOf i) (fun s => (s.wg d (f s)).advance n) s) (hw : f s = w) :
    canIssue i s = true → gives i s ((s.wg d w).advance n) :=
  gives_of_issue hexec (by rw [hw])

/-- A two-operand IALU instruction gives its function of g[A] and g[B]. -/
theorem ialu_gives {i : Instr} {y x : Bool} {b a d : GReg} {w : Word} {s : State} (f : Word → Word → Word)
    (hexec : exec i s = ialu i y x b a d f s)
    (hissue : { instr := i, srcs := [gsrc a x, gsrc b y], dsts := [gdst d] } = issueOf i)
    (hw : f (s.rg a) (s.rg b) = w) : canIssue i s = true → gives i s ((s.wg d w).advance 4) :=
  gives_of_issue (by rw [hexec, ialu, hissue]) (by rw [hw])

/-- A one-operand instruction gives its function of g[A]. -/
theorem unary_gives {i : Instr} {x : Bool} {a d : GReg} {w : Word} {s : State} (f : Word → Word)
    (hexec : exec i s = unary i x a d f s) (hissue : { instr := i, srcs := [gsrc a x], dsts := [gdst d] } = issueOf i)
    (hw : f (s.rg a) = w) : canIssue i s = true → gives i s ((s.wg d w).advance 4) :=
  gives_of_issue (by rw [hexec, unary, hissue]) (by rw [hw])

/-! ### IALU -/

/-- Settles O14: each operation is its function of the two sources, and the function is the table's (R131). -/
theorem ialuResults : Obligations.IaluResults := by
  rintro y x b a d s _ _ _ rfl rfl rfl
  have hshift := amount_lt (s.rg b)
  exact ⟨ialu_gives (· + ·) rfl rfl rfl,
    ialu_gives (· - ·) rfl rfl rfl,
    ialu_gives (· &&& ·) rfl rfl rfl,
    ialu_gives (· ||| ·) rfl rfl rfl,
    ialu_gives (· ^^^ ·) rfl rfl rfl,
    ialu_gives (fun p q => p &&& ~~~q) rfl rfl rfl,
    ialu_gives (fun p q => shlW p (amount q)) rfl rfl (shlW_eq ..),
    ialu_gives (fun p q => shrW p (amount q)) rfl rfl (shrW_eq ..),
    ialu_gives (fun p q => shaW p (amount q)) rfl rfl (shaW_eq ..),
    ialu_gives (fun p q => rotW p (amount q)) rfl rfl (rotW_eq _ hshift),
    ialu_gives (fun p q => if p.slt q then p else q) rfl rfl (by simp only [BitVec.slt_iff_toInt_lt]),
    ialu_gives (fun p q => if q.slt p then p else q) rfl rfl (by simp only [BitVec.slt_iff_toInt_lt, gt_iff_lt]),
    ialu_gives (fun p q => if p.toNat < q.toNat then p else q) rfl rfl rfl,
    ialu_gives (fun p q => if p.toNat > q.toNat then p else q) rfl rfl rfl,
    ialu_gives (· * ·) rfl rfl (by rw [BitVec.ofInt_mul, BitVec.ofInt_toInt, BitVec.ofInt_toInt]),
    ialu_gives mulhW rfl rfl (mulhW_eq ..),
    ialu_gives mulhnW rfl rfl rfl,
    ialu_gives divW rfl rfl (divW_eq ..),
    ialu_gives divnW rfl rfl (divnW_eq ..),
    ialu_gives remW rfl rfl (remW_eq ..),
    ialu_gives remnW rfl rfl (remnW_eq ..),
    unary_gives clzW rfl rfl (clzW_eq _),
    unary_gives popcW rfl rfl (popcW_eq _),
    ialu_gives (fun p q => sextLow p (amount q + 1)) rfl rfl (sextLow_eq ..),
    ialu_gives (fun p q => sextLow (p + q) 32) rfl rfl (sextLow_eq ..),
    ialu_gives (fun p q => sextLow (p - q) 32) rfl rfl (sextLow_eq ..)⟩

/-! ### Immediates, upper parts and MADR -/

/-- A field to which a number is added, modulo 2^n. -/
theorem extractLsb'_add_eq_ofNat {w n : Nat} (p : BitVec w) (lo : Nat) (h : BitVec n) :
    p.extractLsb' lo n + h = BitVec.ofNat n (fld p lo n + h.toNat) := by
  apply BitVec.eq_of_toNat_eq
  rw [BitVec.toNat_add, BitVec.extractLsb'_toNat, Nat.shiftRight_eq_div_pow, BitVec.toNat_ofNat, fld]

/-- Two bit vectors appended, as a number. -/
theorem toNat_append_eq_add {m n : Nat} (x : BitVec m) (y : BitVec n) : (x ++ y).toNat = x.toNat * 2 ^ n + y.toNat := by
  rw [BitVec.toNat_append, ← Nat.shiftLeft_add_eq_or_of_lt y.isLt, Nat.shiftLeft_eq]

/-- The mesh address that MADR moves: dx and dy are added to two of its fields (R142). -/
theorem madrW_of_mesh {p : Word} (hp : bitOf p 63 = true) (h v : BitVec 6) : madrW p h v =
    p.extractLsb' 46 18 ++ (p.extractLsb' 40 6 + h) ++ (p.extractLsb' 34 6 + v) ++ p.extractLsb' 0 34 := by
  apply BitVec.eq_of_getLsbD_eq
  intro k hk
  change bitOf (madrW p h v) k = _
  rw [madrW, if_pos hp, bitOf_setFld _ _ _ _ _ (by decide), bitOf_setFld _ _ _ _ _ (by decide)]
  simp only [extractLsb'_add_eq_ofNat, BitVec.getLsbD_append, BitVec.getLsbD_ofNat, BitVec.getLsbD_extractLsb']
  by_cases h34 : k < 34
  · simp [h34, bitOf, show ¬ 34 ≤ k by omega, show ¬ 40 ≤ k by omega]
  by_cases h40 : k < 40
  · simp [h34, h40, show 34 ≤ k by omega, show k - 34 < 6 by omega]
  by_cases h46 : k < 46
  · simp [h34, h40, h46, show ¬ k - 34 < 6 by omega, show 40 ≤ k by omega, show k - 34 - 6 = k - 40 by omega,
      show k - 40 < 6 by omega]
  · simp [h34, h40, h46, show ¬ k - 34 < 6 by omega, show ¬ k - 34 - 6 < 6 by omega, show k - 34 - 6 - 6 < 18 by omega,
      bitOf, show 46 + (k - 34 - 6 - 6) = k by omega]

/-- The relative address that MADR builds from a byte offset (R142). -/
theorem madrW_of_offset {p : Word} (hp : bitOf p 63 = false) (h v : BitVec 6) : madrW p h v =
    0b11#2 ++ 0#16 ++ h ++ v ++ 0#13 ++ p.extractLsb' 0 21 := by
  apply BitVec.eq_of_toNat_eq
  rw [madrW, if_neg (by simp [hp]), word, BitVec.toNat_ofNat]
  simp only [toNat_append_eq_add, BitVec.extractLsb'_toNat, BitVec.toNat_ofNat, fld]
  omega

theorem madrW_eq (p : Word) (h v : BitVec 6) : madrW p h v =
    if bitOf p 63 then p.extractLsb' 46 18 ++ (p.extractLsb' 40 6 + h) ++ (p.extractLsb' 34 6 + v) ++ p.extractLsb' 0 34
    else 0b11#2 ++ 0#16 ++ h ++ v ++ 0#13 ++ p.extractLsb' 0 21 := by
  split
  case isTrue hp => exact madrW_of_mesh hp h v
  case isFalse hp => exact madrW_of_offset (by simpa using hp) h v

/-! ### The 16-bit forms -/

/-- g0 reads as zero (R53). -/
@[simp] theorem rg_zero (s : State) : s.rg 0 = 0 := rfl

/-- A register of a five-bit field. -/
theorem eq_g32 {r : GReg} {x : Fin 32} (h : r.val = x.val) : r = g32 x := Fin.ext h

/-- A two-operand 16-bit form gives its function of g[X] and g[Y]. -/
theorem compact2_gives {i : Instr} {y x : Fin 32} {w : Word} {s : State} (f : Word → Word → Word)
    (hexec : exec i s = compact2 i y x f s)
    (hissue : { instr := i, srcs := [gsrc (g32 x) false, gsrc (g32 y) false], dsts := [gdst (g32 x)] } = issueOf i)
    (hw : f (s.rg (g32 x)) (s.rg (g32 y)) = w) : canIssue i s = true → gives i s ((s.wg (g32 x) w).advance 2) :=
  gives_of_issue (by rw [hexec, compact2, hissue]) (by rw [hw])

/-- A one-operand 16-bit form gives its function of g[X]. -/
theorem compact1_gives {i : Instr} {x : Fin 32} {w : Word} {s : State} (f : Word → Word)
    (hexec : exec i s = compact1 i x f s)
    (hissue : { instr := i, srcs := [gsrc (g32 x) false], dsts := [gdst (g32 x)] } = issueOf i)
    (hw : f (s.rg (g32 x)) = w) : canIssue i s = true → gives i s ((s.wg (g32 x) w).advance 2) :=
  gives_of_issue (by rw [hexec, compact1, hissue]) (by rw [hw])

/-- Settles O15: each form is its function of the sources and the immediate (R133 to R135, R142, R84). -/
theorem immediateAndCompactResults : Obligations.ImmediateAndCompactResults := by
  constructor
  · rintro i j h v n x a d s _ rfl
    exact ⟨unary_gives (· + sx i) rfl rfl rfl,
      unary_gives (· &&& sx i) rfl rfl rfl,
      unary_gives (· ||| sx i) rfl rfl rfl,
      unary_gives (· ^^^ sx i) rfl rfl rfl,
      unary_gives (shlW · n) rfl rfl (shlW_eq ..),
      unary_gives (shrW · n) rfl rfl (shrW_eq ..),
      unary_gives (shaW · n) rfl rfl (shaW_eq ..),
      unary_gives (rotW · n) rfl rfl (rotW_eq _ n.isLt),
      wg_gives (fun _ => sx j <<< 12) rfl rfl,
      wg_gives (fun s => s.th.pc + sx j <<< 12) rfl rfl,
      unary_gives (madrW · h v) rfl rfl (madrW_eq ..)⟩
  · rintro y x gy gx i n s _ _ hy hx rfl rfl
    obtain rfl := eq_g32 hy
    obtain rfl := eq_g32 hx
    exact ⟨wg_gives (fun s => s.rg (g32 y) ||| s.rg 0) rfl BitVec.or_zero,
      compact2_gives (· + ·) rfl rfl rfl,
      compact2_gives (· - ·) rfl rfl rfl,
      compact2_gives (· &&& ·) rfl rfl rfl,
      compact2_gives (· ||| ·) rfl rfl rfl,
      compact2_gives (· ^^^ ·) rfl rfl rfl,
      compact1_gives (· + sx i) rfl rfl rfl,
      wg_gives (fun s => s.rg 0 + sx i) rfl (BitVec.zero_add _),
      compact1_gives (shlW · n) rfl rfl (shlW_eq ..),
      compact1_gives (shrW · n) rfl rfl (shrW_eq ..),
      gives_of_issue (body := fun s => s.advance 2) rfl rfl⟩

/-! ### Conditions, predicates and operand-extension registers -/

/-- The conditions of R136 on bit vectors. -/
theorem condHolds_toNat {w : Nat} (c : Cond) (x y : BitVec w) : condHolds c w x.toNat y.toNat = condTrue c x y := by
  cases c with
  | eq => rw [Bool.eq_iff_iff]; simp [condHolds, condTrue, BitVec.toNat_inj]
  | ne => rw [Bool.eq_iff_iff]; simp [condHolds, condTrue, BitVec.toNat_inj]
  | lt | ge => simp only [condHolds, condTrue, signedOf_toNat]
  | ltn | gen => rfl
  | tst => rw [Bool.eq_iff_iff]; simp [condHolds, condTrue, ← BitVec.toNat_and, ← BitVec.toNat_inj]

/-- The word of a boolean. -/
theorem word_b2n (v : Bool) : word (b2n v) = if v then 1 else 0 := by cases v <;> rfl

/-- An instruction whose own effect is to write a predicate. -/
theorem putP_gives {i : Instr} {pd : Reg8} {v : Bool} {s : State} (f : Thread → Bool)
    (hexec : exec i s = issue (issueOf i) (fun s => (s.modTh fun t => t.putP pd (f t)).advance 4) s) (hv : f s.th = v) :
    canIssue i s = true → gives i s ((s.setTh (s.th.putP pd v)).advance 4) :=
  gives_of_issue hexec (by rw [modTh_eq, hv])

/-- Settles O16: each comparison by its condition on bit vectors, the others as the model writes them (R136 to R139). -/
theorem compareSelectResults : Obligations.CompareSelectResults := by
  rintro y x inv b a d i c pd pa pb s _ _ rfl rfl
  exact ⟨putP_gives (fun t => condHolds c 64 (t.gv a).toNat (t.gv b).toNat) rfl (condHolds_toNat ..),
    putP_gives (fun t => condHolds c 32 ((t.gv a).toNat % 2 ^ 32) ((t.gv b).toNat % 2 ^ 32)) rfl
      (by rw [← BitVec.toNat_setWidth, ← BitVec.toNat_setWidth]; exact condHolds_toNat ..),
    putP_gives (fun t => condHolds c 64 (t.gv a).toNat (sx i).toNat) rfl (condHolds_toNat ..),
    wg_gives (fun s => if s.th.pv pa != inv then s.rg a else s.rg b) rfl rfl,
    putP_gives (fun t => t.pv pa && t.pv pb) rfl rfl,
    putP_gives (fun t => t.pv pa || t.pv pb) rfl rfl,
    putP_gives (fun t => t.pv pa != t.pv pb) rfl rfl,
    putP_gives (fun t => t.pv pa && !t.pv pb) rfl rfl,
    putP_gives (fun t => t.gv a != 0) rfl (by rw [Bool.eq_iff_iff, bne_iff_ne, decide_eq_true_iff]; rfl),
    wg_gives (fun s => word (b2n (s.th.pv pa))) rfl (word_b2n _),
    gives_of_issue (body := fun s => (s.modTh fun t => t.putX pd (t.gv a)).advance 4) rfl rfl,
    wg_gives (fun s => s.th.xv pa) rfl rfl⟩

/-! ### The width tag that a write clears -/

/-- An instruction that writes g[D] and moves on gives it the width tag of its value. -/
theorem tag00_of_gives_wg {i : Instr} {d : GReg} {w : Word} {n : Nat} {s t : State} (hd : d.val ≠ 0)
    (hdst : dstsOf i = [gdst d]) (h : gives i s ((s.wg d w).advance n)) (ht : exec i s = .next t) :
    t.th.tag00 = s.th.tag00.filter (· != d.val) := by
  rw [gives] at h
  obtain rfl := Host.Outcome.next.inj (ht.symm.trans h)
  rw [hdst, th_watchDsts_one, Thread.transition_tag00, advance_eq, wg_eq]
  simp [Thread.putG, hd]

/-- Refutes O18: LUI to g3, whose width tag 00 STRM.POS had given (R59, R323, log entry 2), gives g3 the tag of its new
value and so changes `Thread.tag00`, a field that `Thread.rest` compares. -/
theorem not_scalarFrame : ¬ Obligations.ScalarFrame := by
  intro frame
  have hissue : canIssue (.lui 0 3) positionRead = true := by decide
  obtain ⟨t, hexec, _, hrest, _⟩ := frame (.lui 0 3) positionRead rfl hissue
  have hkept : t.th.tag00 = [3] := congrArg Thread.tag00 hrest
  have hcleared : t.th.tag00 = [] :=
    tag00_of_gives_wg (by decide) rfl (wg_gives (d := 3) (fun _ => sx (0 : BitVec 19) <<< 12) rfl rfl hissue) hexec
  exact absurd (hkept.symm.trans hcleared) (by decide)

end Sys2Proof.Machine
end

section
/-! SUPPORT. Masks, selections and lane moves (R147, R148, R152, R153). -/

namespace Sys2Proof.Machine

open Sys2Proof

/-! ### Lanes -/

/-- A lane as a bit vector of its width. -/
theorem toNat_ofNat_lane (l : Line) (w j : Nat) : (BitVec.ofNat w (lane l w j)).toNat = lane l w j := by
  rw [BitVec.toNat_ofNat, Nat.mod_eq_of_lt (lane_lt ..)]

/-- The lanes of a vector that is built from all its lanes. -/
theorem lanesAre_lanesOf {w : Nat} {f g : Nat → Nat} (h : ∀ j, f j % 2 ^ w = g j) : lanesAre (lanesOf w (512 / w) f) w g :=
  fun j hj => by rw [lane_lanesOf _ _ _ _ (Nat.mul_div_le 512 w), if_pos hj, h]

/-- A lane that VMOV names lies in the vector. -/
theorem lane_index_fits (z : Size) (n : Nat) : sizeBits z * (n % (512 / sizeBits z)) + sizeBits z ≤ 512 := by
  have hlt : n % (512 / sizeBits z) < 512 / sizeBits z := Nat.mod_lt _ (by cases z <;> decide)
  calc sizeBits z * (n % (512 / sizeBits z)) + sizeBits z = sizeBits z * (n % (512 / sizeBits z) + 1) := rfl
    _ ≤ sizeBits z * (512 / sizeBits z) := Nat.mul_le_mul_left _ hlt
    _ ≤ 512 := Nat.mul_div_le ..

/-! ### VCMP and VSEL -/

/-- The conditions of R147. -/
theorem fcondHolds_eq (c : FCond) (a b : FVal) : fcondHolds c a b = fcondTrue c a b := by
  cases c <;> simp only [fcondHolds, fcondTrue, bne, Bool.not_or, Bool.not_and, Bool.not_not]
  case ge | le => cases a.cmp b <;> rfl

/-- The conditions of R136 on two lanes. -/
theorem condHolds_lane (c : Cond) (k l : Line) (w j : Nat) :
    condHolds c w (lane k w j) (lane l w j) = condTrue c (BitVec.ofNat w (lane k w j)) (BitVec.ofNat w (lane l w j)) := by
  rw [← condHolds_toNat, toNat_ofNat_lane, toNat_ofNat_lane]

/-- A VCMP writes the mask of the active lanes for which its condition holds. -/
theorem vcmp_gives {i : Instr} {m n : Reg8} {w : Nat} {holds : Nat → Bool} {s : State} (f : State → Nat → Bool)
    (hexec : exec i s = issue (issueOf i)
      (fun s => (s.modTh fun t => t.putM n (cmpMask (s.th.mv m) (512 / w) (f s))).advance 4) s)
    (hw : 512 / w ≤ 64) (hf : ∀ j, f s j = holds j) (h : canIssue i s = true) :
    ∃ r, gives i s ((s.setTh (s.th.putM n r)).advance 4) ∧
      ∀ j < 64, bitOf r j = (decide (j < 512 / w) && bitOf (s.th.mv m) j && holds j) :=
  ⟨_, gives_of_issue hexec rfl h, fun j _ => by rw [bitOf_cmpMask _ _ _ _ hw, hf]⟩

/-- A VSEL takes each lane from v[A] or v[B]. -/
theorem vsel_gives {i : Instr} {m : Reg8} {b a d : VReg} {w : Nat} {s : State} (hexec : exec i s = vsel i m b a d w s)
    (hissue : { instr := i, srcs := [vsrc a, vsrc b], dsts := [vdst d] } = issueOf i) (h : canIssue i s = true) :
    ∃ l, gives i s ((s.wv d l).advance 4) ∧
      lanesAre l w (fun j => if bitOf (s.th.mv m) j then lane (s.rv a) w j else lane (s.rv b) w j) := by
  refine ⟨_, gives_of_issue (by rw [hexec, vsel, hissue]) rfl h, lanesAre_lanesOf fun j => ?_⟩
  split <;> exact Nat.mod_eq_of_lt (lane_lt ..)

/-! ### VMOV -/

/-- An instruction whose own effect is to write v[D] and to move on. -/
theorem wv_gives {i : Instr} {d : VReg} {s : State} (f : State → Line)
    (hexec : exec i s = issue (issueOf i) (fun s => (s.wv d (f s)).advance 4) s) (h : canIssue i s = true) :
    gives i s ((s.wv d (f s)).advance 4) :=
  gives_of_issue hexec rfl h

/-- Settles O21: masks by the bits of `cmpMask`, vectors by their lanes (R147, R148, R152, R153). -/
theorem vectorCompareSelectMove : Obligations.VectorCompareSelectMove := by
  constructor
  · rintro m n b a d k ki fc c s _ _ rfl rfl
    exact ⟨vcmp_gives (fun s j => fcondHolds fc ((FType.fmt k).val (s.vl a (FType.fmt k).width j))
          ((FType.fmt k).val (s.vl b (FType.fmt k).width j))) rfl (by cases k <;> decide) (fun j => fcondHolds_eq ..),
      vcmp_gives (fun s j => condHolds c (IType.width ki) (s.vl a (IType.width ki) j) (s.vl b (IType.width ki) j)) rfl
        (by cases ki <;> decide) (fun j => condHolds_lane ..),
      vsel_gives rfl rfl, vsel_gives rfl rfl⟩
  · rintro z y x gb ga gd vb va vd s _ _ rfl rfl
    refine ⟨fun h => ⟨_, wv_gives (fun s => lanesOf (sizeBits z) (512 / sizeBits z) fun _ => (s.rg ga).toNat) rfl h, ?bc⟩,
      vget_gives,
      fun h => ⟨_, wv_gives (fun s => setLane (s.rv vd) (sizeBits z) ((s.rg gb).toNat % (512 / sizeBits z)) (s.rg ga).toNat)
        rfl h, ?set⟩,
      fun h => ⟨_, wv_gives (fun s => lanesOf (sizeBits z) (512 / sizeBits z) fun j =>
        s.vl va (sizeBits z) (s.vl vb (sizeBits z) j % (512 / sizeBits z))) rfl h, ?perm⟩,
      wv_gives (fun s => s.rv va) rfl⟩
    case bc => exact lanesAre_lanesOf fun j => rfl
    case set => exact fun j _ => lane_setLane _ _ _ _ _ (lane_index_fits z _)
    case perm => exact lanesAre_lanesOf fun j => Nat.mod_eq_of_lt (lane_lt ..)

end Sys2Proof.Machine
end

section
/-! SUPPORT. The tree of VRED and the lanes of VCVT (R149, R150). -/

namespace Sys2Proof.Machine

open Sys2Proof

/-- An instruction whose own effect is to write v[D], to raise flags and to move on. -/
theorem wv_raise_gives {i : Instr} {d : VReg} {s : State} {q : Issue} (l : State → Line) (fl : State → Flags)
    (hexec : exec i s = issue q (fun s => ((s.wv d (l s)).modTh fun t => t.raise (fl s)).advance 4) s) (hissue : q = issueOf i)
    (h : canIssue i s = true) : gives i s ((s.setTh ((s.th.putV d (l s)).raise (fl s))).advance 4) :=
  gives_of_issue (hissue ▸ hexec) (by simp only [wv_eq, modTh_eq, th_setTh, setTh_setTh]) h

/-! ### VRED: the tree of neighbours (R149) -/

/-- Two neighbours added: an absent one passes the other through; with the flags of the addition. -/
def addNeighbours (t : Fmt) (rm : Rounding) : Option Nat → Option Nat → Option Nat × Flags
  | some a, some b => ((t.finish rm ((t.val a).add rm (t.val b))).1, (t.finish rm ((t.val a).add rm (t.val b))).2)
  | some a, none => (some a, 0)
  | none, b => (b, 0)

theorem redLevel_cons_cons (t : Fmt) (rm : Rounding) (a b : Option Nat) (r : List (Option Nat)) :
    redLevel t rm (a :: b :: r) =
      ((addNeighbours t rm a b).1 :: (redLevel t rm r).1, (addNeighbours t rm a b).2 ||| (redLevel t rm r).2) := by
  cases a <;> cases b <;> simp [redLevel, addNeighbours]

theorem treeNode_succ (t : Fmt) (rm : Rounding) (leaf : Nat → Option Nat) (k i : Nat) :
    treeNode t rm leaf (k + 1) i =
      let l := treeNode t rm leaf k (2 * i)
      let r := treeNode t rm leaf k (2 * i + 1)
      ((addNeighbours t rm l.1 r.1).1, l.2 ||| r.2 ||| (addNeighbours t rm l.1 r.1).2) := by
  rw [treeNode]
  cases hl : (treeNode t rm leaf k (2 * i)).1 <;> cases hr : (treeNode t rm leaf k (2 * i + 1)).1 <;>
    simp [addNeighbours, hl, hr]

/-- The flags of `n` nodes, joined. -/
def joinFlags (n : Nat) (f : Nat → Flags) : Flags := ((List.range n).map f).foldr (· ||| ·) 0

theorem joinFlags_succ (n : Nat) (f : Nat → Flags) : joinFlags (n + 1) f = f 0 ||| joinFlags n fun i => f (i + 1) := by
  simp [joinFlags, List.range_succ_eq_map, Function.comp_def]

/-- No node raises a flag. -/
theorem joinFlags_zero (n : Nat) : joinFlags n (fun _ => 0) = 0 := by
  induction n with
  | zero => rfl
  | succ n ih => rw [joinFlags_succ, ih]; rfl

/-- The flags of `n` pairs of nodes below and of their additions. -/
theorem joinFlags_pairs (n : Nat) (f g : Nat → Flags) :
    joinFlags (2 * n) f ||| joinFlags n g = joinFlags n fun i => f (2 * i) ||| f (2 * i + 1) ||| g i := by
  induction n generalizing f g with
  | zero => simp [joinFlags]
  | succ n ih =>
    have hrest : joinFlags (2 * n) (fun i => f (i + 2)) ||| joinFlags n (fun i => g (i + 1)) =
        joinFlags n fun i => f (2 * (i + 1)) ||| f (2 * (i + 1) + 1) ||| g (i + 1) := ih ..
    rw [joinFlags_succ n fun i => f (2 * i) ||| f (2 * i + 1) ||| g i, ← hrest, joinFlags_succ n g,
      show 2 * (n + 1) = 2 * n + 1 + 1 by omega, joinFlags_succ, joinFlags_succ]
    simp only [Nat.mul_zero, Nat.zero_add, Nat.add_assoc, Nat.reduceAdd]
    ac_rfl

/-- One level of the tree. -/
theorem redLevel_map_range (t : Fmt) (rm : Rounding) (n : Nat) (f : Nat → Option Nat) :
    redLevel t rm ((List.range (2 * n)).map f) =
      ((List.range n).map fun i => (addNeighbours t rm (f (2 * i)) (f (2 * i + 1))).1,
        joinFlags n fun i => (addNeighbours t rm (f (2 * i)) (f (2 * i + 1))).2) := by
  induction n generalizing f with
  | zero => rfl
  | succ n ih =>
    have hsplit : (List.range (2 * (n + 1))).map f = f 0 :: f 1 :: (List.range (2 * n)).map fun i => f (i + 2) := by
      rw [show 2 * (n + 1) = 2 * n + 1 + 1 by omega]
      simp [List.range_succ_eq_map, Function.comp_def]
    rw [hsplit, redLevel_cons_cons, ih, joinFlags_succ, List.range_succ_eq_map]
    simp [Function.comp_def, Nat.mul_add]

/-- The levels above level k, whose nodes' flags have been collected, lead to the node at their top. -/
theorem redTree_nodes (t : Fmt) (rm : Rounding) (leaf : Nat → Option Nat) (j k : Nat) :
    redTree t rm j ((List.range (2 ^ j)).map fun i => (treeNode t rm leaf k i).1)
        (joinFlags (2 ^ j) fun i => (treeNode t rm leaf k i).2) =
      ([(treeNode t rm leaf (k + j) 0).1], (treeNode t rm leaf (k + j) 0).2) := by
  induction j generalizing k with
  | zero => simp [redTree, joinFlags]
  | succ j ih =>
    have hflags : (joinFlags (2 ^ (j + 1)) fun i => (treeNode t rm leaf k i).2) |||
        (redLevel t rm ((List.range (2 ^ (j + 1))).map fun i => (treeNode t rm leaf k i).1)).2 =
          joinFlags (2 ^ j) fun i => (treeNode t rm leaf (k + 1) i).2 := by
      rw [Nat.pow_succ', redLevel_map_range, joinFlags_pairs]
      simp only [treeNode_succ]
    have hnodes : (redLevel t rm ((List.range (2 ^ (j + 1))).map fun i => (treeNode t rm leaf k i).1)).1 =
        (List.range (2 ^ j)).map fun i => (treeNode t rm leaf (k + 1) i).1 := by
      rw [Nat.pow_succ', redLevel_map_range]
      simp only [treeNode_succ]
    rw [redTree]
    simp only [hflags, hnodes, ih (k + 1), Nat.add_assoc, Nat.add_comm 1]

/-- The tree of VRED over 2^j leaves. -/
theorem redTree_leaves (t : Fmt) (rm : Rounding) (leaf : Nat → Option Nat) {j n : Nat} (hn : n = 2 ^ j) :
    redTree t rm j ((List.range n).map leaf) 0 = ([(treeNode t rm leaf j 0).1], (treeNode t rm leaf j 0).2) := by
  have h := redTree_nodes t rm leaf j 0
  simp only [treeNode, joinFlags_zero, Nat.zero_add] at h
  rw [hn, h]

/-- What VRED's tree leaves of the active lanes of v[A] (R149). -/
def sumsOf (m : Reg8) (a : VReg) (k : FType) (s : State) : List (Option Nat) × Flags :=
  redTree (FType.fmt k) s.th.rm (Nat.log2 (512 / (FType.fmt k).width))
    ((List.range (512 / (FType.fmt k).width)).map fun j =>
      if bitOf (s.th.mv m) j then some (lane (s.rv a) (FType.fmt k).width j) else none) 0

/-- VRED writes the root of the tree to lane 0 and +0 to every other lane, and raises the flags of its additions (R149). -/
theorem vred_gives {m : Reg8} {a d : VReg} {k : FType} {s : State} (h : canIssue (.vred m a d k) s = true) :
    let w := (FType.fmt k).width
    let root := treeNode (FType.fmt k) s.th.rm (fun j => if bitOf (s.th.mv m) j then some (lane (s.rv a) w j) else none)
      (Nat.log2 (512 / w)) 0
    gives (.vred m a d k) s ((s.setTh ((s.th.putV d (lanesOf w 1 fun _ => root.1.getD 0)).raise root.2)).advance 4) := by
  have hlanes : 512 / (FType.fmt k).width = 2 ^ Nat.log2 (512 / (FType.fmt k).width) := by cases k <;> decide
  have hgives := wv_raise_gives (d := d)
    (fun s => lanesOf (FType.fmt k).width 1 fun _ => ((sumsOf m a k s).1.headD none).getD 0)
    (fun s => (sumsOf m a k s).2) rfl rfl h
  simpa only [sumsOf, redTree_leaves _ _ _ hlanes, List.headD_cons] using hgives

/-! ### VCVT (R150) -/

/-- The lanes that a VCVT converts. -/
def convertedLanes (c : TyCode) (k : FType) : Nat := min (512 / (FType.fmt k).width) (512 / targetWidth c)

/-- The bits and flags of a lane that VCVT converts. -/
def convertedLane (r : Rounding) (c : TyCode) (a : VReg) (k : FType) (s : State) (j : Nat) : Nat × Flags :=
  cvtCode (FType.fmt k) c r (lane (s.rv a) (FType.fmt k).width j)

/-- The converted lanes lie in the target. -/
theorem convertedLanes_fit (c : TyCode) (k : FType) : targetWidth c * convertedLanes c k ≤ 512 :=
  Nat.le_trans (Nat.mul_le_mul_left _ (Nat.min_le_right ..)) (Nat.mul_div_le ..)

/-- VCVT writes the lanes that both types have under the mask, and 0 beyond them. -/
theorem vcvt_gives {m : Reg8} {r : Rounding} {c : TyCode} {a d : VReg} {k : FType} {s : State}
    (h : canIssue (.vcvt m r c a d k) s = true) :
    gives (.vcvt m r c a d k) s ((s.setTh ((s.th.putV d (lanesOf (targetWidth c) (convertedLanes c k) fun j =>
      if bitOf (s.th.mv m) j then (convertedLane r c a k s j).1 else lane (s.rv d) (targetWidth c) j)).raise
        (laneFlags (s.th.mv m) (convertedLanes c k) fun j => (convertedLane r c a k s j).2))).advance 4) :=
  wv_raise_gives (q := { instr := .vcvt m r c a d k, srcs := [vsrc a], dsts := [vdst d], reads := readDst m d false })
    (fun s => lanesOf (targetWidth c) (convertedLanes c k) fun j =>
      if bitOf (s.th.mv m) j then (convertedLane r c a k s j).1 else lane (s.rv d) (targetWidth c) j)
    (fun s => laneFlags (s.th.mv m) (convertedLanes c k) fun j => (convertedLane r c a k s j).2) rfl
    (by rw [readDst_false]; rfl) h

/-- Settles O22: the tree of neighbours by induction on its levels, conversions by the lanes of the target (R149, R150). -/
theorem vectorReduceConvert : Obligations.VectorReduceConvert := by
  constructor
  · rintro m a d k s _ rfl h
    refine ⟨_, vred_gives h, fun j _ => ?_⟩
    rw [lane_lanesOf _ _ _ _ (by cases k <;> decide)]
    simp only [Nat.lt_one_iff]
  · rintro m r c a d k s _ rfl h
    refine ⟨_, _, vcvt_gives h, fun j _ => ?_, fun i _ => bitOf_laneFlags ..⟩
    rw [lane_lanesOf _ _ _ _ (convertedLanes_fit c k), apply_ite (· % 2 ^ targetWidth c), Nat.mod_eq_of_lt (lane_lt ..)]
    rfl

end Sys2Proof.Machine
end

section
/-! SUPPORT. The integer vector instructions (R143, R152). -/

namespace Sys2Proof.Machine

open Sys2Proof

/-- Instruction `i` gives lane j of v[D] the value of `g` on the lanes of A, B and D where the mask m[M] is 1. -/
def givesIntLanes (i : Instr) (s : State) (m : Reg8) (b a d : VReg) (w : Nat)
    (g : BitVec w → BitVec w → BitVec w → BitVec w) : Prop :=
  ∃ l, gives i s ((s.wv d l).advance 4) ∧
    lanesAre l w (fun j => if bitOf (s.th.mv m) j then
        (g (BitVec.ofNat w (lane (s.rv a) w j)) (BitVec.ofNat w (lane (s.rv b) w j))
          (BitVec.ofNat w (lane (s.rv d) w j))).toNat
      else lane (s.rv d) w j)

/-- A lane-wise integer instruction that may issue gives its lanes. -/
theorem viOp_gives {i : Instr} {m : Reg8} {b a d : VReg} {reads : Bool} {k : IType} {s : State}
    (f : Nat → Nat → Nat → Nat → Nat)
    (g : BitVec (IType.width k) → BitVec (IType.width k) → BitVec (IType.width k) → BitVec (IType.width k))
    (hexec : exec i s = viOp i m b a d reads k f s)
    (hissue : { instr := i, srcs := [vsrc a, vsrc b], dsts := [vdst d], reads := readDst m d reads } = issueOf i)
    (hg : ∀ x y z : BitVec (IType.width k),
      f (IType.width k) x.toNat y.toNat z.toNat % 2 ^ IType.width k = (g x y z).toNat)
    (h : canIssue i s = true) : givesIntLanes i s m b a d (IType.width k) g := by
  refine ⟨_, gives_of_issue (by rw [hexec, viOp, hissue]) rfl h, fun j hj => ?_⟩
  rw [lane_mergeLanes _ _ _ _ _ hj]
  simp only [← hg, toNat_ofNat_lane, State.vl]

/-- One that reads v[D] for the lanes that the mask keeps. -/
theorem viOp_masked_gives {i : Instr} {m : Reg8} {b a d : VReg} {k : IType} {s : State}
    (f : Nat → Nat → Nat → Nat → Nat)
    (g : BitVec (IType.width k) → BitVec (IType.width k) → BitVec (IType.width k) → BitVec (IType.width k))
    (hexec : exec i s = viOp i m b a d false k f s)
    (hissue : { instr := i, srcs := [vsrc a, vsrc b], dsts := [vdst d], reads := if m = 0 then [] else [vdst d] } = issueOf i)
    (hg : ∀ x y z : BitVec (IType.width k),
      f (IType.width k) x.toNat y.toNat z.toNat % 2 ^ IType.width k = (g x y z).toNat)
    (h : canIssue i s = true) : givesIntLanes i s m b a d (IType.width k) g :=
  viOp_gives f g hexec (by rw [readDst_false, hissue]) hg h

/-- Settles O23: each operation by its value on bit vectors of the lane's width (R152). -/
theorem integerVectorResults : Obligations.IntegerVectorResults := by
  rintro m b a d k s _ rfl
  have hw : IType.width k ≤ 64 := by cases k <;> decide
  exact ⟨viOp_masked_gives (fun _ x y _ => x + y) (fun x y _ => x + y) rfl rfl fun x y _ => (BitVec.toNat_add ..).symm,
    viOp_masked_gives (fun w x y _ => x + 2 ^ w - y) (fun x y _ => x - y) rfl rfl fun x y _ => by
      rw [BitVec.toNat_sub, Nat.add_comm x.toNat, Nat.sub_add_comm (Nat.le_of_lt y.isLt)],
    viOp_masked_gives (fun _ x y _ => x * y) (fun x y _ => x * y) rfl rfl fun x y _ => (BitVec.toNat_mul ..).symm,
    viOp_gives (fun _ x y z => z + x * y) (fun x y z => z + x * y) rfl (by rw [readDst_true]; rfl) fun x y z => by
      rw [BitVec.toNat_add, BitVec.toNat_mul, Nat.add_mod_mod],
    viOp_masked_gives (fun w x y _ => if signedOf w x < signedOf w y then x else y)
      (fun x y _ => if x.toInt < y.toInt then x else y) rfl rfl fun x y _ => by
        rw [signedOf_toNat, signedOf_toNat, ← apply_ite BitVec.toNat, BitVec.toNat_mod_cancel],
    viOp_masked_gives (fun w x y _ => if signedOf w x > signedOf w y then x else y)
      (fun x y _ => if x.toInt > y.toInt then x else y) rfl rfl fun x y _ => by
        rw [signedOf_toNat, signedOf_toNat, ← apply_ite BitVec.toNat, BitVec.toNat_mod_cancel],
    viOp_masked_gives (fun _ x y _ => if x < y then x else y) (fun x y _ => if x < y then x else y) rfl rfl fun x y _ => by
      rw [← apply_ite BitVec.toNat, BitVec.toNat_mod_cancel]; rfl,
    viOp_masked_gives (fun _ x y _ => if x > y then x else y) (fun x y _ => if x > y then x else y) rfl rfl fun x y _ => by
      rw [← apply_ite BitVec.toNat, BitVec.toNat_mod_cancel]; rfl,
    viOp_masked_gives (fun _ x y _ => x &&& y) (fun x y _ => x &&& y) rfl rfl fun x y _ => by
      rw [← BitVec.toNat_and, BitVec.toNat_mod_cancel],
    viOp_masked_gives (fun _ x y _ => x ||| y) (fun x y _ => x ||| y) rfl rfl fun x y _ => by
      rw [← BitVec.toNat_or, BitVec.toNat_mod_cancel],
    viOp_masked_gives (fun _ x y _ => x ^^^ y) (fun x y _ => x ^^^ y) rfl rfl fun x y _ => by
      rw [← BitVec.toNat_xor, BitVec.toNat_mod_cancel],
    viOp_masked_gives (fun w x y _ => x * 2 ^ (y % w)) (fun x y _ => x <<< (y.toNat % IType.width k)) rfl rfl fun x y _ => by
      rw [BitVec.toNat_shiftLeft, Nat.shiftLeft_eq],
    viOp_masked_gives (fun w x y _ => x / 2 ^ (y % w)) (fun x y _ => x >>> (y.toNat % IType.width k)) rfl rfl fun x y _ => by
      rw [← Nat.shiftRight_eq_div_pow, ← BitVec.toNat_ushiftRight, BitVec.toNat_mod_cancel],
    viOp_masked_gives (fun w x y _ => (wordI (signedOf w x / (2 ^ (y % w) : Nat))).toNat)
      (fun x y _ => x.sshiftRight (y.toNat % IType.width k)) rfl rfl fun x y _ => by
        rw [toNat_wordI_mod hw, signedOf_toNat, ← Int.shiftRight_eq_div_pow]; rfl⟩

end Sys2Proof.Machine
end

section
/-! SUPPORT. The core beside a change of the performing thread, and the thread beside a change of its core. -/

namespace Sys2Proof.Machine

open Sys2Proof

/-- A change of the performing thread's core that keeps its threads keeps the thread. -/
theorem th_modCo {f : Core → Core} {s : State} (h : (f s.co).threads = s.co.threads) : (s.modCo f).th = s.th :=
  thread_congr (s := s) (c := s.cur.1) ((congrArg Core.threads (coreAt_modCore ..)).trans h) _

/-- The core of the performing thread after a change of its core. -/
theorem co_modCo (s : State) (f : Core → Core) : (s.modCo f).co = f s.co := coreAt_modCore ..

/-- A change of the performing thread changes its core's threads alone. -/
theorem co_modTh (s : State) (f : Thread → Thread) :
    (s.modTh f).co = { s.co with threads := tset s.cur.2 (f s.th) s.co.threads } := coreAt_setThread ..

end Sys2Proof.Machine
end

section
/-! SUPPORT. CPY and CPYM at issue (R178, R251, R252, R262, R417). -/

namespace Sys2Proof.Machine

open Sys2Proof

/-- The x registers as a copy command keeps them. -/
def State.xregs (s : State) : Tab Word := (List.range 8).map fun i => (i, s.th.xv i)

/-- The bytes of a follow-on's operand; a CPY has none. -/
def State.followBytes (s : State) : Option Follow → Nat
  | none => 0
  | some f => f.bytes s.co.depthAfter

/-- The operand range that a follow-on reads, after the checks of R166; a CPY has none. -/
def State.followRange (s : State) : Option Follow → Except Chk OpRange
  | none => .ok {}
  | some f => s.matrixRange (s.th.xv 7) (f.bytes s.co.depthAfter) { r := true } (match f.op with | .mwl .. => true | _ => false)

/-- A command enters the copy queue, its status register is emptied and the thread moves on. -/
def State.copyQueued (s : State) (cmd : CopyCmd) (into : Word) : State :=
  ((s.newId.modCo fun k => { k with cq := k.cq ++ [cmd] }).modTh fun t =>
    t.markG cmd.dst (.pending (s.txn + 1) .copy into)).advance 4

theorem cq_copyQueued (s : State) (cmd : CopyCmd) (into : Word) : (s.copyQueued cmd into).co.cq = s.co.cq ++ [cmd] := by
  rw [State.copyQueued, State.advance, co_modTh, co_modTh, co_modCo]; rfl

theorem th_copyQueued (s : State) (cmd : CopyCmd) (into : Word) : (s.copyQueued cmd into).th =
    { s.th.markG cmd.dst (.pending (s.txn + 1) .copy into) with pc := s.th.pc + 4 } := by
  rw [State.copyQueued, State.advance, th_modTh, th_modTh, th_modCo (by rfl)]
  simp only [Thread.markG_pc]
  rfl

/-- The checks of R252 and R417 on a descriptor before the counter of SIG: its content and the first bytes of its ranges. -/
structure CopyFits (s : State) (sig : Bool) : Prop where
  content : (descOf s.xregs).reason s.xregs sig = none
  src : s.firstByte (descOf s.xregs).src { r := true } = none
  dst : s.firstByte (descOf s.xregs).dst { w := true } = none

/-- The address of the status record is none or passes the check of its first byte. -/
def State.statusFits (s : State) : Prop := s.th.xv 5 = 0 ∨ s.firstByte (s.th.xv 5) { w := true } = none

section
variable {s : State} {ctx : Nat → Ctx} {sig : Bool} {maj : Nat} {d : GReg} {m : Bool} {w : Nat} {f : Option Follow}

/-- The x registers as `copyIssue` gathers them. -/
theorem foldl_xregs (s : State) : (List.range 8).foldl (fun t i => tset i (s.th.xv i) t) ([] : Tab Word) = s.xregs := rfl

/-- A descriptor that is wrong answers COPYFAULT (R262). -/
theorem copyIssue_wrong {x why : Nat} (h : (descOf s.xregs).reason s.xregs sig = some (x, why)) :
    s.copyIssue ctx sig maj d m w f = s.trap 0x15 (word x) (word why) := by
  simp only [State.copyIssue, foldl_xregs, h, State.copyFault]

/-- A counter that fails its checks answers their trap (R417). -/
theorem copyIssue_badCounter {s' : State} (h : CopyFits s sig) (hc : s.sigCheck sig maj = .error s') :
    s.copyIssue ctx sig maj d m w f = s' := by
  simp only [State.copyIssue, foldl_xregs, h.content, h.src, h.dst, hc]

/-- A command that passes every check enters the queue, or parks where it is full (R158, R251). -/
theorem copyIssue_checked {sp : Nat} {rng : OpRange} (h : CopyFits s sig) (hc : s.sigCheck sig maj = .ok sp)
    (hs : s.statusFits) (hf : s.followRange f = .ok rng) : s.copyIssue ctx sig maj d m w f =
      if s.co.cq.length ≥ 32 then s.park .copyFull
      else s.copyQueued ⟨s.txn + 1, w, ctx sp, d, m, s.xregs, s.followBytes f, rng.own, rng.lines, none⟩ (descOf s.xregs).dst := by
  have hrec : (if s.th.xv 5 = 0 then none else s.firstByte (s.th.xv 5) { w := true }) = none := by
    rcases hs with hs | hs <;> simp [hs]
  have h5 : tget s.xregs 5 0 = s.th.xv 5 := rfl
  have h7 : tget s.xregs 7 0 = s.th.xv 7 := rfl
  simp only [State.copyIssue, foldl_xregs, h.content, h.src, h.dst, hc, h5, hrec, h7]
  cases f with
  | none =>
    cases hf
    rfl
  | some f =>
    split
    case h_1 c hc => cases hf.symm.trans hc
    case h_2 rng' hrng =>
      cases hf.symm.trans hrng
      rfl

end

/-- The counter of a command with SIG is the one that passes the checks of R417, and 0 stands for none. -/
theorem sigCheck_ok {s : State} {sig : Bool} {maj sp : Nat} (hs : sig = true → s.typedCheck (s.th.xv 3) maj = .ok sp)
    (hn : sig = false → sp = 0) : s.sigCheck sig maj = .ok sp := by
  cases sig with
  | true => exact hs rfl
  | false => rw [hn rfl]; rfl

/-- What an instruction that enters the copy queue leaves: its command, its status register empty, and the thread moved on. -/
theorem copyQueued_gives {i : Instr} {s : State} {cmd : CopyCmd} {into : Word} (h : gives i s (s.copyQueued cmd into)) :
    ∃ t, gives i s t ∧ t.co.cq = s.co.cq ++ [cmd] ∧
      t.th = { s.th.markG cmd.dst (.pending (s.txn + 1) .copy into) with pc := s.th.pc + 4 } ∧ t.mem = s.mem ∧ t.net = s.net :=
  ⟨_, h, cq_copyQueued .., th_copyQueued .., rfl, rfl⟩

/-- A CPY that may issue has the effect of `copyIssue`. -/
theorem cpy_gives {g : Bool} {sc : Scope} {r q : Bool} {d : GReg} {s t : State}
    (ht : s.copyIssue (s.mkCtx q r g sc) g 0x32 d false (wordOf (.cpy g sc r q d)) none = t)
    (h : canIssue (.cpy g sc r q d) s = true) : gives (.cpy g sc r q d) s t :=
  gives_of_issue (by unfold exec execCpy; rfl) ht h

/-- A CPYM waits for a queued ACCLOAD. -/
theorem cpym_gives_loading {g : Bool} {sc : Scope} {r q : Bool} {d : GReg} {s : State}
    (h : canIssue (.cpym g sc r q d) s = true) (hl : s.co.loading = true) :
    gives (.cpym g sc r q d) s (s.park .accload) :=
  gives_of_issue (by unfold exec execCpym; rfl) (by rw [hl]; rfl) h

/-- A CPYM whose x6 holds no follow-on is illegal (R178). -/
theorem cpym_gives_illegal {g : Bool} {sc : Scope} {r q : Bool} {d : GReg} {s : State}
    (h : canIssue (.cpym g sc r q d) s = true) (hl : s.co.loading = false) (hf : followOf (s.th.xv 6) (s.th.xv 7) = none) :
    gives (.cpym g sc r q d) s (s.trap 0x01 (word (wordOf (.cpym g sc r q d))) 4) :=
  gives_of_issue (by unfold exec execCpym; rfl) (by rw [hl, hf]; rfl) h

/-- A CPYM with a follow-on has the effect of `copyIssue`. -/
theorem cpym_gives {g : Bool} {sc : Scope} {r q : Bool} {d : GReg} {s t : State} {f : Follow} (hl : s.co.loading = false)
    (hf : followOf (s.th.xv 6) (s.th.xv 7) = some f)
    (ht : s.copyIssue (s.mkCtx q r g sc) (g || f.sig) 0x33 d true (wordOf (.cpym g sc r q d)) (some f) = t)
    (h : canIssue (.cpym g sc r q d) s = true) : gives (.cpym g sc r q d) s t :=
  gives_of_issue (by unfold exec execCpym; rfl) (by rw [hl, hf]; exact ht) h

/-- Settles O42: a CPY and a CPYM with a follow-on are `copyIssue`, whose checks come in the order of its lemmas. -/
theorem copyCommands : Obligations.CopyCommands := by
  rintro sc r q g d s _ rfl regs fits status counter queued cpy cpym
  have checked {sig : Bool} (h : fits sig) : CopyFits s sig := by
    obtain ⟨hc, hs, hd⟩ := h
    exact ⟨hc, Option.isNone_iff_eq_none.1 hs, Option.isNone_iff_eq_none.1 hd⟩
  have record (h : status) : s.statusFits := h.imp_right Option.isNone_iff_eq_none.1
  refine ⟨?cpy, ?cpym, cpym_gives_loading, cpym_gives_illegal, ?wrong, ?wrongM, ?badCounter⟩
  case cpy =>
    intro sp h hfits ⟨hsig, hnone⟩ hstatus
    have hissue := copyIssue_checked (ctx := s.mkCtx q r g sc) (d := d) (m := false) (w := wordOf cpy) (f := none)
      (checked hfits) (sigCheck_ok hsig hnone) (record hstatus) rfl
    exact ⟨fun hroom => copyQueued_gives (cpy_gives (hissue.trans (if_neg (by omega))) h),
      fun hfull => cpy_gives (hissue.trans (if_pos hfull)) h⟩
  case cpym =>
    intro f rng sp h hl hf hfits ⟨hsig, hnone⟩ hstatus hrange
    have hissue := copyIssue_checked (ctx := s.mkCtx q r g sc) (d := d) (m := true) (w := wordOf cpym) (f := some f)
      (checked hfits) (sigCheck_ok hsig hnone) (record hstatus) hrange
    exact ⟨fun hroom => copyQueued_gives (cpym_gives hl hf (hissue.trans (if_neg (by omega))) h),
      fun hfull => cpym_gives hl hf (hissue.trans (if_pos hfull)) h⟩
  case wrong => exact fun x why hwrong h => cpy_gives (copyIssue_wrong hwrong) h
  case wrongM => exact fun x why f h hl hf hwrong => cpym_gives hl hf (copyIssue_wrong hwrong) h
  case badCounter =>
    rintro s' h hfits rfl hbad
    exact cpy_gives (copyIssue_badCounter (checked hfits) hbad) h

end Sys2Proof.Machine
end

section
/-! SUPPORT. The matrix queue at issue (R158 to R160). -/

namespace Sys2Proof.Machine

open Sys2Proof

/-- The entry with which an instruction enters the matrix queue. -/
def State.newEntry (s : State) (i : Instr) (ctx : Ctx) (op : MatOp) (o : OpRange) : MatCmd :=
  ⟨s.txn + 1, wordOf i, ctx, op, o.own, o.lines, o.writes, false, []⟩

/-- An entry stands at the end of the queue, and the thread counts the stores it will make. -/
def State.withEntry (s : State) (e : MatCmd) : State :=
  (s.newId.modTh fun t => { t with outs := t.outs ++ s.storeOuts e.id e.writes }).modCo fun k => { k with mq := k.mq ++ [e] }

theorem co_withEntry (s : State) (e : MatCmd) : (s.withEntry e).co.mq = s.co.mq ++ [e] ∧ (s.withEntry e).co.tiles = s.co.tiles := by
  rw [State.withEntry, co_modCo, co_modTh]
  exact ⟨rfl, rfl⟩

theorem th_withEntry (s : State) (e : MatCmd) :
    (s.withEntry e).th = { s.th with outs := s.th.outs ++ s.storeOuts e.id e.writes } := by
  rw [State.withEntry, th_modCo (by rfl), th_modTh]
  rfl

section
variable {i : Instr} {ctx : Ctx} {op : MatOp} {o : OpRange} {park : Bool} {s : State}

theorem enqueue_full (h : 16 ≤ s.co.mq.length) : s.enqueue i ctx op o park = s.park .matrixFull := if_pos h

/-- With room in the queue the entry is made; the thread then waits for it, or moves on. -/
theorem enqueue_room (h : s.co.mq.length < 16) : ∃ w, s.enqueue i ctx op o park =
    if park then (s.withEntry (s.newEntry i ctx op o)).awaitReply w else (s.withEntry (s.newEntry i ctx op o)).advance 4 :=
  ⟨_, if_neg (by omega)⟩

/-- An instruction waits behind an ACCLOAD, parks where the queue is full, and enters it otherwise: its thread counts the stores of
the entry, and waits for it or moves on. -/
def queues (i : Instr) (ctx : Ctx) (op : MatOp) (o : OpRange) (park : Bool) (s : State) : Prop := canIssue i s = true →
  (s.co.loading = true → gives i s (s.park .accload)) ∧
  (s.co.loading = false → 16 ≤ s.co.mq.length → gives i s (s.park .matrixFull)) ∧
  (s.co.loading = false → s.co.mq.length < 16 → ∃ t e, gives i s t ∧
    t.co.mq = s.co.mq ++ [e] ∧ e.id = s.txn + 1 ∧ e.word = wordOf i ∧ e.op = op ∧ e.own = o.own ∧ e.lines = o.lines ∧
    e.writes = o.writes ∧ e.ctx = ctx ∧ t.co.tiles = s.co.tiles ∧ t.mem = s.mem ∧ t.net = s.net ∧
    let th := { s.th with outs := s.th.outs ++ s.storeOuts (s.txn + 1) o.writes }
    (if park then t.th = { th with life := .parked .reply, wait := t.th.wait } else t.th = { th with pc := s.th.pc + 4 }))

theorem queues_of_enqueue {body : State → State} (hexec : exec i s = issue (issueOf i) body s)
    (hload : s.co.loading = true → body s = s.park .accload)
    (hready : s.co.loading = false → body s = s.enqueue i ctx op o park) : queues i ctx op o park s := by
  refine fun h => ⟨fun hl => gives_of_issue hexec (hload hl) h,
    fun hl hfull => gives_of_issue hexec ((hready hl).trans (enqueue_full hfull)) h, fun hl hroom => ?_⟩
  obtain ⟨w, hw⟩ := enqueue_room (i := i) (ctx := ctx) (op := op) (o := o) (park := park) hroom
  obtain ⟨hmq, htiles⟩ := co_withEntry s (s.newEntry i ctx op o)
  have hth := th_withEntry s (s.newEntry i ctx op o)
  cases park with
  | true =>
    refine ⟨_, s.newEntry i ctx op o, gives_of_issue hexec ((hready hl).trans hw) h, ?_, rfl, rfl, rfl, rfl, rfl, rfl, rfl, ?_, rfl, rfl, ?_⟩
    · rw [if_pos rfl, State.awaitReply, co_modTh, hmq]
    · rw [if_pos rfl, State.awaitReply, co_modTh, htiles]
    · rw [if_pos rfl, if_pos rfl, State.awaitReply, th_modTh, hth]; rfl
  | false =>
    refine ⟨_, s.newEntry i ctx op o, gives_of_issue hexec ((hready hl).trans hw) h, ?_, rfl, rfl, rfl, rfl, rfl, rfl, rfl, ?_, rfl, rfl, ?_⟩
    · rw [if_neg (by decide), State.advance, co_modTh, hmq]
    · rw [if_neg (by decide), State.advance, co_modTh, htiles]
    · rw [if_neg (by decide), if_neg (by decide), State.advance, th_modTh, hth]; rfl

end

end Sys2Proof.Machine
end

section
/-! SUPPORT. The matrix instructions at issue (R158 to R176, R417). -/

namespace Sys2Proof.Machine

open Sys2Proof

/-! ### A check and an entry -/

section
variable {i : Instr} {body : State → State} {ctx : Ctx} {op : MatOp} {chk : Except Chk OpRange} {o : OpRange} {park : Bool}
  {s : State}

theorem matrix_loading (h : s.co.loading = true) : s.matrix i ctx op chk park = s.park .accload := if_pos h

theorem matrix_ready (h : s.co.loading = false) : s.matrix i ctx op (.ok o) park = s.enqueue i ctx op o park := by
  rw [State.matrix, h]; rfl

theorem matrix_trap {cause : Nat} {v1 v2 : Word} (h : s.co.loading = false) :
    s.matrix i ctx op (.error (.trap cause v1 v2)) park = s.trap cause v1 v2 := by
  rw [State.matrix, h]; rfl

/-- An instruction whose check passes enters the queue. -/
theorem queues_of_matrix (hexec : exec i s = issue (issueOf i) body s) (hbody : body s = s.matrix i ctx op chk park)
    (hchk : chk = .ok o) : queues i ctx op o park s :=
  queues_of_enqueue hexec (fun h => hbody.trans (matrix_loading h)) fun h => by rw [hbody, hchk, matrix_ready h]

/-- An instruction whose check fails traps, unless it waits behind an ACCLOAD. -/
theorem traps_of_matrix {cause : Nat} {v1 v2 : Word} (hexec : exec i s = issue (issueOf i) body s)
    (hbody : body s = s.matrix i ctx op chk park) (hchk : chk = .error (.trap cause v1 v2)) (h : canIssue i s = true)
    (hl : s.co.loading = false) : gives i s (s.trap cause v1 v2) :=
  gives_of_issue hexec (by rw [hbody, hchk, matrix_trap hl]) h

/-! ### The stores of ACCRD and ACCSAVE (R166, R202, R207) -/

theorem storesGate_acquire {ps : List (Word × Place)} (hp : ps ≠ []) (ha : s.th.acqReady = false) :
    s.storesGate ps = some .acquire := by
  simp [State.storesGate, hp, ha]

theorem storesGate_values {ps : List (Word × Place)} (hp : ps ≠ []) (ha : s.th.acqReady = true)
    (hv : valuesReady s.th.outs = false) : s.storesGate ps = some .values := by
  simp [State.storesGate, hp, ha, hv]

theorem matrixStores_loading (h : s.co.loading = true) : s.matrixStores i op chk = s.park .accload := by
  unfold State.matrixStores
  split
  · exact matrix_loading h
  · rw [h]; exact matrix_loading h

theorem matrixStores_ready (h : s.co.loading = false) (hg : s.storesGate o.writes = none) :
    s.matrixStores i op (.ok o) = s.enqueue i s.plainCtx op o true := by
  simp only [State.matrixStores, h, hg, matrix_ready h]
  rfl

theorem matrixStores_waits {why : Park} (h : s.co.loading = false) (hg : s.storesGate o.writes = some why) :
    s.matrixStores i op (.ok o) = s.park why := by
  simp only [State.matrixStores, h, hg]
  rfl

/-- The instruction enters the queue when its stores may be made, and waits for the acquire and the values that hold them. -/
def storesQueue (i : Instr) (op : MatOp) (o : OpRange) (s : State) : Prop :=
  (s.storesGate o.writes = none → queues i s.plainCtx op o true s) ∧
  (canIssue i s = true → s.co.loading = false → o.writes ≠ [] → s.th.acqReady = false → gives i s (s.park .acquire)) ∧
  (canIssue i s = true → s.co.loading = false → o.writes ≠ [] → s.th.acqReady = true → valuesReady s.th.outs = false →
    gives i s (s.park .values))

theorem storesQueue_of_matrixStores (hexec : exec i s = issue (issueOf i) body s) (hbody : body s = s.matrixStores i op chk)
    (hchk : chk = .ok o) : storesQueue i op o s := by
  subst hchk
  exact ⟨fun hg => queues_of_enqueue hexec (fun h => hbody.trans (matrixStores_loading h)) fun h =>
      hbody.trans (matrixStores_ready h hg),
    fun h hl hw ha => gives_of_issue hexec (hbody.trans (matrixStores_waits hl (storesGate_acquire hw ha))) h,
    fun h hl hw ha hv => gives_of_issue hexec (hbody.trans (matrixStores_waits hl (storesGate_values hw ha hv))) h⟩

end

/-! ### MWL and MMA -/

section
variable {g : Bool} {sc : Scope} {r q u : Bool} {b a : GReg} {f : TyCode} {n : TileNo} {s : State} {rng : OpRange}

theorem mwl_queues {sp : Nat} (hr : s.matrixRange (s.rg a) (tileBytes f) { r := true } true = .ok rng)
    (hc : s.sigCheck g 0x34 = .ok sp) :
    queues (.mwl g sc r q u a f) (s.mkCtx q r g sc sp) (.mwl f (s.rg a)) rng false s :=
  queues_of_enqueue (by unfold exec execMwl; rfl) (fun h => by simp only [h, if_true]) fun h => by
    simp only [h, Bool.false_eq_true, if_false, hr, hc]

theorem mwl_badCounter {s' : State} (hr : s.matrixRange (s.rg a) (tileBytes f) { r := true } true = .ok rng)
    (hc : s.sigCheck g 0x34 = .error s') (h : canIssue (.mwl g sc r q u a f) s = true) (hl : s.co.loading = false) :
    gives (.mwl g sc r q u a f) s s' :=
  gives_of_issue (by unfold exec execMwl; rfl) (by simp only [hl, Bool.false_eq_true, if_false, hr, hc]) h

/-- An MMA of a number of rows that R169 does not allow is illegal. -/
theorem mma_illegal (hrows : (s.rg b).toNat = 0 ∨ 64 < (s.rg b).toNat) (h : canIssue (.mma g sc r q u b a f n) s = true) :
    gives (.mma g sc r q u b a f n) s (s.trap 0x01 (word (wordOf (.mma g sc r q u b a f n))) 4) :=
  gives_of_issue (by unfold exec execMma; rfl) (by exact if_pos (by simpa using hrows)) h

/-- The rows of an MMA that R169 allows. -/
theorem rows_allowed {rows : Nat} (hlo : 1 ≤ rows) (hhi : rows ≤ 64) : (decide (rows = 0) || decide (rows > 64)) = false := by
  simp; omega

theorem mma_queues {sp : Nat} (hlo : 1 ≤ (s.rg b).toNat) (hhi : (s.rg b).toNat ≤ 64)
    (hr : s.matrixRange (s.rg a) ((s.rg b).toNat * rowStride f s.co.depthAfter) { r := true } false = .ok rng)
    (hc : s.sigCheck g 0x35 = .ok sp) :
    queues (.mma g sc r q u b a f n) (s.mkCtx q r g sc sp) (.mma f n (s.rg a) (s.rg b).toNat) rng false s :=
  queues_of_enqueue (by unfold exec execMma; rfl)
    (fun h => by simp only [rows_allowed hlo hhi, h, Bool.false_eq_true, if_false, if_true]) fun h => by
      simp only [rows_allowed hlo hhi, h, Bool.false_eq_true, if_false, hr, hc]

theorem mma_badCounter {s' : State} (hlo : 1 ≤ (s.rg b).toNat) (hhi : (s.rg b).toNat ≤ 64)
    (hr : s.matrixRange (s.rg a) ((s.rg b).toNat * rowStride f s.co.depthAfter) { r := true } false = .ok rng)
    (hc : s.sigCheck g 0x35 = .error s') (h : canIssue (.mma g sc r q u b a f n) s = true) (hl : s.co.loading = false) :
    gives (.mma g sc r q u b a f n) s s' :=
  gives_of_issue (by unfold exec execMma; rfl)
    (by simp only [rows_allowed hlo hhi, hl, Bool.false_eq_true, if_false, hr, hc]) h

end

/-! ### The ACC instructions and MSTAT -/

/-- ACCLIVE without a second anchor (R175). -/
theorem accLive_live (t : Nat) (e : BitVec 10) : accLive t 0 0 e = .trap 0x0C (word t) (word e.toNat) := by
  simp [accLive]

/-- ACCLIVE of unequal anchors (R175). -/
theorem accLive_anchors (t : Nat) (src e : BitVec 10) :
    accLive t 1 src e = .trap 0x0C (word t) (word (2 ^ 56 + src.toNat * 65536 + e.toNat)) := by
  simp [accLive]

section
variable {x y k : Bool} {b a d : GReg} {f : TyCode} {n m : TileNo} {s : State} {rng : OpRange}

theorem acccfg_queues (h : (s.co.tileAfter n).1 = false ∨ k = true) :
    queues (.acccfg x a k n) s.plainCtx (.acccfg n ((s.rg a).setWidth 10) k) {} false s :=
  queues_of_matrix (chk := if (s.co.tileAfter n).1 && !k then .error (accLive n 0 0 (s.co.tileAfter n).2) else .ok {})
    (by unfold exec execAcccfg; rfl) (by rfl) (if_neg (by rcases h with h | h <;> simp [h]))

theorem acccfg_live (hn : (s.co.tileAfter n).1 = true) (h : canIssue (.acccfg x a false n) s = true)
    (hl : s.co.loading = false) :
    gives (.acccfg x a false n) s (s.trap 0x0C (word n) (word (s.co.tileAfter n).2.toNat)) :=
  traps_of_matrix (chk := if (s.co.tileAfter n).1 && !false then .error (accLive n 0 0 (s.co.tileAfter n).2) else .ok {})
    (by unfold exec execAcccfg; rfl) (by rfl) ((if_pos (by simp [hn])).trans (by rw [accLive_live])) h hl

theorem acczero_queues : queues (.acczero n) s.plainCtx (.acczero n) {} false s :=
  queues_of_matrix (by unfold exec execAcczero; rfl) (by rfl) rfl

theorem accadd_queues (h : (s.co.tileAfter n).2 = (s.co.tileAfter m).2) :
    queues (.accadd m n) s.plainCtx (.accadd n m) {} false s :=
  queues_of_matrix (by unfold exec execAccadd; rfl) (by rfl) (if_neg (by simp [h]))

theorem accadd_unequal (hne : (s.co.tileAfter n).2 ≠ (s.co.tileAfter m).2) (h : canIssue (.accadd m n) s = true)
    (hl : s.co.loading = false) : gives (.accadd m n) s (s.trap 0x0C (word n)
      (word (2 ^ 56 + (s.co.tileAfter m).2.toNat * 65536 + (s.co.tileAfter n).2.toNat))) :=
  traps_of_matrix (by unfold exec execAccadd; rfl) (by rfl) ((if_pos (by simp [hne])).trans (by rw [accLive_anchors])) h hl

/-- An ACCRD of no row makes no store (R173). -/
theorem accrd_queues_none (hb : s.rg b = 0) :
    queues (.accrd y x b a f n) s.plainCtx (.accrd n f (s.rg a) 0 0) {} true s := by
  obtain ⟨hgo, -⟩ := storesQueue_of_matrixStores (i := .accrd y x b a f n) (op := .accrd n f (s.rg a) (s.rg b).toNat 0)
    (by unfold exec execAccrd; rfl) (by rfl) (if_pos hb)
  have hqueue := hgo rfl
  rwa [hb] at hqueue

theorem accrd_stores (hb : s.rg b ≠ 0) (hr : s.writeRange (s.rg a) ((Nat.log2 (s.rg b).toNat + 1) * accRowBytes f)
      (fun i => bitOf (s.rg b) (64 * i / accRowBytes f)) = .ok rng) :
    storesQueue (.accrd y x b a f n) (.accrd n f (s.rg a) (s.rg b).toNat 0) rng s :=
  storesQueue_of_matrixStores (by unfold exec execAccrd; rfl) (by rfl) ((if_neg hb).trans hr)

theorem accsave_stores (hr : s.writeRange (s.rg a) 49216 (fun _ => true) = .ok rng) :
    storesQueue (.accsave x a n) (.accsave n (s.rg a)) rng s :=
  storesQueue_of_matrixStores (by unfold exec execAccsave; rfl) (by rfl) hr

theorem accload_queues (hn : (s.co.tileAfter n).1 = false) (hr : s.matrixRange (s.rg a) 49216 { r := true } true = .ok rng) :
    queues (.accload x a n) s.plainCtx (.accload n (s.rg a)) rng true s :=
  queues_of_matrix (chk := if (s.co.tileAfter n).1 then .error (accLive n 0 0 (s.co.tileAfter n).2)
      else s.matrixRange (s.rg a) 49216 { r := true } true)
    (by unfold exec execAccload; rfl) (by rfl) ((if_neg (by simp [hn])).trans hr)

theorem accload_live (hn : (s.co.tileAfter n).1 = true) (h : canIssue (.accload x a n) s = true) (hl : s.co.loading = false) :
    gives (.accload x a n) s (s.trap 0x0C (word n) (word (s.co.tileAfter n).2.toNat)) :=
  traps_of_matrix (chk := if (s.co.tileAfter n).1 then .error (accLive n 0 0 (s.co.tileAfter n).2)
      else s.matrixRange (s.rg a) 49216 { r := true } true)
    (by unfold exec execAccload; rfl) (by rfl) ((if_pos (by simp [hn])).trans (by rw [accLive_live])) h hl

theorem mstat_queues : queues (.mstat x a d) s.plainCtx (.mstat (fld (s.rg a) 0 4) (bitOf (s.rg a) 4) d) {} true s :=
  queues_of_matrix (by unfold exec execMstat; rfl) (by rfl) rfl

end

/-- Settles O43: each instruction by its checks, and by its way into the matrix queue where they pass. -/
theorem matrixCommands : Obligations.MatrixCommands := by
  intro sc r q g u y x k b a d f n m s rng sp queued plain traps stores rows live anchor counter mwl mma mwlRange mmaRange
  have good {maj : Nat} (h : counter maj) : s.sigCheck g maj = .ok sp := by
    obtain ⟨hsig, hnone⟩ := h
    exact sigCheck_ok hsig hnone
  have bad {maj : Nat} {s' : State} (hg : g = true) (hc : s.typedCheck (s.th.xv 3) maj = .error s') :
      s.sigCheck g maj = .error s' := by rw [State.sigCheck, hg]; exact hc
  exact ⟨fun hr hc => mwl_queues hr (good hc), fun s' hr hg hc => mwl_badCounter hr (bad hg hc),
    fun ⟨hlo, hhi, hr⟩ hc => mma_queues hlo hhi hr (good hc),
    fun s' ⟨hlo, hhi, hr⟩ hg hc => mma_badCounter hlo hhi hr (bad hg hc), mma_illegal, acccfg_queues, acccfg_live,
    acczero_queues, accadd_queues, accadd_unequal, accrd_queues_none, accrd_stores, accsave_stores, accload_queues,
    accload_live, mstat_queues⟩

end Sys2Proof.Machine
end

section
/-! SUPPORT. The matrix unit performs an ACCSAVE whose instruction its thread has set aside (R159, R163). -/

namespace Sys2Proof.Machine

open Sys2Proof

/-! ### The head of the queue -/

/-- An entry whose operand words have been asked for, of which it has none. -/
def MatCmd.begun (m : MatCmd) : MatCmd := { m with asked := true, got := [] }

/-- The matrix unit performs a ready head of its queue at once when the entry reads no operand. -/
theorem exec_matrixEntry_noOperand {c : Nat} {s : State} {m : MatCmd} {more : List MatCmd} (hc : c < 768)
    (hq : (s.coreAt c).mq = m :: more) (hr : s.matrixReady c m = true) (ha : m.asked = false)
    (ho : (m.operand (s.coreAt c).active.k).2 = 0) : exec (.matrixEntryComplete c) s =
      .next ((s.modCore c fun k => { k with mq := m.begun :: more }).matrixPerform c m.begun []) := by
  change execMatrixEntryComplete c s = _
  simp [execMatrixEntryComplete, coreOk, hc, hq, hr, ha, ho, State.wordsFree, State.askWords, State.readWords, MatCmd.begun]

/-! ### Stores to the own scratchpad -/

/-- An access to the own scratchpad changes its bytes and its poison alone. -/
theorem performAt_own (s : State) (c t asid off : Nat) (va : Word) (maj : Nat) (a : Access) (dst : Dest) (toHome : Bool) :
    (s.performAt c t asid (.own off) va maj a dst toHome).1 = s.setCore c { s.coreAt c with
      spm := (accCells (s.coreAt c).spm (s.coreAt c).spmBad off a).1,
      spmBad := (accCells (s.coreAt c).spm (s.coreAt c).spmBad off a).2.1 } := rfl

theorem thread_performAt_own (s : State) (c t asid off : Nat) (va : Word) (maj : Nat) (a : Access) (dst : Dest) (toHome : Bool)
    (u : Nat) : (s.performAt c t asid (.own off) va maj a dst toHome).1.thread c u = s.thread c u :=
  thread_congr (s := s) (by rw [performAt_own, coreAt_setCore]) u

/-- One of the stores that `sendStores` makes: it leaves the core, or is counted among those whose device is unreachable. -/
def storeStep (c : Nat) (m : MatCmd) (base : Word) (data : Nat → Line) (r : State × Nat × Word) (p : Word × Place) :
    State × Nat × Word :=
  if r.1.gone p.2 then (r.1, r.2.1 + 1, if r.2.1 = 0 then p.1 else r.2.2)
  else ((r.1.performAt c m.ctx.slot m.ctx.asid.toNat p.2 p.1 0x36 (.store 64 (data (p.1 - base).toNat)) (.matrix m.id) false).1,
    r.2)

theorem thread_storeStep {p : Word × Place} (h : ∃ off, p.2 = .own off) (c : Nat) (m : MatCmd) (base : Word)
    (data : Nat → Line) (r : State × Nat × Word) (u : Nat) :
    (storeStep c m base data r p).1.thread c u = r.1.thread c u := by
  obtain ⟨off, hoff⟩ := h
  unfold storeStep
  split
  · rfl
  · rw [hoff, thread_performAt_own]

theorem thread_foldl_storeStep {ps : List (Word × Place)} (hown : ∀ p ∈ ps, ∃ off, p.2 = .own off) (c : Nat) (m : MatCmd)
    (base : Word) (data : Nat → Line) (r : State × Nat × Word) (u : Nat) :
    (ps.foldl (storeStep c m base data) r).1.thread c u = r.1.thread c u :=
  List.foldlRecOn (motive := fun x : State × Nat × Word => x.1.thread c u = r.1.thread c u) ps _ rfl fun _ hx p hp =>
    (thread_storeStep (hown p hp) ..).trans hx

/-- Stores that no thread counts leave the slot its thread's accesses as they were, and none is lost (R163). -/
theorem sendStores_eq_of_uncounted {s : State} {c : Nat} {m : MatCmd} (h : s.storesCounted c m = false) (base : Word)
    (data : Nat → Line) : s.sendStores c m base data =
      ((m.writes.foldl (storeStep c m base data) (s.modThread c m.ctx.slot fun t =>
        { t with outs := t.outs.filter fun o => o.id != m.id }, 0, 0)).1.modThread c m.ctx.slot fun t =>
          { t with outs := (s.thread c m.ctx.slot).outs }, 0, 0) := by
  simp only [State.sendStores, h]
  rfl

/-- Where they go to the own scratchpad, the slot's thread is as it was. -/
theorem sendStores_uncounted {s : State} {c : Nat} {m : MatCmd} (h : s.storesCounted c m = false)
    (hown : ∀ p ∈ m.writes, ∃ off, p.2 = .own off) (base : Word) (data : Nat → Line) :
    ∃ t, s.sendStores c m base data = (t, 0, 0) ∧ t.thread c m.ctx.slot = s.thread c m.ctx.slot := by
  refine ⟨_, sendStores_eq_of_uncounted h base data, ?_⟩
  rw [thread_modThread, thread_foldl_storeStep hown, thread_modThread]

/-! ### An answer to an instruction that was set aside -/

/-- It is kept with the instruction (log entry 8). -/
theorem thread_waitAnswered_aside {s : State} {c t id : Nat} (h : ((s.thread c t).aside.any fun a => a.takes id none) = true)
    (r : Result) : (s.waitAnswered c t id r).thread c t = (s.thread c t).keepAnswer id none r := by
  rw [State.waitAnswered, if_pos h, thread_modThread]

/-- An ACCSAVE to the own scratchpad whose stores no thread counts, but whose instruction the slot's thread has set aside, leaves its
answer there. -/
theorem matrixPerform_accsave_aside {s : State} {c : Nat} {m : MatCmd} {n : TileNo} {a : Word} (hop : m.op = .accsave n a)
    (hown : ∀ p ∈ m.writes, ∃ off, p.2 = .own off) (hcount : s.storesCounted c m = false)
    (haside : ((s.thread c m.ctx.slot).aside.any fun x => x.takes m.id none) = true) (words : List (Nat × Bool)) :
    (s.matrixPerform c m words).thread c m.ctx.slot = (s.thread c m.ctx.slot).keepAnswer m.id none .done := by
  obtain ⟨t, hsent, hthread⟩ := sendStores_uncounted hcount hown a (pieceAt (tileImage ((s.coreAt c).tile n)))
  have hpop : (t.popMatrix c).thread c m.ctx.slot = s.thread c m.ctx.slot :=
    (thread_congr (s := t) (by rw [State.popMatrix, coreAt_modCore]) _).trans hthread
  simp only [State.matrixPerform, hop, hsent, State.storesLost, if_true, State.matrixWake]
  rw [thread_waitAnswered_aside (by rw [hpop]; exact haside), hpop]

/-! ### The counterexample -/

/-- A thread that has set aside the instruction of entry 7, of which it counts no store. -/
def asideThread : Thread := { aside := [⟨⟨.matrix, 7, 1, 0x36, 4, 0, 0, .none, [], none⟩, 0, false, []⟩] }

/-- Entry 7: an ACCSAVE of tile 0 that makes some stores. -/
def savingEntry (pieces : List (Word × Place)) : MatCmd :=
  ⟨7, 0, State.reset.plainCtx, .accsave 0 0, (0, 0), [], pieces, false, []⟩

/-- Core 0 of a reset device, with that thread in slot 0 and that entry as its matrix queue. -/
def savingAside (pieces : List (Word × Place)) : State :=
  State.reset.setCore 0 { mq := [savingEntry pieces], threads := [(0, asideThread)] }

section
variable {pieces : List (Word × Place)} (hown : ∀ p ∈ pieces, ∃ off, p.2 = .own off)
include hown

/-- Nothing holds the entry back. -/
theorem matrixReady_savingAside : (savingAside pieces).matrixReady 0 (savingEntry pieces) = true := by
  have hpath : (pieces.all fun x => !(savingAside pieces).pathConflict 0 x.2 false) = true := by
    refine List.all_eq_true.2 fun p hp => ?_
    obtain ⟨off, hoff⟩ := hown p hp
    rw [hoff]
    rfl
  exact (Bool.and_eq_true _ _).mpr ⟨rfl, hpath⟩

/-- The unit performs the entry, and its answer is kept with the instruction that was set aside. -/
theorem exec_savingAside : ∃ t, exec (.matrixEntryComplete 0) (savingAside pieces) = .next t ∧
    t.thread 0 0 = asideThread.keepAnswer 7 none .done :=
  ⟨_, exec_matrixEntry_noOperand (more := []) (by decide) rfl (matrixReady_savingAside hown) rfl rfl,
    matrixPerform_accsave_aside (m := (savingEntry pieces).begun) rfl hown rfl rfl []⟩

end

/-- The pieces of a tile image at the first bytes of the own scratchpad. -/
def imagePieces : List (Word × Place) :=
  (List.range (49216 / 64)).map fun i => (0 + word (0 + 64 * i), .own (0 + 0 + 64 * i))

theorem imagePieces_own : ∀ p ∈ imagePieces, ∃ off, p.2 = .own off := by
  intro p hp
  rw [imagePieces, List.mem_map] at hp
  obtain ⟨i, -, rfl⟩ := hp
  exact ⟨_, rfl⟩

/-- Refutes O53, in its clause on ACCSAVE: the slot's thread does not wait and counts none of the stores, but has the entry's
instruction set aside, so the answer is kept there and the thread is not as it was. The statement ranges over every state, and this
clause alone of those that speak of the thread's answer does not ask that the answer be `direct`. -/
theorem not_matrixEntries : ¬ Obligations.MatrixEntries := by
  intro entries
  have hready := matrixReady_savingAside imagePieces_own
  obtain ⟨-, -, -, -, -, -, save, -⟩ := entries (savingAside imagePieces) 0 (savingEntry imagePieces) [] 0 (by decide) rfl rfl
    hready rfl (memoriesCanonical_setCore resetMemoriesCanonical 0 rfl)
  obtain ⟨t, hexec, -, -, -, -, -, -, hkept, -⟩ := save 0 0 rfl (by rw [savingEntry, imagePieces])
  have hthread : t.thread 0 0 = asideThread := hkept rfl rfl
  obtain ⟨u, hrun, hanswered⟩ := exec_savingAside imagePieces_own
  obtain rfl := Host.Outcome.next.inj (hexec.symm.trans hrun)
  exact absurd (hthread.symm.trans hanswered) (by decide)

end Sys2Proof.Machine
end
